-- ==== Sys2Proof/Word.lean ====
section
/-! DEFINITION. Word.lean: the byte, and the plainest readings between bytes, bits and numbers (11.3: multi-byte numbers are
sent high byte first, bit 7 is the most significant bit of a byte). -/

namespace Sys2Proof

/-- One byte, as the set link and the serial port carry it (R45, R135). -/
abbrev Byte := BitVec 8

/-- The byte that holds the low eight bits of a number. -/
def byteOf (n : Nat) : Byte := BitVec.ofNat 8 n

/-- 1 for a set flag, 0 for a clear one (R187: "A flag is 1 when set"). -/
def bit (b : Bool) : Nat := if b then 1 else 0

end Sys2Proof
end

