-- ==== Sys2Proof/Config.lean ====
section
/-! DEFINITION. Config.lean: the times and limits that the manual fixes in the part itself, in milliseconds (the configured
parameters are state: R177's table, held in `Machine.Params`). The manual leaves no computed value open, so there is no free
value here (INVENTORY, "What the manual leaves open"). -/

namespace Sys2Proof.Config

/-- The step in which timers resolve (00_scope, Timers; R129). -/
def tickMs : Nat := 10
/-- Stability time of RUN, ESTOP, FAULT_RESET and ISOLATE (R28, R29). -/
def discreteStableMs : Nat := 50
/-- Stability time of the throttle code (R34). -/
def codeStableMs : Nat := 100
/-- The invalid-code timer (R34, R36). -/
def invalidCodeMs : Nat := 2000
/-- The hold-off of LINK_FAULT (R56). -/
def holdOffMs : Nat := 1000
/-- The consecutive bit-error count that enters LINK_FAULT (R55, R56). -/
def bitErrorLimit : Nat := 8
/-- The heartbeat after an own STATUS (R60). -/
def heartbeatMs : Nat := 250
/-- The first heartbeat's time for each unit of the station number (R60). -/
def heartbeatOffsetMs : Nat := 25
/-- The spacing of own STATUS frames (R61). -/
def spacingMs : Nat := 50
/-- Consecutive released bit times that make the line IDLE (R44). -/
def idleBits : Nat := 9
/-- The bits of an end field (R45). -/
def endBits : Nat := 7
/-- The age timer of a peer entry (R69). -/
def ageMs : Nat := 1000
/-- The listen interval (R87). -/
def listenMs : Nat := 1200
/-- The evaluation timer (R88). -/
def evaluationMs : Nat := 200
/-- The settle interval of a claim (R119). -/
def settleMs : Nat := 400
/-- The margin that a lease adds to a claim (R111, R113). -/
def leaseMarginMs : Nat := 1000
/-- The heat timer's period (R125). -/
def heatMs : Nat := 100
/-- The highest starter heat (R125). -/
def heatMax : Nat := 65535
/-- The fire-confirm time (R12). -/
def fireConfirmMs : Nat := 500
/-- The speed below which an engine counts as stopped, rpm (R23, R25, R26). -/
def stoppedRpm : Nat := 30
/-- The highest measured speed, rpm (R146). -/
def maxRpm : Nat := 3000
/-- The value at which the dwell count is held (R129). -/
def dwellHoldMs : Nat := 20000
/-- The setpoint refresh period (R139). -/
def refreshMs : Nat := 1000
/-- The governor status timer's period (R141). -/
def governorStatusMs : Nat := 200
/-- The stall time (R149). -/
def stallMs : Nat := 2000
/-- The lowest raw reading inside the band of an analog channel (R144). -/
def bandLow : Nat := 64
/-- The highest raw reading inside the band (R144). -/
def bandHigh : Nat := 960
/-- The cap that COOLANT_SENSOR puts on the derate factor (R151). -/
def sensorFaultCap : Nat := 128
/-- The lowest derate factor (R151). -/
def minDerate : Nat := 64
/-- The value at which a member's active time is held: 65535 s (R157). -/
def activeHoldMs : Nat := 65535000
/-- Stability time of a feedback input (R168). -/
def feedbackStableMs : Nat := 20
/-- The proving time (R169). -/
def provingMs : Nat := 300
/-- The format marker of a good image (R176). -/
def formatMarker : Nat := 0x4B
/-- The signature of a good STATUS_READ (R141, R142). -/
def governorSignature : Nat := 0xA5
/-- The highest hours count (R177, R180). -/
def maxHours : Nat := 999999
/-- The running windows of one minute (R181). -/
def windowsPerMinute : Nat := 600

end Sys2Proof.Config
end

