-- ==== Sys2Proof/Syntax.lean ====
section
/-! DEFINITION. Syntax.lean: the commands of the block, one constructor for each row of spec/opcode_table.json, with the
operands that come from outside the part (levels read at pins, readings, bytes, frames). A timer's expiry has no operand: what
it finds is in the state. -/

namespace Sys2Proof

/-- The levels of the five strap pins, true for a 1 (open), as the Loader reads them once at the end of a reset (R174). -/
structure Straps where
  s0 : Bool
  s1 : Bool
  s2 : Bool
  l0 : Bool
  l1 : Bool
deriving DecidableEq, Repr

/-- The four discrete lines of the Cab Line Unit (R28, R29). -/
inductive CabLine where
  | run | estop | faultReset | isolate
deriving DecidableEq, Repr

/-- One sample of the eight cab inputs as the pins have them: true for a trainline wire that is energised and for the ISOLATE
switch closed; which of the two levels is the asserted one is R28's table (`Machine.assertedLevel`). -/
structure CabLevels where
  /-- the RUN wire is energised -/
  run : Bool
  /-- the ESTOP wire is energised: the loop is closed -/
  estop : Bool
  /-- the FAULT_RESET wire is energised -/
  faultReset : Bool
  /-- the ISOLATE switch is closed -/
  isolate : Bool
  /-- the T1 wire is energised -/
  t1 : Bool
  /-- the T2 wire is energised -/
  t2 : Bool
  /-- the T3 wire is energised -/
  t3 : Bool
  /-- the T4 wire is energised -/
  t4 : Bool
deriving DecidableEq, Repr

/-- Where in an own frame a bit error strikes (R55, R63): what the line and the receiver do next depends on it. -/
inductive BitErrorPlace where
  /-- in the start bit: no frame is on the line -/
  | startBit
  /-- a driven bit of the priority field read released -/
  | priorityField
  /-- in the length, data or check field -/
  | afterPriority
  /-- in the end field -/
  | inEndField
deriving DecidableEq, Repr

/-- The bits of one frame as a receiver has read them, field by field (R45). -/
structure RawFrame where
  kind : BitVec 3
  source : BitVec 3
  length : BitVec 4
  data : List Byte
  check : Byte
  endField : BitVec 7
deriving DecidableEq, Repr

/-- The three analog channels (R144). -/
inductive Channel where
  | coolant | oil | battery
deriving DecidableEq, Repr

/-- The three outputs that are proved by feedback (R166, R168). -/
inductive ProvedOutput where
  | crank | fuel | prelube
deriving DecidableEq, Repr

/-- The commands: one constructor for each row of the table of operations and events. -/
inductive Instr where
  /-- POWER_ON_RESET (R183), with the straps read at its end (R174). -/
  | powerOnReset (straps : Straps)
  /-- CORE_RESET (R183), with the straps read at its end (R174). -/
  | coreReset (straps : Straps)
  /-- CAB_LINE_QUALIFICATION (R29): the stability timer of one line expires. -/
  | cabLineQualification (line : CabLine)
  /-- THROTTLE_CODE_QUALIFICATION (R34). -/
  | throttleCodeQualification
  /-- INVALID_CODE_TIMER_EXPIRY (R36). -/
  | invalidCodeTimerExpiry
  /-- LAYOVER_CHECK_EXPIRY (R40). -/
  | layoverCheckExpiry
  /-- FRAME_START (R53). -/
  | frameStart
  /-- ARBITRATION_LOSS (R54). -/
  | arbitrationLoss
  /-- BIT_ERROR (R55). -/
  | bitError (place : BitErrorPlace)
  /-- HOLD_OFF_EXPIRY (R56). -/
  | holdOffExpiry
  /-- TRANSMISSION_COMPLETION (R57). -/
  | transmissionCompletion
  /-- FRAME_ARRIVAL (R48): the frame read from the line. -/
  | frameArrival (frame : RawFrame)
  /-- HEARTBEAT_EXPIRY (R60). -/
  | heartbeatExpiry
  /-- SPACING_TIMER_EXPIRY (R61). -/
  | spacingTimerExpiry
  /-- FRAME_APPLICATION (R70). -/
  | frameApplication
  /-- APPLICATION_END (R65). -/
  | applicationEnd
  /-- AGE_EXPIRY (R69) of the entry at a station number. -/
  | ageExpiry (station : Nat)
  /-- LISTEN_TIMER_EXPIRY (R87). -/
  | listenTimerExpiry
  /-- EVALUATION_TIMER_EXPIRY (R88). -/
  | evaluationTimerExpiry
  /-- PASS_START (R89). -/
  | passStart
  /-- PASS_END (R91). -/
  | passEnd
  /-- STOP_DELAY_EXPIRY (R105). -/
  | stopDelayExpiry
  /-- PRELUBE_TIME_EXPIRY (R8). -/
  | prelubeTimeExpiry
  /-- CRANK_TIME_EXPIRY (R13). -/
  | crankTimeExpiry
  /-- FIRE_CONFIRM_EXPIRY (R12). -/
  | fireConfirmExpiry
  /-- RUNUP_TIME_EXPIRY (R15). -/
  | runupTimeExpiry
  /-- WARM_MIN_EXPIRY (R16). -/
  | warmMinExpiry
  /-- WARM_MAX_EXPIRY (R16). -/
  | warmMaxExpiry
  /-- COOLDOWN_EXPIRY (R20). -/
  | cooldownExpiry
  /-- STOP_LIMIT_EXPIRY (R23). -/
  | stopLimitExpiry
  /-- REST_TIMER_EXPIRY (R3). -/
  | restTimerExpiry
  /-- MIN_RUN_EXPIRY (R17). -/
  | minRunExpiry
  /-- LEASE_EXPIRY (R114). -/
  | leaseExpiry
  /-- RECOVERY_TIMER_EXPIRY (R115). -/
  | recoveryTimerExpiry
  /-- SETTLE_EXPIRY (R120). -/
  | settleExpiry
  /-- HEAT_UPDATE (R125). -/
  | heatUpdate
  /-- UP_DWELL_EVENT (R130). -/
  | upDwellEvent
  /-- DOWN_DWELL_EVENT (R130). -/
  | downDwellEvent
  /-- CONFIG_READ_COMPLETION (R138), with the eight bytes sampled on the data-in line. -/
  | configReadCompletion (bytes : List Byte)
  /-- SETPOINT_WRITE_COMPLETION (R139). -/
  | setpointWriteCompletion
  /-- HOURS_WRITE_COMPLETION (R140). -/
  | hoursWriteCompletion
  /-- STATUS_READ_COMPLETION (R142), with the four bytes of R141's table. -/
  | statusReadCompletion (signature state faultCode fuelDemand : Byte)
  /-- SETPOINT_REFRESH_EXPIRY (R139). -/
  | setpointRefreshExpiry
  /-- GOVERNOR_STATUS_TIMER_EXPIRY (R141). -/
  | governorStatusTimerExpiry
  /-- ANALOG_SAMPLE (R145): the raw reading of one channel. -/
  | analogSample (channel : Channel) (raw : Nat)
  /-- SPEED_VALUE (R146): the pickup pulses of the 100 ms window. -/
  | speedValue (pulses : Nat)
  /-- GRACE_TIMER_EXPIRY (R147). -/
  | graceTimerExpiry
  /-- STALL_TIMER_EXPIRY (R149). -/
  | stallTimerExpiry
  /-- PROTECTIVE_INPUT_QUALIFICATION (R155) of input Dk, k in 1..12. -/
  | protectiveInputQualification (k : Nat)
  /-- FEEDBACK_QUALIFICATION (R168). -/
  | feedbackQualification (output : ProvedOutput)
  /-- PROVING_TIMER_EXPIRY (R169). -/
  | provingTimerExpiry (output : ProvedOutput)
  /-- CONFIG_LOAD_COMPLETION (R179). -/
  | configLoadCompletion
  /-- READ_SELF (R186), with the argument byte. -/
  | readSelf (argument : Byte)
  /-- READ_PEER (R186), with the argument byte. -/
  | readPeer (argument : Byte)
  /-- READ_CONDITIONS (R186), with the argument byte. -/
  | readConditions (argument : Byte)
  /-- READ_FAULT_RECORD (R186), with the argument byte. -/
  | readFaultRecord (argument : Byte)
  /-- READ_HOURS (R186), with the argument byte. -/
  | readHours (argument : Byte)
  /-- READ_INPUTS (R186), with the argument byte. -/
  | readInputs (argument : Byte)
  /-- BAD_CODE (R186): a request whose code is 0 or 7..255, with its code and argument. -/
  | badCode (code argument : Byte)
  /-- CAB_LINE_SAMPLE (R29, R34). -/
  | cabLineSample (levels : CabLevels)
  /-- PROTECTIVE_INPUT_SAMPLE (R155): the twelve levels D1..D12 in order, true for a closed contact. -/
  | protectiveInputSample (levels : Vector Bool 12)
  /-- FEEDBACK_SAMPLE (R168): true for a closed auxiliary contact. -/
  | feedbackSample (crank fuel prelube : Bool)
  /-- LINE_IDLE (R44): so many more consecutive released bit times have been read, nine unless said otherwise; with fewer the count
  is on its way to the nine that make the line IDLE (log 9). -/
  | lineIdle (released : Nat := 9)
  /-- START_BIT_READ (R44): a driven bit read while the line is not IN_FRAME. -/
  | startBitRead
  /-- END_OF_PRIORITY_FIELD (R63). -/
  | endOfPriorityField
deriving DecidableEq, Repr

end Sys2Proof
end

