-- ==== Sys2Proof/WellFormed.lean ====
section
/-! DEFINITION. WellFormed.lean: which operands the part's connections can carry at all. A command outside these bounds is no
event of the part (its meaning is total all the same: log 26). -/

namespace Sys2Proof

/-- A frame read from the line holds as many data bytes as its length field says (R44: the parser takes the number of data
bytes from the length field as read). -/
def RawFrame.wf (f : RawFrame) : Bool := f.data.length == f.length.toNat

/-- The operands of a command are ones that its connection can carry. -/
def Instr.wf : Instr → Bool
  | .frameArrival f => f.wf
  | .ageExpiry n => decide (1 ≤ n) && decide (n ≤ 7)
  | .configReadCompletion bytes => bytes.length == 8
  | .analogSample _ raw => decide (raw ≤ 1023)
  | .protectiveInputQualification k => decide (1 ≤ k) && decide (k ≤ 12)
  | .lineIdle released => decide (released ≤ 9)
  | .badCode code _ => code == 0 || decide (7 ≤ code.toNat)
  | .powerOnReset _ | .coreReset _ | .cabLineQualification _ | .throttleCodeQualification
  | .invalidCodeTimerExpiry | .layoverCheckExpiry | .frameStart | .arbitrationLoss | .bitError _
  | .holdOffExpiry | .transmissionCompletion | .heartbeatExpiry | .spacingTimerExpiry
  | .frameApplication | .applicationEnd | .listenTimerExpiry | .evaluationTimerExpiry | .passStart
  | .passEnd | .stopDelayExpiry | .prelubeTimeExpiry | .crankTimeExpiry | .fireConfirmExpiry
  | .runupTimeExpiry | .warmMinExpiry | .warmMaxExpiry | .cooldownExpiry | .stopLimitExpiry
  | .restTimerExpiry | .minRunExpiry | .leaseExpiry | .recoveryTimerExpiry | .settleExpiry
  | .heatUpdate | .upDwellEvent | .downDwellEvent | .setpointWriteCompletion
  | .hoursWriteCompletion | .statusReadCompletion _ _ _ _ | .setpointRefreshExpiry
  | .governorStatusTimerExpiry | .speedValue _ | .graceTimerExpiry | .stallTimerExpiry
  | .feedbackQualification _ | .provingTimerExpiry _ | .configLoadCompletion | .readSelf _
  | .readPeer _ | .readConditions _ | .readFaultRecord _ | .readHours _ | .readInputs _
  | .cabLineSample _ | .protectiveInputSample _ | .feedbackSample _ _ _
  | .startBitRead | .endOfPriorityField => true

end Sys2Proof
end

