-- ==== Sys2Proof/Decode.lean ====
section
/-! DEFINITION. Decode.lean: the command that a word spells. The table of operations and events gives bits to no row: every
row is an event at one of the part's connections, so no word spells a command (log 25). -/

namespace Sys2Proof

/-- The command spelled by a word of the table's bits: none, for the table gives no row any bits (log 25). -/
def decodeTableWord (_nbits _w : Nat) : Option Instr := none

end Sys2Proof
end

