-- ==== Sys2Proof/Machine/State.lean ====
section
/-! DEFINITION. Machine/State.lean: everything the manual gives the part, block by block (00_scope, Block overview), as plain
data; the reasons a step can stop; and the state after reset. Times are in milliseconds. -/

namespace Sys2Proof.Machine

/-- A timer (00_scope, Timers): stopped, running with the time left, or expired until it is restarted. -/
inductive Timer where
  | stopped
  | running (left : Nat)
  | expired
deriving DecidableEq, Repr

/-- A clock that counts up while it runs (the claim clock of R116). -/
inductive Stopwatch where
  | stopped
  | running (elapsed : Nat)
deriving DecidableEq, Repr

/-- The operating mode (R30). -/
inductive Mode where
  | service | layover
deriving DecidableEq, Repr

/-- The fourteen engine states (section 1.1). -/
inductive EngineState where
  | init | isolated | stopped | prelube | claimWait | claimSettle | cranking | runup | warmup
  | online | unloading | cooldown | stopping | faulted
deriving DecidableEq, Repr

/-- Why the engine is on its stop path (section 1.2). -/
inductive StopReason where
  | none | allocation | isolate | condition
deriving DecidableEq, Repr

/-- The stop snapshot (R22, R24). -/
structure StopSnapshot where
  state : EngineState
  speed : Nat
  notch : Nat
deriving DecidableEq, Repr

/-- The Engine Sequencer's records (R1, section 1.2). -/
structure Sequencer where
  state : EngineState
  /-- time since the last entry to a state, ms (R1) -/
  stateTimer : Nat
  attempts : Nat
  rest : Timer
  minRun : Timer
  fireConfirm : Timer
  stopReason : StopReason
  resumed : Bool
  snapshot : StopSnapshot
deriving DecidableEq, Repr

/-- A two-level input that is sampled and qualified (R29, R168): the level last sampled, whether a sample has been taken since
the reset, the stability timer, the qualified level and whether it has been qualified since the reset. -/
structure QualifiedInput where
  sampled : Bool
  sampledYet : Bool
  stability : Timer
  qualified : Bool
  qualifiedYet : Bool
deriving DecidableEq, Repr

/-- The demand decoder's states (R34). -/
inductive DecoderState where
  | unqualified | valid | invalidHold | invalidPeers
deriving DecidableEq, Repr

/-- Where the demand notch comes from (R34, R38). -/
inductive DemandSource where
  | localLines | held | peers | default
deriving DecidableEq, Repr

/-- The Cab Line Unit (chapter 2). -/
structure CabUnit where
  run : QualifiedInput
  estop : QualifiedInput
  faultReset : QualifiedInput
  isolate : QualifiedInput
  sampledCode : Nat
  codeSampledYet : Bool
  codeStability : Timer
  /-- the qualified throttle code, none before the first qualification (R28) -/
  qualifiedCode : Option Nat
  decoder : DecoderState
  /-- the last valid value, none before a valid code is qualified (R34) -/
  lastValid : Option Nat
  invalidCode : Timer
  demand : Nat
  source : DemandSource
  mode : Mode
  layoverCheck : Timer
  coldRun : Bool
  batteryNeed : Bool
deriving DecidableEq, Repr

/-- The line as the Link Controller holds it (R44). -/
inductive LineState where
  | idle | inFrame | settling
deriving DecidableEq, Repr

/-- The outcome field of a RELEASE (R50). -/
inductive ReleaseOutcome where
  | fired | failed | abandoned
deriving DecidableEq, Repr

/-- The fields of a CLAIM (R50). -/
structure ClaimFields where
  /-- crank limit, 100 ms units -/
  crankLimit : Nat
  attempt : Nat
deriving DecidableEq, Repr

/-- The claim slot (R58). A CLAIM in transmission carries the RELEASE and the withdrawal that are held until its outcome. -/
inductive ClaimSlot where
  | empty
  | claimPending (fields : ClaimFields)
  | claimSending (fields : ClaimFields) (heldRelease : Option ReleaseOutcome) (heldWithdrawal : Bool)
  | releasePending (outcome : ReleaseOutcome)
  | releaseSending (outcome : ReleaseOutcome)
deriving DecidableEq, Repr

/-- The content of a REPLY (R51): the code answered, the result code and 0..10 data bytes. -/
structure Reply where
  code : Byte
  result : Byte
  data : List Byte
deriving DecidableEq, Repr

/-- The kinds of frame that a station sends (R47). -/
inductive TxKind where
  | claim | release | status | reply
deriving DecidableEq, Repr

/-- The frame in transmission: which slot's it is, and its bits (section 3.4). -/
structure Transmission where
  kind : TxKind
  frame : RawFrame
deriving DecidableEq, Repr

/-- The Link Controller (chapter 3), with the drain of R66. -/
structure LinkUnit where
  line : LineState
  /-- consecutive released bit times (R44) -/
  releasedBits : Nat
  txEnabled : Bool
  /-- the transmitter was disabled while a frame was in transmission; the slots are emptied at its outcome (R52) -/
  disablePending : Bool
  claimSlot : ClaimSlot
  statusMarked : Bool
  replySlot : Option Reply
  sending : Option Transmission
  bitErrors : Nat
  /-- link-fault state: true in LINK_FAULT (R56) -/
  linkFault : Bool
  holdOff : Timer
  /-- one attempt is granted in LINK_FAULT (R56) -/
  granted : Bool
  heartbeat : Timer
  /-- the first heartbeat since the load has come; until then no STATUS starts (R179) -/
  firstHeartbeat : Bool
  spacing : Timer
  buffers : Vector RawFrame 8
  freeList : List (Fin 8)
  postList : List (Fin 8)
  filling : Option (Fin 8)
  /-- a frame is being received into nothing (R63) -/
  intoNothing : Bool
  applying : Option (Fin 8)
  draining : Bool
  /-- frames of the drain that have not been taken yet (R66) -/
  drainLeft : Nat
  /-- the frame processor has taken up the head of the post list, so that its application goes before a pass (R65, R86); the
  model's own, because FRAME_APPLICATION is a command of its own (log 4) -/
  headTaken : Bool
deriving DecidableEq, Repr

/-- The presence of a peer entry (R67). -/
inductive Presence where
  | absent | present | lost
deriving DecidableEq, Repr

/-- The fields of a STATUS (R49). -/
structure StatusRecord where
  state : EngineState
  notch : Nat
  target : Nat
  capacity : Nat
  bucket : Nat
  eligible : Bool
  claimHeld : Bool
  alone : Bool
  batteryNeed : Bool
  coldRun : Bool
  alarmActive : Bool
  runSeen : Bool
  demand : Nat
  summary : Nat
  claimRemaining : Nat
deriving DecidableEq, Repr

/-- One entry of the peer table (R67); `heldExpiry` is an age expiry held by the view while a pass is in flight (R69). -/
structure PeerEntry where
  presence : Presence
  age : Timer
  heldExpiry : Bool
  record : Option StatusRecord
  changed : Bool
deriving DecidableEq, Repr

/-- The Consist View (chapter 4); `peers[i]` is the entry of station number i + 1. -/
structure ConsistView where
  peers : Vector PeerEntry 7
  everSeen : Bool
  alone : Bool
  sFrozen : Nat
  /-- the counts of the demand fields 0..8 (R83) -/
  tally : List Nat
deriving DecidableEq, Repr

/-- The phase of the Duty Allocator (R85). -/
inductive AllocPhase where
  | waitLoad | listening | ready | inPass
deriving DecidableEq, Repr

/-- The published results (R85). -/
structure PassResults where
  rankedIn : Bool
  sLoad : Nat
  share : Nat
  target : Nat
  coldRunConfirmed : Bool
  selfEligible : Bool
  mode : Mode
deriving DecidableEq, Repr

/-- The snapshot of a pass (R89); `self` is none for a station without a self entry. -/
structure PassSnapshot where
  demand : Nat
  mode : Mode
  self : Option StatusRecord
  derate : Nat
  unload : Bool
  alone : Bool
  sFrozen : Nat
deriving DecidableEq, Repr

/-- The Duty Allocator (chapter 5). -/
structure Allocator where
  phase : AllocPhase
  reEvaluate : Bool
  listen : Timer
  evaluation : Timer
  stopDelay : Timer
  results : PassResults
  snapshot : PassSnapshot
  /-- P_1..P_8 (R102) -/
  powerSteps : List Nat
deriving DecidableEq, Repr

/-- The claim holder in this station's view (R110). -/
inductive Holder where
  | none
  | self
  | peer (station : Nat)
deriving DecidableEq, Repr

/-- The phase of the own claim (R116). -/
inductive ClaimPhase where
  | idle | wanted | offered | lapsed | settling | cranking
deriving DecidableEq, Repr

/-- The Claim Unit (chapter 6). -/
structure ClaimUnit where
  holder : Holder
  lease : Timer
  recovery : Timer
  phase : ClaimPhase
  attempt : Nat
  foreignMark : Bool
  settle : Timer
  clock : Stopwatch
  needStands : Bool
  heat : Nat
  heatTimer : Timer
deriving DecidableEq, Repr

/-- The dwell timer (R129): whether it runs, its count, and which of its two events it has given since its last restart. -/
structure Dwell where
  running : Bool
  count : Nat
  upGiven : Bool
  downGiven : Bool
deriving DecidableEq, Repr

/-- The Notch Stepper (section 7.1, R133). -/
structure Stepper where
  notch : Nat
  dwell : Dwell
  /-- rpm; none is the manual's NONE (R133) -/
  setpoint : Option Nat
deriving DecidableEq, Repr

/-- The transaction in flight on the serial port (R135); a CONFIG_READ carries its number 1..16 (R138). -/
inductive Transaction where
  | configRead (number : Nat)
  | setpointWrite
  | hoursWrite
  | statusRead
deriving DecidableEq, Repr

/-- The governor report: the four bytes of the last STATUS_READ (R142). -/
structure GovernorReport where
  signature : Byte
  state : Byte
  faultCode : Byte
  fuelDemand : Byte
deriving DecidableEq, Repr

/-- The Port Controller (sections 7.3, 7.4). -/
structure Port where
  pendConfigRead : Bool
  pendSetpointWrite : Bool
  pendHoursWrite : Bool
  pendStatusRead : Bool
  /-- the number of the next CONFIG_READ transaction (R138) -/
  nextConfigRead : Nat
  inFlight : Option Transaction
  buffer : List Byte
  refresh : Timer
  statusTimer : Timer
  report : GovernorReport
  /-- governor fault state: true in FAULT (R143) -/
  governorFault : Bool
  badReads : Nat
  goodReads : Nat
deriving DecidableEq, Repr

/-- One analog channel (R144). -/
structure AnalogChannel where
  raw : Nat
  window : List Int
  value : Int
  fault : Bool
deriving DecidableEq, Repr

/-- The run phase (R147). -/
inductive RunPhase where
  | notRun | grace | run
deriving DecidableEq, Repr

/-- The class of a condition (R157). -/
inductive CondClass where
  | alarm | derate | unload | inhibitStart | stop | shutdown
deriving DecidableEq, Repr

/-- One entry of the routing table (R154). -/
structure RoutingEntry where
  enable : Bool
  /-- polarity: true for ACTIVE_OPEN -/
  activeOpen : Bool
  /-- 100 ms units -/
  qualifyTime : Nat
  cls : CondClass
  latch : Bool
  startMask : Bool
  derate : Nat
deriving DecidableEq, Repr

/-- One protective input (R154): the level last sampled (true for closed), whether a sample has been taken, the stability timer
and the input state (true for ACTIVE). -/
structure ProtectiveInput where
  closed : Bool
  sampledYet : Bool
  stability : Timer
  active : Bool
deriving DecidableEq, Repr

/-- One member of the condition set (R157). -/
structure Member where
  code : Nat
  cls : CondClass
  latched : Bool
  cause : Bool
  /-- time since the member joined, ms, held at 65535 s -/
  activeMs : Nat
deriving DecidableEq, Repr

/-- The Engine Monitor (chapter 8); the condition set is listed by rising code. -/
structure Monitor where
  coolant : AnalogChannel
  oil : AnalogChannel
  battery : AnalogChannel
  speed : Nat
  speedYet : Bool
  runPhase : RunPhase
  grace : Timer
  stall : Timer
  derate : Nat
  capacity : Nat
  routing : Vector RoutingEntry 12
  inputs : Vector ProtectiveInput 12
  conditions : List Member
deriving DecidableEq, Repr

/-- The proof state of an output (R169). -/
inductive ProofState where
  | agree | proving | disagree
deriving DecidableEq, Repr

/-- Feedback and proving of one output (R168, R169). -/
structure Proving where
  feedback : QualifiedInput
  proof : ProofState
  timer : Timer
deriving DecidableEq, Repr

/-- The Output Stage (chapter 9). The FUEL command is the retained latch (R167). -/
structure OutputStage where
  crank : Bool
  prelube : Bool
  loadPermit : Bool
  alarm : Bool
  crankProving : Proving
  fuelProving : Proving
  prelubeProving : Proving
deriving DecidableEq, Repr

/-- The fault record (R165). -/
structure FaultRecord where
  cause : Nat
  state : EngineState
  speed : Nat
  notch : Nat
  hours : Nat
deriving DecidableEq, Repr

/-- The Retained Store (R182). -/
structure RetainedStore where
  fuelLatch : Bool
  minutes : Nat
  shadow : Nat
  record : Option FaultRecord
  wasRunning : Bool
deriving DecidableEq, Repr

/-- The kind of a reset (R182, R183). -/
inductive ResetKind where
  | powerOn | core
deriving DecidableEq, Repr

/-- The load progress (R175). -/
inductive LoadProgress where
  | reading (count : Nat)
  | done
deriving DecidableEq, Repr

/-- The start record (R182). -/
structure StartRecord where
  kind : ResetKind
  wasRunning : Bool
deriving DecidableEq, Repr

/-- The Start-up Loader and the hours counter (chapter 10). -/
structure Loader where
  /-- the station number read from the straps, 0..7 (R174) -/
  station : Nat
  /-- the link-rate code read from the straps, 0..3 (R174) -/
  linkRate : Nat
  progress : LoadProgress
  image : List Byte
  markerFault : Bool
  hours : Nat
  runningWindows : Nat
  resetKind : ResetKind
  startRecord : StartRecord
deriving DecidableEq, Repr

/-- The configuration parameters (R177), in the units in which they are stored. -/
structure Params where
  ratedPower : Nat
  npt : List Nat
  entSpeed : List Nat
  entFrac : List Nat
  idleSpeed : Nat
  fireSpeed : Nat
  overspeed : Nat
  teeth : Nat
  margin : Nat
  minRunEngines : Nat
  prelubeTime : Nat
  prelubeRequired : Bool
  prelubePressure : Nat
  crankTime : Nat
  restTime : Nat
  maxAttempts : Nat
  recoveryTime : Nat
  runupTime : Nat
  oilGrace : Nat
  oilMinRun : Nat
  warmMin : Nat
  warmMax : Nat
  tWarm : Nat
  dwellUp : Nat
  dwellDown : Nat
  stopDelay : Nat
  minRun : Nat
  cooldown : Nat
  stopLimit : Nat
  tDerate : Nat
  tTrip : Nat
  layoverCheck : Nat
  tCold : Nat
  tWarmStop : Nat
  vLow : Nat
  vOk : Nat
  heatInc : Nat
  heatDecay : Nat
  heatOk : Nat
  heatTrip : Nat
deriving DecidableEq, Repr

/-- One request in the maintenance mailbox (R184). -/
structure Request where
  code : Byte
  argument : Byte
deriving DecidableEq, Repr

/-- The whole station. `mailbox` is EMPTY when none (R184). `pending` is the model's own: the commands that wait, oldest
first. -/
structure State where
  seq : Sequencer
  cab : CabUnit
  link : LinkUnit
  view : ConsistView
  alloc : Allocator
  claim : ClaimUnit
  stepper : Stepper
  port : Port
  mon : Monitor
  out : OutputStage
  ret : RetainedStore
  load : Loader
  params : Params
  mailbox : Option Request
  pending : List Instr
deriving DecidableEq, Repr

/-- Faults: none. The part never stops; what the manual calls a fault is state (log 26). -/
inductive Fault where
deriving DecidableEq, Repr

/-- Refusals. -/
inductive Refusal where
  /-- The command has no meaning yet; raised by `exec` alone, by name. Safe: nothing can be proved of a refused command. -/
  | notModelled (mnemonic : String)
deriving DecidableEq, Repr

/-- A sampled input as a reset leaves it: no sample yet, not yet qualified, read at its inactive level (R28, R168; the sampled
level itself is DESIGN CHOICE, log 7). -/
def QualifiedInput.atReset : QualifiedInput := ⟨false, false, .stopped, false, false⟩

/-- A peer entry as a reset leaves it (R67). -/
def PeerEntry.atReset : PeerEntry := ⟨.absent, .stopped, false, none, false⟩

/-- A receive buffer's content as a reset leaves it (DESIGN CHOICE, log 8). -/
def emptyBuffer : RawFrame := ⟨0, 0, 0, [], 0, 0⟩

/-- A routing entry as a reset leaves it: enable = no (R154; the other fields DESIGN CHOICE, log 6). -/
def RoutingEntry.atReset : RoutingEntry := ⟨false, false, 0, .alarm, false, false, 64⟩

/-- A protective input as a reset leaves it (R154; the sampled level DESIGN CHOICE, log 7). -/
def ProtectiveInput.atReset : ProtectiveInput := ⟨false, false, .stopped, false⟩

/-- Proving as a reset leaves it (R168, R171). -/
def Proving.atReset : Proving := ⟨.atReset, .proving, .running Config.provingMs⟩

/-- The Retained Store after a power-on reset (R182). -/
def RetainedStore.cleared : RetainedStore := ⟨false, 0, 0, none, false⟩

/-- The parameters before a load: what R177 and R178 make of an all-zero image (DESIGN CHOICE, log 6). -/
def Params.atReset : Params where
  ratedPower := 100
  npt := [0, 0, 0, 0, 0, 0, 0, 0]
  entSpeed := [400, 400, 400, 400, 400, 400, 400, 400]
  entFrac := [1, 1, 1, 1, 1, 1, 1, 1]
  idleSpeed := 400
  fireSpeed := 100
  overspeed := 1000
  teeth := 30
  margin := 0
  minRunEngines := 0
  prelubeTime := 0
  prelubeRequired := false
  prelubePressure := 10
  crankTime := 20
  restTime := 5
  maxAttempts := 1
  recoveryTime := 2
  runupTime := 5
  oilGrace := 5
  oilMinRun := 50
  warmMin := 0
  warmMax := 0
  tWarm := 20
  dwellUp := 5
  dwellDown := 2
  stopDelay := 10
  minRun := 30
  cooldown := 0
  stopLimit := 10
  tDerate := 70
  tTrip := 75
  layoverCheck := 5
  tCold := 0
  tWarmStop := 10
  vLow := 0
  vOk := 1
  heatInc := 1
  heatDecay := 1
  heatOk := 0
  heatTrip := 1

/-- The machine at the end of a reset: all core state at its reset values (R183), the straps read, CONFIG_READ marked and, the
port being free, its first transaction granted (R174, R175, R137). The Retained Store and the queue are as given. -/
def State.afterReset (kind : ResetKind) (station linkRate : Nat) (ret : RetainedStore)
    (pending : List Instr) : State where
  seq :=
    { state := .init, stateTimer := 0, attempts := 0, rest := .expired, minRun := .expired,
      fireConfirm := .stopped, stopReason := .none, resumed := false, snapshot := ⟨.init, 0, 0⟩ }
  cab :=
    { run := .atReset, estop := .atReset, faultReset := .atReset, isolate := .atReset,
      sampledCode := 0, codeSampledYet := false, codeStability := .stopped, qualifiedCode := none,
      decoder := .unqualified, lastValid := none, invalidCode := .stopped, demand := 0,
      source := .default, mode := .layover, layoverCheck := .stopped, coldRun := false,
      batteryNeed := false }
  link :=
    { line := .settling, releasedBits := 0, txEnabled := false, disablePending := false,
      claimSlot := .empty, statusMarked := false, replySlot := none, sending := none, bitErrors := 0,
      linkFault := false, holdOff := .stopped, granted := false, heartbeat := .stopped,
      firstHeartbeat := false, spacing := .expired, buffers := Vector.replicate 8 emptyBuffer,
      freeList := [0, 1, 2, 3, 4, 5, 6, 7], postList := [], filling := none, intoNothing := false,
      applying := none, draining := false, drainLeft := 0, headTaken := false }
  view :=
    { peers := Vector.replicate 7 .atReset, everSeen := false, alone := false, sFrozen := 0,
      tally := [0, 0, 0, 0, 0, 0, 0, 0, 0] }
  alloc :=
    { phase := .waitLoad, reEvaluate := false, listen := .stopped, evaluation := .stopped,
      stopDelay := .stopped, results := ⟨false, 0, 0, 0, false, false, .layover⟩,
      snapshot := ⟨0, .layover, none, 256, false, false, 0⟩,
      powerSteps := [0, 0, 0, 0, 0, 0, 0, 0] }
  claim :=
    { holder := .none, lease := .stopped, recovery := .stopped, phase := .idle, attempt := 1,
      foreignMark := false, settle := .stopped, clock := .stopped, needStands := false, heat := 0,
      heatTimer := .running Config.heatMs }
  stepper := { notch := 0, dwell := ⟨false, 0, false, false⟩, setpoint := none }
  port :=
    { pendConfigRead := true, pendSetpointWrite := false, pendHoursWrite := false,
      pendStatusRead := false, nextConfigRead := 2, inFlight := some (.configRead 1),
      buffer := [0, 0, 0, 0, 0, 0, 0, 0], refresh := .stopped, statusTimer := .stopped,
      report := ⟨0, 0, 0, 0⟩, governorFault := false, badReads := 0, goodReads := 0 }
  mon :=
    { coolant := ⟨0, [], -40, false⟩, oil := ⟨0, [], 0, false⟩, battery := ⟨0, [], 0, false⟩,
      speed := 0, speedYet := false, runPhase := .notRun, grace := .stopped, stall := .stopped,
      derate := 256, capacity := 0, routing := Vector.replicate 12 .atReset,
      inputs := Vector.replicate 12 .atReset, conditions := [] }
  out :=
    { crank := false, prelube := false, loadPermit := false, alarm := false,
      crankProving := .atReset, fuelProving := .atReset, prelubeProving := .atReset }
  ret := ret
  load :=
    { station := station, linkRate := linkRate, progress := .reading 0,
      image := List.replicate 128 0, markerFault := false, hours := 0, runningWindows := 0,
      resetKind := kind, startRecord := ⟨kind, false⟩ }
  params := .atReset
  mailbox := none
  pending := pending

/-- The machine right after reset: a power-on reset with every strap open, so station 7 at link-rate code 3 (R174; the straps
DESIGN CHOICE, log 5), nothing waiting. -/
def State.reset : State := State.afterReset .powerOn 7 3 .cleared []

end Sys2Proof.Machine
end

