-- ==== Sys2Proof/Machine/Ops.lean ====
section
/-! DEFINITION. Machine/Ops.lean: the operations that every block shares: replacing one block's state, timers, marking STATUS
(R59, R52), handing a pass trigger (R86), ordering lists. -/

namespace Sys2Proof.Machine

/-- The station with its Engine Sequencer replaced. -/
def State.setSeq (s : State) (x : Sequencer) : State := { s with seq := x }

/-- The station with its Cab Line Unit replaced. -/
def State.setCab (s : State) (x : CabUnit) : State := { s with cab := x }

/-- The station with its Link Controller replaced. -/
def State.setLink (s : State) (x : LinkUnit) : State := { s with link := x }

/-- The station with its Consist View replaced. -/
def State.setView (s : State) (x : ConsistView) : State := { s with view := x }

/-- The station with its Duty Allocator replaced. -/
def State.setAlloc (s : State) (x : Allocator) : State := { s with alloc := x }

/-- The station with its Claim Unit replaced. -/
def State.setClaim (s : State) (x : ClaimUnit) : State := { s with claim := x }

/-- The station with its Notch Stepper replaced. -/
def State.setStepper (s : State) (x : Stepper) : State := { s with stepper := x }

/-- The station with its Port Controller replaced. -/
def State.setPort (s : State) (x : Port) : State := { s with port := x }

/-- The station with its Engine Monitor replaced. -/
def State.setMon (s : State) (x : Monitor) : State := { s with mon := x }

/-- The station with its Output Stage replaced. -/
def State.setOut (s : State) (x : OutputStage) : State := { s with out := x }

/-- The station with its Retained Store replaced. -/
def State.setRet (s : State) (x : RetainedStore) : State := { s with ret := x }

/-- The station with its Start-up Loader replaced. -/
def State.setLoad (s : State) (x : Loader) : State := { s with load := x }

/-- The station with its parameters replaced. -/
def State.setParams (s : State) (x : Params) : State := { s with params := x }

/-- The station with its maintenance mailbox replaced. -/
def State.setMailbox (s : State) (x : Option Request) : State := { s with mailbox := x }

/-- The station with its queue of waiting commands replaced. -/
def State.setPending (s : State) (x : List Instr) : State := { s with pending := x }

/-- The outcome of a command that answers a next state. -/
abbrev Result := Host.Outcome State Fault Refusal

/-! ### Timers (00_scope, Timers) -/

/-- The timer runs. -/
def Timer.isRunning : Timer → Bool
  | .running _ => true
  | _ => false

/-- The timer has expired and was not restarted. -/
def Timer.isExpired : Timer → Bool
  | .expired => true
  | _ => false

/-- The time since the start of a timer that runs for `total` (R67: 0 while stopped, the whole time once expired). -/
def Timer.elapsed (total : Nat) : Timer → Nat
  | .stopped => 0
  | .running left => total - left
  | .expired => total

/-- The timer after `dt` more milliseconds; its expiry is an event of its own. -/
def Timer.advance (dt : Nat) : Timer → Timer
  | .running left => .running (left - dt)
  | t => t

/-- The clock reading, 0 while it is stopped. -/
def Stopwatch.read : Stopwatch → Nat
  | .stopped => 0
  | .running t => t

/-- The clock after `dt` more milliseconds. -/
def Stopwatch.advance (dt : Nat) : Stopwatch → Stopwatch
  | .stopped => .stopped
  | .running t => .running (t + dt)

/-! ### Marks and triggers -/

/-- The STATUS slot is marked; while the transmitter is disabled the mark is ignored (R59, R52). -/
def markStatus (s : State) : State :=
  if s.link.txEnabled then s.setLink { s.link with statusMarked := true } else s

/-- The STATUS slot is marked when `c` holds. -/
def markStatusIf (c : Bool) (s : State) : State := if c then markStatus s else s

/-- A pass trigger (R86): no effect in WAIT_LOAD and LISTENING; else a pass is due, at once in READY with nothing in progress
(its start is the command PASS_START, log 4), else when the application, drain or pass in progress ends. -/
def passTrigger (s : State) : State :=
  match s.alloc.phase with
  | .waitLoad | .listening => s
  | .ready | .inPass => s.setAlloc { s.alloc with reEvaluate := true }

/-- A pass trigger when `c` holds. -/
def passTriggerIf (c : Bool) (s : State) : State := if c then passTrigger s else s

/-- The configuration load has completed (R175). -/
def State.loaded (s : State) : Bool := s.load.progress == .done

/-! ### Ordered lists -/

/-- `x` put before the first element that does not precede it. -/
def insertBy {α : Type} (le : α → α → Bool) (x : α) : List α → List α
  | [] => [x]
  | y :: ys => if le x y then x :: y :: ys else y :: insertBy le x ys

/-- The list in the order of `le`. -/
def sortBy {α : Type} (le : α → α → Bool) : List α → List α
  | [] => []
  | x :: xs => insertBy le x (sortBy le xs)

/-! ### The peer table by station number (R67) -/

/-- The place of station number 1..7 in the peer table. -/
def peerIndex (station : Nat) : Option (Fin 7) :=
  if h : 1 ≤ station ∧ station ≤ 7 then some ⟨station - 1, by omega⟩ else none

/-- The entry at a place of the peer table. -/
def ConsistView.entry (v : ConsistView) (i : Fin 7) : PeerEntry := v.peers[i]

/-- The view with the entry at a place replaced. -/
def ConsistView.setEntry (v : ConsistView) (i : Fin 7) (e : PeerEntry) : ConsistView :=
  { v with peers := v.peers.set i e }

/-- The entry at this place is the self entry: the one at the own number 1..7 (R75). -/
def State.isSelf (s : State) (i : Fin 7) : Bool := s.load.station == i.val + 1

/-! ### The class of an engine state (section 1.1) -/

/-- The engine state's code in STATUS (section 1.1). -/
def EngineState.code : EngineState → Nat
  | .init => 0
  | .isolated => 1
  | .stopped => 2
  | .prelube => 3
  | .claimWait => 4
  | .claimSettle => 5
  | .cranking => 6
  | .runup => 7
  | .warmup => 8
  | .online => 9
  | .unloading => 10
  | .cooldown => 11
  | .stopping => 12
  | .faulted => 13

/-- The engine state with a code 0..13; none for 14 and 15 (R49). -/
def EngineState.ofCode : Nat → Option EngineState
  | 0 => some .init
  | 1 => some .isolated
  | 2 => some .stopped
  | 3 => some .prelube
  | 4 => some .claimWait
  | 5 => some .claimSettle
  | 6 => some .cranking
  | 7 => some .runup
  | 8 => some .warmup
  | 9 => some .online
  | 10 => some .unloading
  | 11 => some .cooldown
  | 12 => some .stopping
  | 13 => some .faulted
  | _ => none

/-- The ranking class (section 1.1, R94): 0 running, 1 starting, 2 stopped, none for a state that is never eligible. -/
def EngineState.rankClass : EngineState → Option Nat
  | .runup | .warmup | .online | .unloading | .cooldown => some 0
  | .prelube | .claimWait | .claimSettle | .cranking => some 1
  | .stopped => some 2
  | .init | .isolated | .stopping | .faulted => none

end Sys2Proof.Machine
end

