-- ==== Sys2Proof/Machine/Operands.lean ====
section
/-! DEFINITION. Machine/Operands.lean: what the operands of the commands carry: the strap code (R174), the throttle code (R34),
the bits, check and fields of a link frame (R45 to R51, R187), and the STATUS layout both ways. -/

namespace Sys2Proof.Machine

/-- The station number: S0 × 1 + S1 × 2 + S2 × 4 (R174). -/
def stationNumber (p : Straps) : Nat := bit p.s0 + bit p.s1 * 2 + bit p.s2 * 4

/-- The link-rate code: L0 × 1 + L1 × 2 (R174). -/
def linkRateCode (p : Straps) : Nat := bit p.l0 + bit p.l1 * 2

/-- The bit rate that a link-rate code sets, in bit/s (R43). -/
def bitRate : Nat → Nat
  | 0 => 10000
  | 2 => 40000
  | _ => 20000

/-- The asserted or active level of a discrete line, from its pin (R28): RUN and FAULT_RESET with the wire energised, ESTOP with
the wire not energised, ISOLATE with the switch open. -/
def assertedLevel (l : CabLevels) : CabLine → Bool
  | .run => l.run
  | .estop => !l.estop
  | .faultReset => l.faultReset
  | .isolate => !l.isolate

/-- The sampled throttle code: bit 1 for a wire that is energised (R28, R34). -/
def throttleCode (l : CabLevels) : Nat := bit l.t1 + bit l.t2 * 2 + bit l.t3 * 4 + bit l.t4 * 8

/-! ### The check (R46) -/

/-- The bits of a field, most significant first (R45). -/
def bitsOf {w : Nat} (x : BitVec w) : List Bool := (List.range w).map fun i => x.getMsbD i

/-- One bit taken into the check register (R46). -/
def crcStep (register : Byte) (b : Bool) : Byte :=
  if register.msb == b then register <<< 1 else (register <<< 1) ^^^ 0b00000111#8

/-- The check over a list of bits, the register preset to all ones (R46). -/
def crc (bits : List Bool) : Byte := bits.foldl crcStep 0xFF#8

/-- The bits that the check covers: kind, source, length and data (R46). -/
def coveredBits (f : RawFrame) : List Bool :=
  bitsOf f.kind ++ bitsOf f.source ++ bitsOf f.length ++ f.data.flatMap bitsOf

/-! ### Fields of the data bytes (R187) -/

/-- Data byte number `i`, counted from 1, as a number. -/
def dataByte (data : List Byte) (i : Nat) : Nat := (data.getD (i - 1) 0).toNat

/-- The 16-bit word of data bytes `i` and `i + 1`, high byte first (11.3). -/
def dataWord (data : List Byte) (i : Nat) : Nat := dataByte data i * 256 + dataByte data (i + 1)

/-- A fault summary that STATUS may carry: 0, 1..12 or 16..36 (R49). -/
def summaryInRange (n : Nat) : Bool := decide (n ≤ 12) || (decide (16 ≤ n) && decide (n ≤ 36))

/-- The fields of a STATUS record lie in the ranges accepted at arrival (R49); the state and the flags always do. -/
def StatusRecord.inRange (r : StatusRecord) : Bool :=
  decide (r.notch ≤ 8) && decide (r.target ≤ 8) && decide (r.capacity ≤ 2000)
    && decide (r.bucket ≤ 15625) && (decide (r.demand ≤ 8) || r.demand == 15)
    && summaryInRange r.summary && decide (r.claimRemaining ≤ 255)

/-- The record in the data bytes of a STATUS; none when a field lies outside its range (R48, R49, R187). -/
def decodeStatus (data : List Byte) : Option StatusRecord :=
  match EngineState.ofCode (dataByte data 1 / 16) with
  | none => none
  | some st =>
    let flags := dataByte data 7
    let r : StatusRecord :=
      { state := st
        notch := dataByte data 1 % 16
        target := dataByte data 2 / 16
        capacity := dataWord data 3 % 2048
        bucket := dataWord data 5 % 16384
        eligible := flags.testBit 7
        claimHeld := flags.testBit 6
        alone := flags.testBit 5
        batteryNeed := flags.testBit 4
        coldRun := flags.testBit 3
        alarmActive := flags.testBit 2
        runSeen := flags.testBit 1
        demand := dataByte data 2 % 16
        summary := dataByte data 8 % 64
        claimRemaining := dataByte data 9 }
    if r.inRange then some r else none

/-- The flag byte of a STATUS (R187): eligible in bit 7 down to RUN seen in bit 1. -/
def StatusRecord.flagByte (r : StatusRecord) : Nat :=
  bit r.eligible * 128 + bit r.claimHeld * 64 + bit r.alone * 32 + bit r.batteryNeed * 16
    + bit r.coldRun * 8 + bit r.alarmActive * 4 + bit r.runSeen * 2

/-- The ten data bytes of a STATUS (R187); unassigned bits are 0. -/
def encodeStatus (r : StatusRecord) : List Byte :=
  [byteOf (r.state.code * 16 + r.notch), byteOf (r.target * 16 + r.demand),
   byteOf (r.capacity / 256), byteOf r.capacity, byteOf (r.bucket / 256), byteOf r.bucket,
   byteOf r.flagByte, byteOf r.summary, byteOf r.claimRemaining, 0]

/-- The fields of a CLAIM; none when one lies outside its range (R50). -/
def decodeClaim (data : List Byte) : Option ClaimFields :=
  let limit := dataByte data 1
  let attempt := dataByte data 2
  if 20 ≤ limit ∧ limit ≤ 250 ∧ 1 ≤ attempt ∧ attempt ≤ 5 then some ⟨limit, attempt⟩ else none

/-- The data bytes of a CLAIM (R187). -/
def encodeClaim (c : ClaimFields) : List Byte := [byteOf c.crankLimit, byteOf c.attempt]

/-- The outcome's code in a RELEASE (R50). -/
def ReleaseOutcome.code : ReleaseOutcome → Nat
  | .fired => 1
  | .failed => 2
  | .abandoned => 3

/-- The outcome of a RELEASE; none for 0 and 4..255 (R50). -/
def decodeRelease (data : List Byte) : Option ReleaseOutcome :=
  match dataByte data 1 with
  | 1 => some .fired
  | 2 => some .failed
  | 3 => some .abandoned
  | _ => none

/-! ### Judging a frame (R47, R48) -/

/-- The length is permitted for the kind (R47). -/
def lengthPermitted (kind length : Nat) : Bool :=
  match kind with
  | 0 => length == 2
  | 1 => length == 1
  | 2 => length == 10
  | 3 => length == 3
  | 4 => decide (2 ≤ length) && decide (length ≤ 12)
  | _ => false

/-- The source is permitted for the kind (R47). -/
def sourcePermitted (kind source : Nat) : Bool :=
  match kind with
  | 3 => source == 0
  | _ => decide (1 ≤ source) && decide (source ≤ 7)

/-- The fields of a CLAIM, RELEASE or STATUS lie in their ranges; REQUEST and REPLY are not range-checked (R48). -/
def fieldsInRange (f : RawFrame) : Bool :=
  match f.kind.toNat with
  | 0 => (decodeClaim f.data).isSome
  | 1 => (decodeRelease f.data).isSome
  | 2 => (decodeStatus f.data).isSome
  | _ => true

/-- The frame is good: none of the grounds of R48 holds. -/
def goodFrame (f : RawFrame) : Bool :=
  f.wf && decide (f.kind.toNat ≤ 4) && lengthPermitted f.kind.toNat f.length.toNat
    && sourcePermitted f.kind.toNat f.source.toNat && f.check == crc (coveredBits f)
    && f.endField == BitVec.allOnes 7 && fieldsInRange f

/-- The kind code of a frame (R47). -/
def TxKind.code : TxKind → Nat
  | .claim => 0
  | .release => 1
  | .status => 2
  | .reply => 4

/-- A whole frame from its kind, source and data: length, check and released end field added (R45, R46). -/
def buildFrame (kind source : Nat) (data : List Byte) : RawFrame :=
  let f : RawFrame :=
    { kind := BitVec.ofNat 3 kind, source := BitVec.ofNat 3 source,
      length := BitVec.ofNat 4 data.length, data := data, check := 0,
      endField := BitVec.allOnes 7 }
  { f with check := crc (coveredBits f) }

/-- The released bits at the end of a field of seven end-field bits: the count that R44 has reached when the frame ends. -/
def trailingReleased (endField : BitVec 7) : Nat :=
  ((bitsOf endField).reverse.takeWhile id).length

end Sys2Proof.Machine
end

