-- ==== Sys2Proof/Machine/Flags.lean ====
section
/-! DEFINITION. Machine/Flags.lean: every flag and derived value that one block reads from another's state: the condition set's
tests and the fault summary (R161), eligibility (R92), the STATUS demand field (R34), the run basis (R98), the STATUS record
(R49), what is due (R65, R66, R86, R53). -/

namespace Sys2Proof.Machine

/-! ### The condition set (R157, R161) -/

/-- Code 16, COOLANT_SENSOR (R164). -/
def codeCoolantSensor : Nat := 16
/-- Code 17, OIL_SENSOR (R164). -/
def codeOilSensor : Nat := 17
/-- Code 18, BATTERY_SENSOR (R164). -/
def codeBatterySensor : Nat := 18
/-- Code 19, OVERTEMP (R164). -/
def codeOvertemp : Nat := 19
/-- Code 20, OVERTEMP_SEVERE (R164). -/
def codeOvertempSevere : Nat := 20
/-- Code 21, LOW_OIL (R164). -/
def codeLowOil : Nat := 21
/-- Code 22, OVERSPEED (R164). -/
def codeOverspeed : Nat := 22
/-- Code 23, STALL (R164). -/
def codeStall : Nat := 23
/-- Code 24, FAIL_TO_START (R164). -/
def codeFailToStart : Nat := 24
/-- Code 25, RUNUP_FAIL (R164). -/
def codeRunupFail : Nat := 25
/-- Code 26, FAIL_TO_STOP (R164). -/
def codeFailToStop : Nat := 26
/-- Code 27, PRELUBE_FAIL (R164). -/
def codePrelubeFail : Nat := 27
/-- Code 28, CRANK_OPEN (R164). -/
def codeCrankOpen : Nat := 28
/-- Code 29, CRANK_WELDED (R164). -/
def codeCrankWelded : Nat := 29
/-- Code 30, FUEL_OPEN (R164). -/
def codeFuelOpen : Nat := 30
/-- Code 31, FUEL_STUCK (R164). -/
def codeFuelStuck : Nat := 31
/-- Code 32, PRELUBE_MISMATCH (R164). -/
def codePrelubeMismatch : Nat := 32
/-- Code 33, GOVERNOR_FAULT (R164). -/
def codeGovernorFault : Nat := 33
/-- Code 34, ADDRESS_CONFLICT (R164). -/
def codeAddressConflict : Nat := 34
/-- Code 35, CONFIG_FAULT (R164). -/
def codeConfigFault : Nat := 35
/-- Code 36, LINK_FAULT (R164). -/
def codeLinkFault : Nat := 36

/-- The class of a fixed code 16..36 (R164). -/
def fixedClass : Nat → CondClass
  | 19 | 33 => .unload
  | 20 | 21 | 22 | 23 | 24 | 25 | 26 | 29 | 35 => .shutdown
  | 27 | 30 | 34 => .stop
  | _ => .alarm

/-- The latch flag of a fixed code 16..36 (R164). -/
def fixedLatched : Nat → Bool
  | 20 | 21 | 22 | 23 | 24 | 25 | 26 | 27 | 29 | 30 | 31 | 34 | 35 => true
  | _ => false

/-- The place of input Dk, k in 1..12, in the routing table and the inputs. -/
def inputIndex (k : Nat) : Option (Fin 12) :=
  if h : 1 ≤ k ∧ k ≤ 12 then some ⟨k - 1, by omega⟩ else none

/-- The class of a code: the routing entry's for 1..12, R164's for 16..36 (R157). -/
def State.classOf (s : State) (code : Nat) : CondClass :=
  match inputIndex code with
  | some k => s.mon.routing[k].cls
  | none => fixedClass code

/-- The latch flag of a code (R157). -/
def State.latchedOf (s : State) (code : Nat) : Bool :=
  match inputIndex code with
  | some k => s.mon.routing[k].latch
  | none => fixedLatched code

/-- The strength of a class (R161): SHUTDOWN, STOP, UNLOAD, DERATE, INHIBIT_START, ALARM. -/
def CondClass.strength : CondClass → Nat
  | .shutdown => 5
  | .stop => 4
  | .unload => 3
  | .derate => 2
  | .inhibitStart => 1
  | .alarm => 0

/-- The set holds a member of the class. -/
def hasClass (conditions : List Member) (c : CondClass) : Bool := conditions.any fun m => m.cls == c

/-- The set holds the code. -/
def hasCode (conditions : List Member) (code : Nat) : Bool := conditions.any fun m => m.code == code

/-- `a` comes before `b` by class strength, then by lowest code (R161, R186). -/
def strongerMember (a b : Member) : Bool :=
  decide (b.cls.strength < a.cls.strength)
    || (a.cls.strength == b.cls.strength && decide (a.code ≤ b.code))

/-- The fault summary (R161): the lowest code of the strongest class present, 0 for the empty set. -/
def faultSummary (conditions : List Member) : Nat :=
  match sortBy strongerMember conditions with
  | [] => 0
  | m :: _ => m.code

/-- A latched SHUTDOWN-class or STOP-class member: what leads STOPPING to FAULTED, holds FAULTED and names the cause
(R23, R25, R165). -/
def Member.stopCause (m : Member) : Bool := m.latched && (m.cls == .shutdown || m.cls == .stop)

/-- `a` names the stop before `b`: the greater active time, then class strength, then lowest code (R165). -/
def olderCause (a b : Member) : Bool :=
  decide (b.activeMs < a.activeMs) || (a.activeMs == b.activeMs && strongerMember a b)

/-- The cause code of the fault record (R165). -/
def recordCause (conditions : List Member) : Nat :=
  match sortBy olderCause (conditions.filter Member.stopCause) with
  | [] => faultSummary conditions
  | m :: _ => m.code

/-! ### Standing causes (R4) -/

/-- ESTOP is qualified asserted. -/
def State.estopActive (s : State) : Bool := s.cab.estop.qualified

/-- ISOLATE is qualified active. -/
def State.isolateActive (s : State) : Bool := s.cab.isolate.qualified

/-- ESTOP or a SHUTDOWN-class condition stands: what enters STOPPING from PRELUBE to COOLDOWN (R22). -/
def State.hardCause (s : State) : Bool := s.estopActive || hasClass s.mon.conditions .shutdown

/-- ISOLATE, a STOP-class or an INHIBIT_START condition stands: what cancels a start (R9, R11). -/
def State.cancelCause (s : State) : Bool :=
  s.isolateActive || hasClass s.mon.conditions .stop || hasClass s.mon.conditions .inhibitStart

/-! ### Eligibility and the run basis -/

/-- This station is eligible (R92). -/
def State.eligible (s : State) : Bool :=
  s.seq.state != .init && s.seq.state != .isolated && s.seq.state != .stopping
    && s.seq.state != .faulted && !s.estopActive
    && !hasClass s.mon.conditions .stop && !hasClass s.mon.conditions .shutdown
    && !hasClass s.mon.conditions .unload
    && !(s.seq.state == .stopped && hasClass s.mon.conditions .inhibitStart)
    && !hasCode s.mon.conditions codeAddressConflict

/-- The published results give a run basis (R7, R98). -/
def PassResults.runBasis (r : PassResults) : Bool := r.rankedIn || r.coldRunConfirmed

/-! ### What STATUS carries (R49) -/

/-- The STATUS demand field (R34). -/
def CabUnit.demandField (c : CabUnit) : Nat :=
  match c.decoder with
  | .valid => c.demand
  | .invalidHold => if c.source = .held then c.demand else 15
  | .unqualified | .invalidPeers => 15

/-- RUN is qualified asserted (R30). -/
def CabUnit.runSeen (c : CabUnit) : Bool := c.run.qualified

/-- The claim remaining (R123). -/
def State.claimRemaining (s : State) : Nat :=
  if s.claim.holder = .self then
    (Config.settleMs + s.params.crankTime * 100 - s.claim.clock.read) / 100
  else 0

/-- The hours bucket (R180). -/
def State.hoursBucket (s : State) : Nat := s.load.hours / 64

/-- The station's own report of itself: the content of a STATUS (R49) and of the self entry (R75). -/
def State.selfRecord (s : State) : StatusRecord where
  state := s.seq.state
  notch := s.stepper.notch
  target := s.alloc.results.target
  capacity := s.mon.capacity
  bucket := s.hoursBucket
  eligible := s.eligible
  claimHeld := s.claim.holder == .self
  alone := s.view.alone
  batteryNeed := s.cab.batteryNeed
  coldRun := s.cab.coldRun
  alarmActive := !s.mon.conditions.isEmpty
  runSeen := s.cab.runSeen
  demand := s.cab.demandField
  summary := faultSummary s.mon.conditions
  claimRemaining := s.claimRemaining

/-! ### What is due -/

/-- A pass is due (R86, R89): READY, the re-evaluate flag set, no frame being applied or taken up to be applied, no drain in
progress. -/
def State.passDue (s : State) : Bool :=
  s.alloc.phase == .ready && s.alloc.reEvaluate && s.link.applying.isNone && !s.link.headTaken
    && !s.link.draining

/-- The frame processor may take a frame (R65, R66): none is being applied, no pass is in flight, the post list is not empty, and
no pass that is due goes first. A trigger that comes after the frame was taken up makes no pass due before it (R86). -/
def State.frameDue (s : State) : Bool :=
  s.link.applying.isNone && s.alloc.phase != .inPass && !s.link.postList.isEmpty && !s.passDue

/-- The frame processor takes up the head of the post list, if it may (R65): at a good frame's arrival and at an application's
end. -/
def takeUpFrame (s : State) : State := s.setLink { s.link with headTaken := s.frameDue }

/-- The claim slot holds a frame pending. -/
def ClaimSlot.isPending : ClaimSlot → Bool
  | .claimPending _ | .releasePending _ => true
  | _ => false

/-- The claim slot holds a RELEASE, pending or sending (R117). -/
def ClaimSlot.holdsRelease : ClaimSlot → Bool
  | .releasePending _ | .releaseSending _ => true
  | _ => false

/-- The STATUS slot is a candidate (R53, R61): marked, and its spacing has expired; the first STATUS after the load waits for the
first heartbeat, whatever marks the slot before it (R179; log 33 on R53's words). -/
def LinkUnit.statusReady (l : LinkUnit) : Bool :=
  l.statusMarked && l.spacing.isExpired && l.firstHeartbeat

/-- The candidate of lowest kind code (R53): the claim slot's frame, the STATUS that is ready, the REPLY; none in LINK_FAULT without
a granted attempt (R56) and while the transmitter is disabled (R52). -/
def LinkUnit.candidate (l : LinkUnit) : Option TxKind :=
  if !l.txEnabled || (l.linkFault && !l.granted) then none
  else match l.claimSlot with
    | .claimPending _ => some .claim
    | .releasePending _ => some .release
    | _ =>
      if l.statusReady then some .status
      else if l.replySlot.isSome then some .reply
      else none

/-- The station starts a frame now (R53): line IDLE, nothing in transmission, a candidate. -/
def State.startDue (s : State) : Bool :=
  s.link.line == .idle && s.link.sending.isNone && s.link.candidate.isSome

end Sys2Proof.Machine
end

