-- ==== Sys2Proof/Machine/PortOps.lean ====
section
/-! DEFINITION. Machine/PortOps.lean: the serial port's transactions and its arbiter (R135 to R140). -/

namespace Sys2Proof.Machine

/-- The select lines of the port (R135). -/
inductive SelectLine where
  | governor | memory
deriving DecidableEq, Repr

/-- The device that a transaction selects (R135). -/
def Transaction.select : Transaction → SelectLine
  | .configRead _ | .hoursWrite => .memory
  | .setpointWrite | .statusRead => .governor

/-- The register address of a transaction (R135, R138): a CONFIG_READ of number n reads at 8 × (n − 1). -/
def Transaction.address : Transaction → Nat
  | .configRead n => 8 * (n - 1)
  | .setpointWrite => 2
  | .hoursWrite => 124
  | .statusRead => 16

/-- The read/write flag: true for a read (R135). -/
def Transaction.isRead : Transaction → Bool
  | .configRead _ | .statusRead => true
  | .setpointWrite | .hoursWrite => false

/-- The address byte as sent: the 7-bit address, then the read/write flag (R135). -/
def Transaction.addressByte (t : Transaction) : Byte := byteOf (t.address * 2 + bit t.isRead)

/-- The number of data bytes (R135). -/
def Transaction.dataBytes : Transaction → Nat
  | .configRead _ => 8
  | .setpointWrite => 2
  | .hoursWrite | .statusRead => 4

/-- The duration in µs from the driving of the select to the completion (R135). -/
def Transaction.durationUs (t : Transaction) : Nat := 16 + 32 * (t.dataBytes + 1)

/-- The four kinds of request (R136). -/
inductive PortKind where
  | configRead | setpointWrite | hoursWrite | statusRead
deriving DecidableEq, Repr

/-- The bytes of a write at the start of the buffer; the rest of the buffer stands as it was (R136; the rest: log 21). -/
def fillBuffer (buffer bytes : List Byte) : List Byte := bytes ++ buffer.drop bytes.length

/-- The two bytes of a SETPOINT_WRITE: the speed, high byte first (R139). -/
def setpointBytes (rpm : Nat) : List Byte := [byteOf (rpm / 256), byteOf rpm]

/-- The four bytes of a HOURS_WRITE: the hours, most significant byte first (R140). -/
def hoursBytes (hours : Nat) : List Byte :=
  [byteOf (hours / 16777216), byteOf (hours / 65536), byteOf (hours / 256), byteOf hours]

/-- The arbiter (R137): with the port free, it grants CONFIG_READ, SETPOINT_WRITE, HOURS_WRITE, STATUS_READ in this order, and
fills the buffer for a write from the value that stands at the grant (R136, R139, R140). CONFIG_READ stays pending until its
sixteenth transaction is granted (R138). -/
def portGrant (s : State) : State :=
  let p := s.port
  if p.inFlight.isSome then s
  else if p.pendConfigRead then
    s.setPort { p with
      inFlight := some (.configRead p.nextConfigRead)
      nextConfigRead := p.nextConfigRead + 1
      pendConfigRead := decide (p.nextConfigRead < 16) }
  else if p.pendSetpointWrite then
    s.setPort { p with
      inFlight := some .setpointWrite
      pendSetpointWrite := false
      buffer := fillBuffer p.buffer (setpointBytes (s.stepper.setpoint.getD 0)) }
  else if p.pendHoursWrite then
    s.setPort { p with
      inFlight := some .hoursWrite
      pendHoursWrite := false
      buffer := fillBuffer p.buffer (hoursBytes s.load.hours) }
  else if p.pendStatusRead then
    s.setPort { p with inFlight := some .statusRead, pendStatusRead := false }
  else s

/-- The pending set with a kind added (R136). -/
def Port.withMark (p : Port) : PortKind → Port
  | .configRead => { p with pendConfigRead := true }
  | .setpointWrite => { p with pendSetpointWrite := true }
  | .hoursWrite => { p with pendHoursWrite := true }
  | .statusRead => { p with pendStatusRead := true }

/-- A mark joins the pending set, and the arbiter grants it when the port is free (R136, R137). -/
def portMark (kind : PortKind) (s : State) : State := portGrant (s.setPort (s.port.withMark kind))

/-- The select is released: the port is free and the arbiter examines the pending set (R135, R137). -/
def portRelease (s : State) : State := portGrant (s.setPort { s.port with inFlight := none })

end Sys2Proof.Machine
end

