-- ==== Sys2Proof/Machine/Conditions.lean ====
section
/-! DEFINITION. Machine/Conditions.lean: the condition set and what its changes hand on (R157 to R163), with the derate factor and
the capacity (R151, R152). What the Engine Sequencer does at a joining is a parameter here (`react`); Sequencer.lean gives it. -/

namespace Sys2Proof.Machine

/-! ### Derate factor and capacity -/

/-- The base factor for a coolant value (R151). -/
def baseFactor (p : Params) (t : Int) : Nat :=
  if t < p.tDerate then 256
  else if t < p.tTrip then
    max Config.minDerate (256 * ((p.tTrip : Int) - t) / ((p.tTrip : Int) - p.tDerate)).toNat
  else Config.minDerate

/-- The cap that one member puts on F: its entry's derate value, for a member of class DERATE (R151, R156). -/
def derateCap (routing : Vector RoutingEntry 12) (f : Nat) (m : Member) : Nat :=
  if m.cls = .derate then
    match inputIndex m.code with
    | some k => min f routing[k].derate
    | none => f
  else f

/-- The derate factor F (R151). -/
def State.derateFactor (s : State) : Nat :=
  let base := baseFactor s.params s.mon.coolant.value
  let capped := if hasCode s.mon.conditions codeCoolantSensor then min base Config.sensorFaultCap else base
  s.mon.conditions.foldl (derateCap s.mon.routing) capped

/-- F and C computed afresh, with their trigger and mark (R151, R152); before the load they stand. -/
def computeDerate (s : State) : State :=
  if s.loaded then
    let f := s.derateFactor
    let c := s.params.ratedPower * f / 256
    markStatusIf (c != s.mon.capacity)
      (passTriggerIf (f != s.mon.derate || c != s.mon.capacity)
        (s.setMon { s.mon with derate := f, capacity := c }))
  else s

/-! ### The two need flags of the Cab Line Unit (R41, R42) -/

/-- The cold-run flag is cleared, with its mark when it was set. -/
def clearColdRun (s : State) : State :=
  markStatusIf s.cab.coldRun (s.setCab { s.cab with coldRun := false })

/-- The battery-need flag is cleared, with its mark when it was set. -/
def clearBatteryNeed (s : State) : State :=
  markStatusIf s.cab.batteryNeed (s.setCab { s.cab with batteryNeed := false })

/-! ### The list of members -/

/-- A member put at its place by code. -/
def insertMember (m : Member) : List Member → List Member
  | [] => [m]
  | x :: xs => if m.code < x.code then m :: x :: xs else x :: insertMember m xs

/-- The members with the cause flag of a code set to `b`. -/
def setCause (code : Nat) (b : Bool) (l : List Member) : List Member :=
  l.map fun m => if m.code = code then { m with cause := b } else m

/-- The members without a code. -/
def removeCode (code : Nat) (l : List Member) : List Member := l.filter fun m => m.code != code

/-- The member with a code. -/
def findMember (code : Nat) (l : List Member) : Option Member := l.find? fun m => m.code == code

/-- The station with its condition set replaced. -/
def State.setConditions (s : State) (l : List Member) : State := s.setMon { s.mon with conditions := l }

/-! ### Handing on (R162, R163) -/

/-- The fault summary, the alarm-active flag or the eligibility differs between two states (R162, step 5). -/
def reportDiffers (a b : State) : Bool :=
  faultSummary a.mon.conditions != faultSummary b.mon.conditions
    || a.mon.conditions.isEmpty != b.mon.conditions.isEmpty || a.eligible != b.eligible

/-- A change in a member of the class is a pass trigger (R86, R162). -/
def CondClass.triggers : CondClass → Bool
  | .shutdown | .stop | .unload | .inhibitStart => true
  | .derate | .alarm => false

/-- The ALARM command follows the condition set (R163). -/
def setAlarm (s : State) : State := s.setOut { s.out with alarm := !s.mon.conditions.isEmpty }

/-- Step 1 of R162: F and C, for a member of class DERATE and for COOLANT_SENSOR. -/
def handDerate (code : Nat) (cls : CondClass) (s : State) : State :=
  if cls = .derate ∨ code = codeCoolantSensor then computeDerate s else s

/-- Step 3 of R162: the Cab Line Unit clears a need flag at the raising of its sensor fault (R41). -/
def handSensorFault (code : Nat) (s : State) : State :=
  if code = codeCoolantSensor then clearColdRun s
  else if code = codeBatterySensor then clearBatteryNeed s
  else s

/-- Steps 4 to 6 of R162: trigger, mark (`differs` says whether what STATUS reports changed with the joining or leaving),
ALARM. -/
def handChange (cls : CondClass) (differs : Bool) (s : State) : State :=
  setAlarm (markStatusIf differs (passTriggerIf cls.triggers s))

/-- The set with a code that was not in it: cause present, active time 0 (R158). -/
def State.withMember (s : State) (code : Nat) : State :=
  s.setConditions (insertMember ⟨code, s.classOf code, s.latchedOf code, true, 0⟩ s.mon.conditions)

/-- A code joins and the joining is handed on in the order of R162; `react` is what the Engine Sequencer does in step 2. -/
def joinCondition (code : Nat) (react : State → State) (s : State) : State :=
  let cls := s.classOf code
  let joined := s.withMember code
  handChange cls (reportDiffers s joined)
    (handSensorFault code (react (handDerate code cls joined)))

/-- A member leaves and the leaving is handed on in the order of R162; the Sequencer takes no transition at a leaving. -/
def leaveCondition (m : Member) (s : State) : State :=
  let left := s.setConditions (removeCode m.code s.mon.conditions)
  handChange m.cls (reportDiffers s left) (handDerate m.code m.cls left)

/-- The report that the cause of a code is gone (R159): a latched member stays with its cause flag clear, another leaves. -/
def reportGone (code : Nat) (s : State) : State :=
  match findMember code s.mon.conditions with
  | none => s
  | some m =>
    if m.latched then s.setConditions (setCause code false s.mon.conditions) else leaveCondition m s

/-- The report that the cause of a code is present (R158), with the Sequencer's reaction to a joining. -/
def reportPresentWith (code : Nat) (react : State → State) (s : State) : State :=
  if hasCode s.mon.conditions code then s.setConditions (setCause code true s.mon.conditions)
  else joinCondition code react s

/-- The Sequencer raises a code of R26: it takes `transition` before the joining is handed back (R26), with the code already in
the set (R13, R23). A code already in the set is reported again, and the transition is taken all the same. -/
def raiseBySequencer (code : Nat) (transition : State → State) (s : State) : State :=
  if hasCode s.mon.conditions code then
    transition (s.setConditions (setCause code true s.mon.conditions))
  else joinCondition code transition s

end Sys2Proof.Machine
end

