-- ==== Sys2Proof/Machine/Outputs.lean ====
section
/-! DEFINITION. Machine/Outputs.lean: the command set and the proving of the three contactor outputs (R166 to R173), and the
commands of each engine state (R2). -/

namespace Sys2Proof.Machine

/-- The command of a proved output; FUEL's is the retained latch (R166, R167). -/
def State.command (s : State) : ProvedOutput → Bool
  | .crank => s.out.crank
  | .fuel => s.ret.fuelLatch
  | .prelube => s.out.prelube

/-- The proving of an output. -/
def OutputStage.proving (o : OutputStage) : ProvedOutput → Proving
  | .crank => o.crankProving
  | .fuel => o.fuelProving
  | .prelube => o.prelubeProving

/-- The output stage with the proving of an output replaced. -/
def OutputStage.setProving (o : OutputStage) (out : ProvedOutput) (p : Proving) : OutputStage :=
  match out with
  | .crank => { o with crankProving := p }
  | .fuel => { o with fuelProving := p }
  | .prelube => { o with prelubeProving := p }

/-- The station with the proving of an output replaced. -/
def State.setProving (s : State) (out : ProvedOutput) (p : Proving) : State :=
  s.setOut (s.out.setProving out p)

/-- The mismatch code of an output for a command (R170). -/
def mismatchCode (out : ProvedOutput) (command : Bool) : Nat :=
  match out, command with
  | .crank, true => codeCrankOpen
  | .crank, false => codeCrankWelded
  | .fuel, true => codeFuelOpen
  | .fuel, false => codeFuelStuck
  | .prelube, _ => codePrelubeMismatch

/-- The qualified feedback matches a command: on means present, off means absent; unqualified matches nothing (R169). -/
def QualifiedInput.matchesCommand (q : QualifiedInput) (command : Bool) : Bool :=
  q.qualifiedYet && q.qualified == command

/-- The proving after a change of command (R169, first two rows). -/
def Proving.afterCommand (p : Proving) (command : Bool) : Proving :=
  if p.feedback.matchesCommand command then { p with proof := .agree, timer := .stopped }
  else { p with proof := .proving, timer := .running Config.provingMs }

/-- A change of an output's command reaches its proving; the mismatch that stood is reported gone (R169). -/
def proveCommand (out : ProvedOutput) (oldCommand newCommand : Bool) (s : State) : State :=
  if oldCommand = newCommand then s
  else
    let p := s.out.proving out
    let proved := s.setProving out (p.afterCommand newCommand)
    if p.proof = .disagree then reportGone (mismatchCode out oldCommand) proved else proved

/-- The four commands of a command set (R2). -/
structure CommandSet where
  crank : Bool
  fuel : Bool
  prelube : Bool
  loadPermit : Bool
deriving DecidableEq, Repr

/-- The commands of an engine state (R2, table of section 1.1); in INIT FUEL stands as the latch. -/
def EngineState.commands (latch : Bool) : EngineState → CommandSet
  | .init => ⟨false, latch, false, false⟩
  | .prelube | .claimWait | .claimSettle => ⟨false, false, true, false⟩
  | .cranking => ⟨true, true, true, false⟩
  | .online => ⟨false, true, false, true⟩
  | .runup | .warmup | .unloading | .cooldown => ⟨false, true, false, false⟩
  | .isolated | .stopped | .stopping | .faulted => ⟨false, false, false, false⟩

/-- A command set from the Sequencer (R166): the four commands are taken together, FUEL through the latch (R167); an unchanged
output keeps its proving. -/
def commandSet (c : CommandSet) (s : State) : State :=
  let driven :=
    (s.setOut { s.out with crank := c.crank, prelube := c.prelube, loadPermit := c.loadPermit }).setRet
      { s.ret with fuelLatch := c.fuel }
  proveCommand .prelube s.out.prelube c.prelube
    (proveCommand .fuel s.ret.fuelLatch c.fuel
      (proveCommand .crank s.out.crank c.crank driven))

end Sys2Proof.Machine
end

