-- ==== Sys2Proof/Machine/Stepper.lean ====
section
/-! DEFINITION. Machine/Stepper.lean: the engine notch, its dwell timer and the governor setpoint (R127 to R134). The step to
notch 0 in UNLOADING is handed to the Sequencer by the callers (R127, step 3). -/

namespace Sys2Proof.Machine

/-- The setpoint of an engine state at a notch (R133); `none` is NONE. -/
def setpointOf (p : Params) (notch : Nat) : EngineState → Option Nat
  | .online | .unloading =>
    if notch = 0 then some p.idleSpeed else some (p.entSpeed.getD (notch - 1) 0)
  | .cranking | .runup | .warmup | .cooldown => some p.idleSpeed
  | .init | .isolated | .stopped | .prelube | .claimWait | .claimSettle | .stopping | .faulted =>
    none

/-- The setpoint derived afresh (R133); a change marks SETPOINT_WRITE, or removes a pending one and stops the refresh timer
(R134). -/
def deriveSetpoint (s : State) : State :=
  let sp := setpointOf s.params s.stepper.notch s.seq.state
  if sp = s.stepper.setpoint then s
  else
    let held := s.setStepper { s.stepper with setpoint := sp }
    match sp with
    | some _ => portMark .setpointWrite held
    | none => held.setPort { held.port with pendSetpointWrite := false, refresh := .stopped }

/-- The dwell timer restarted (R129). -/
def Dwell.restarted : Dwell := ⟨true, 0, false, false⟩

/-- The dwell timer stopped (R129). -/
def Dwell.halted : Dwell := ⟨false, 0, false, false⟩

/-- The engine notch set, with what a change of it does (R127, steps 1 and 2). -/
def setNotch (n : Nat) (s : State) : State :=
  if n = s.stepper.notch then s
  else markStatus (deriveSetpoint (s.setStepper { s.stepper with notch := n }))

/-- The effective target (R128). -/
def State.effectiveTarget (s : State) : Nat :=
  if s.seq.state = .online then s.alloc.results.target else 0

/-- Steps are taken in ONLINE and UNLOADING (R130). -/
def EngineState.steps : EngineState → Bool
  | .online | .unloading => true
  | _ => false

/-- One step of R130: the dwell timer is restarted and the notch moves to `n`. -/
def stepNotch (n : Nat) (s : State) : State :=
  setNotch n (s.setStepper { s.stepper with dwell := .restarted })

/-- An examination of R130. -/
def examineStep (s : State) : State :=
  if s.seq.state.steps then
    if s.stepper.notch < s.effectiveTarget then
      if s.params.dwellUp * 100 ≤ s.stepper.dwell.count then stepNotch (s.stepper.notch + 1) s else s
    else if s.effectiveTarget < s.stepper.notch then
      if s.params.dwellDown * 100 ≤ s.stepper.dwell.count then stepNotch (s.stepper.notch - 1) s else s
    else s
  else s

/-- What the Stepper does at an entry to a state: dwell timer (R129), forced zero at STOPPING (R132), setpoint (R133), and the
examination with the new effective target (R128). -/
def stepperEntry (st : EngineState) (s : State) : State :=
  let dwell := if st.steps then Dwell.restarted else Dwell.halted
  let timed := s.setStepper { s.stepper with dwell := dwell }
  let forced := if st = .stopping then setNotch 0 timed else timed
  examineStep (deriveSetpoint forced)

end Sys2Proof.Machine
end

