-- ==== Sys2Proof/Machine/ClaimOps.lean ====
section
/-! DEFINITION. Machine/ClaimOps.lean: the claim slot's table (R58) and the Claim Unit's side of the own claim: offer, withdrawal,
need, release (R115 to R122). -/

namespace Sys2Proof.Machine

/-! ### The claim slot (R58) -/

/-- The Claim Unit offers CLAIM; none is a refusal. -/
def ClaimSlot.offerClaim (c : ClaimFields) : ClaimSlot → Option ClaimSlot
  | .empty | .claimPending _ => some (.claimPending c)
  | .claimSending _ _ _ | .releasePending _ | .releaseSending _ => none

/-- The Claim Unit offers RELEASE; none is a refusal. -/
def ClaimSlot.offerRelease (o : ReleaseOutcome) : ClaimSlot → Option ClaimSlot
  | .empty => some (.releasePending o)
  | .claimPending _ => some .empty
  | .claimSending c _ w => some (.claimSending c (some o) w)
  | .releasePending _ => some (.releasePending o)
  | .releaseSending _ => none

/-- The Claim Unit withdraws its need for the claim. -/
def ClaimSlot.withdraw : ClaimSlot → ClaimSlot
  | .claimPending _ => .empty
  | .claimSending c r _ => .claimSending c r true
  | slot => slot

/-- A good CLAIM arrives from a source other than the own number. -/
def ClaimSlot.foreignClaim : ClaimSlot → ClaimSlot
  | .claimPending _ => .empty
  | slot => slot

/-- The start bit of the slot's frame: a pending CLAIM or RELEASE is sending (R53). R58's table prints CLAIM_SENDING in this row under
EMPTY and a dash under CLAIM_PENDING; the model reads it one column to the right (log 34). -/
def ClaimSlot.start : ClaimSlot → ClaimSlot
  | .claimPending c => .claimSending c none false
  | .releasePending o => .releaseSending o
  | slot => slot

/-- The completion of the slot's frame. -/
def ClaimSlot.complete : ClaimSlot → ClaimSlot
  | .claimSending _ (some o) _ => .releasePending o
  | .claimSending _ none _ => .empty
  | .releaseSending _ => .empty
  | slot => slot

/-- Arbitration loss or bit error of the slot's frame: pending again, then a held RELEASE or withdrawal applies. -/
def ClaimSlot.failed : ClaimSlot → ClaimSlot
  | .claimSending c r w => if r.isSome || w then .empty else .claimPending c
  | .releaseSending o => .releasePending o
  | slot => slot

/-- The own CLAIM is in the slot and sending. -/
def ClaimSlot.claimIsSending : ClaimSlot → Bool
  | .claimSending _ _ _ => true
  | _ => false

/-- A RELEASE is offered to the slot; while the transmitter is disabled it is refused (R52). -/
def offerRelease (o : ReleaseOutcome) (s : State) : State :=
  if s.link.txEnabled then
    match s.link.claimSlot.offerRelease o with
    | some slot => s.setLink { s.link with claimSlot := slot }
    | none => s
  else s

/-! ### The own claim -/

/-- The conditions of R117 hold. -/
def State.mayOffer (s : State) : Bool :=
  s.claim.holder == .none && s.claim.recovery.isExpired && s.seq.rest.isExpired
    && decide (s.claim.heat ≤ s.params.heatOk) && !s.link.claimSlot.holdsRelease && !s.view.alone
    && !s.claim.foreignMark

/-- The own CLAIM as offered (R117): CRANK_TIME in 100 ms units and the attempt number. -/
def State.ownClaim (s : State) : ClaimFields := ⟨s.params.crankTime, s.claim.attempt⟩

/-- The offer is examined (R117): in WANTED with every condition met the CLAIM is offered; an accepted offer enters OFFERED. -/
def examineOffer (s : State) : State :=
  if s.claim.phase = .wanted && s.mayOffer && s.link.txEnabled then
    match s.link.claimSlot.offerClaim s.ownClaim with
    | some slot =>
      (s.setLink { s.link with claimSlot := slot }).setClaim { s.claim with phase := .offered }
    | none => s
  else s

/-- The Sequencer needs the claim (R10, R116). -/
def claimNeed (attempt : Nat) (s : State) : State :=
  let c := { s.claim with attempt := attempt }
  match s.claim.phase with
  | .idle => examineOffer (s.setClaim { c with phase := .wanted })
  | .lapsed => s.setClaim { c with needStands := true }
  | .wanted | .offered | .settling | .cranking => s.setClaim c

/-- An offered CLAIM is withdrawn (R118): one that is sending lapses, with the need-stands flag as given; another leaves the slot
and the phase becomes `back`. -/
def withdrawOffer (needStands : Bool) (back : ClaimPhase) (s : State) : State :=
  let pulled := s.setLink { s.link with claimSlot := s.link.claimSlot.withdraw }
  if s.link.claimSlot.claimIsSending then
    pulled.setClaim { s.claim with phase := .lapsed, needStands := needStands }
  else pulled.setClaim { s.claim with phase := back }

/-- The Sequencer withdraws its need (R9, R22, R118). -/
def claimWithdrawNeed (s : State) : State :=
  match s.claim.phase with
  | .wanted => s.setClaim { s.claim with phase := .idle }
  | .offered => withdrawOffer false .idle s
  | .lapsed => s.setClaim { s.claim with needStands := false }
  | .idle | .settling | .cranking => s

/-- The record has come to show a peer while it showed none: an offered CLAIM is withdrawn (R111, R113, R118). -/
def claimSeesPeer (s : State) : State :=
  if s.claim.phase = .offered then withdrawOffer true .wanted s else s

/-- The recovery timer started or restarted with RECOVERY_TIME (R115). -/
def ClaimUnit.recovering (c : ClaimUnit) (p : Params) : ClaimUnit :=
  { c with recovery := .running (p.recoveryTime * 1000) }

/-- The Sequencer asks for a release while the own claim is held (R122). -/
def claimRelease (o : ReleaseOutcome) (s : State) : State :=
  if s.claim.phase = .settling || s.claim.phase = .cranking then
    let freed := s.setClaim
      ({ s.claim with settle := .stopped, clock := .stopped, holder := .none, phase := .idle }.recovering
        s.params)
    offerRelease o (markStatus freed)
  else s

end Sys2Proof.Machine
end

