-- ==== Sys2Proof/Machine/Sequencer.lean ====
section
/-! DEFINITION. Machine/Sequencer.lean: the Engine Sequencer (chapter 1): the entry to each state with all that the entry itself
leads to, how standing causes act (R4), the raising of a condition with the Sequencer's reaction, and what the Sequencer does at
each event. The entries call each other downwards only: an entry leads to states further along the stop path. -/

namespace Sys2Proof.Machine

/-! ### What every entry does -/

/-- The Monitor reads the entry (R147, R149, R155): outside the states of a running engine the run phase becomes NOT_RUN, the
grace timer stops and LOW_OIL's cause is gone; outside ONLINE, UNLOADING and COOLDOWN the stall timer stops. -/
def EngineState.runs : EngineState → Bool
  | .runup | .warmup | .online | .unloading | .cooldown => true
  | _ => false

/-- The states in which a low speed is a stall (R149). -/
def EngineState.stalls : EngineState → Bool
  | .online | .unloading | .cooldown => true
  | _ => false

/-- The states from PRELUBE to COOLDOWN (R22). -/
def EngineState.active : EngineState → Bool
  | .prelube | .claimWait | .claimSettle | .cranking | .runup | .warmup | .online | .unloading
  | .cooldown => true
  | _ => false

/-- Input Dk becomes masked or is masked (R155): its timer stops and its state is INACTIVE; an ACTIVE state that ends so is a
qualification of the inactive level. -/
def maskInput (k : Fin 12) (s : State) : State :=
  let i := s.mon.inputs[k]
  let masked := s.setMon
    { s.mon with inputs := s.mon.inputs.set k { i with stability := .stopped, active := false } }
  if i.active then reportGone (k.val + 1) masked else masked

/-- Every enabled input with a start mask becomes masked (R155). -/
def maskStartMasked (s : State) : State :=
  (List.finRange 12).foldl
    (fun t k => if t.mon.routing[k].enable && t.mon.routing[k].startMask then maskInput k t else t) s

/-- What the Monitor does at an entry to a state (R147, R149, R155). -/
def monitorEntry (st : EngineState) (s : State) : State :=
  let halted := if st.stalls then s else s.setMon { s.mon with stall := .stopped }
  if st.runs then halted
  else
    maskStartMasked
      (reportGone codeLowOil
        (halted.setMon { halted.mon with runPhase := .notRun, grace := .stopped }))

/-- The entry to a state, as far as it is the same for all (R1, R2): state and state timer, the fire-confirm timer stopped (R12),
the STATUS mark, the pass trigger, the stop-delay timer outside class 0 (R105), Stepper, command set, Monitor. -/
def entryBase (st : EngineState) (s : State) : State :=
  let entered := s.setSeq { s.seq with state := st, stateTimer := 0, fireConfirm := .stopped }
  let told := passTrigger (markStatus entered)
  let delayed :=
    if st.rankClass = some 0 then told else told.setAlloc { told.alloc with stopDelay := .stopped }
  let stepped := stepperEntry st delayed
  monitorEntry st (commandSet (st.commands stepped.ret.fuelLatch) stepped)

/-- The stop reason set. -/
def setStopReason (r : StopReason) (s : State) : State := s.setSeq { s.seq with stopReason := r }

/-! ### The entries, from the end of the stop path upwards -/

/-- A transition whose target is STOPPED: ISOLATED instead while ISOLATE is active; count and stop reason cleared (R6). -/
def enterStopped (s : State) : State :=
  entryBase (if s.isolateActive then .isolated else .stopped)
    (s.setSeq { s.seq with attempts := 0, stopReason := .none })

/-- Entry to FAULTED (R24): stop reason NONE and the fault record overwritten from the stop snapshot (R165). -/
def enterFaulted (s : State) : State :=
  let entered := entryBase .faulted (setStopReason .none s)
  entered.setRet { entered.ret with
    record := some
      { cause := recordCause entered.mon.conditions
        state := entered.seq.snapshot.state
        speed := entered.seq.snapshot.speed
        notch := entered.seq.snapshot.notch
        hours := entered.load.hours } }

/-- The stop snapshot of the state being left (R22). -/
def takeSnapshot (s : State) : State :=
  s.setSeq { s.seq with snapshot := ⟨s.seq.state, s.mon.speed, s.stepper.notch⟩ }

/-- The STOPPING exit on the latest speed value (R23). -/
def stoppingExit (s : State) : State :=
  if s.mon.speed < Config.stoppedRpm then
    if s.mon.conditions.any Member.stopCause then enterFaulted s else enterStopped s
  else s

/-- Entry to STOPPING (R22), with the exit examined on the latest speed value (R23) and the was-running flag cleared (R182). -/
def enterStopping (s : State) : State :=
  let snapped := takeSnapshot s
  let entered := entryBase .stopping (snapped.setSeq { snapped.seq with resumed := false })
  stoppingExit (entered.setRet { entered.ret with wasRunning := false })

/-- What the Sequencer tells the Claim Unit when a stop leaves a state with a claim (R14, R22). -/
def dropClaim (s : State) : State :=
  match s.seq.state with
  | .claimWait => claimWithdrawNeed s
  | .claimSettle | .cranking => claimRelease .abandoned s
  | _ => s

/-- ESTOP or a SHUTDOWN-class cause acts: STOPPING, with the claim given up first (R22). -/
def goStopping (s : State) : State := enterStopping (dropClaim s)

/-- A start is cancelled (R9, R11). -/
def cancelStart (s : State) : State := enterStopped (dropClaim s)

/-- At an entry on the stop path a standing ISOLATE or STOP-class condition replaces the reason ALLOCATION (R18, R4; log 13). -/
def replaceAllocationReason (s : State) : State :=
  if s.seq.stopReason = .allocation then
    if s.isolateActive then setStopReason .isolate s
    else if hasClass s.mon.conditions .stop then setStopReason .condition s
    else s
  else s

/-- Entry to COOLDOWN (R20). -/
def enterCooldown (s : State) : State :=
  let entered := entryBase .cooldown s
  if entered.hardCause then goStopping entered
  else
    let reasoned := replaceAllocationReason entered
    if reasoned.params.cooldown = 0 then enterStopping reasoned else reasoned

/-- Entry to UNLOADING (R19). -/
def enterUnloading (s : State) : State :=
  let entered := entryBase .unloading s
  if entered.hardCause then goStopping entered
  else
    let reasoned := replaceAllocationReason entered
    if reasoned.stepper.notch = 0 then enterCooldown reasoned else reasoned

/-- The conditions of the allocation stop (R17). -/
def State.allocationStop (s : State) : Bool :=
  match s.cab.mode with
  | .service =>
    !s.alloc.results.rankedIn && s.alloc.stopDelay.isExpired && s.seq.minRun.isExpired && !s.view.alone
  | .layover => !s.alloc.results.runBasis && s.seq.minRun.isExpired

/-- The Sequencer examines R17. -/
def examineAllocationStop (s : State) : State :=
  if s.seq.state = .online && s.allocationStop then enterUnloading (setStopReason .allocation s) else s

/-- Entry to ONLINE (R18), with the standing causes (R4) and R17 examined. -/
def enterOnline (s : State) : State :=
  let entered := entryBase .online s
  if entered.hardCause then goStopping entered
  else if entered.isolateActive then enterUnloading (setStopReason .isolate entered)
  else if hasClass entered.mon.conditions .stop then enterUnloading (setStopReason .condition entered)
  else examineAllocationStop entered

/-- The Sequencer examines the end of WARMUP (R16). -/
def examineWarm (s : State) : State :=
  if s.seq.state = .warmup && decide (s.params.warmMin * 1000 ≤ s.seq.stateTimer)
      && (decide ((s.params.tWarm : Int) ≤ s.mon.coolant.value)
        || decide (s.params.warmMax * 1000 ≤ s.seq.stateTimer)) then
    enterOnline s
  else s

/-- A standing ISOLATE or STOP-class condition leads RUNUP and WARMUP to COOLDOWN (R18); `otherwise` when neither stands. -/
def coolOrElse (otherwise : State → State) (s : State) : State :=
  if s.isolateActive then enterCooldown (setStopReason .isolate s)
  else if hasClass s.mon.conditions .stop then enterCooldown (setStopReason .condition s)
  else otherwise s

/-- Entry to WARMUP (R16). -/
def enterWarmup (s : State) : State :=
  let entered := entryBase .warmup s
  if entered.hardCause then goStopping entered else coolOrElse examineWarm entered

/-- Entry to RUNUP (R15), with the was-running flag set (R182). -/
def enterRunup (s : State) : State :=
  let entered := entryBase .runup (s.setRet { s.ret with wasRunning := true })
  if entered.hardCause then goStopping entered else coolOrElse id entered

/-- Entry to CRANKING (R12); ESTOP, ISOLATE or a SHUTDOWN-class condition ends the attempt at once (R14, R4). -/
def enterCranking (s : State) : State :=
  let entered := entryBase .cranking s
  if entered.hardCause || entered.isolateActive then goStopping entered else entered

/-- Entry to CLAIM_SETTLE (R11). -/
def enterClaimSettle (s : State) : State :=
  let entered := entryBase .claimSettle s
  if entered.hardCause then goStopping entered
  else if entered.cancelCause then cancelStart entered
  else entered

/-- Entry to CLAIM_WAIT (R10): the need with the attempt number, then the standing causes (R9, R4). -/
def enterClaimWait (s : State) : State :=
  let entered := entryBase .claimWait s
  let needed := claimNeed (entered.seq.attempts + 1) entered
  if needed.hardCause then goStopping needed
  else if needed.cancelCause then cancelStart needed
  else needed

/-- Entry to PRELUBE (R8). -/
def enterPrelube (s : State) : State :=
  let entered := entryBase .prelube s
  if entered.hardCause then goStopping entered
  else if entered.cancelCause then cancelStart entered
  else entered

/-! ### The crank attempt's end -/

/-- A code whose cause is never present after it is raised: the transition, the joining, then the report of absence (R26, R164). -/
def raiseMomentary (code : Nat) (transition : State → State) (s : State) : State :=
  reportGone code (raiseBySequencer code transition s)

/-- The rest timer started with REST_TIME (R3, R13). -/
def startRest (s : State) : State :=
  s.setSeq { s.seq with rest := .running (s.params.restTime * 1000) }

/-- A crank attempt fails (R13). -/
def failedAttempt (s : State) : State :=
  let count := s.seq.attempts + 1
  let released := claimRelease .failed (s.setSeq { s.seq with attempts := count })
  if count < s.params.maxAttempts then enterClaimWait (startRest released)
  else raiseMomentary codeFailToStart enterStopping released

/-! ### Causes that appear (R4) -/

/-- ESTOP qualified asserted, or a SHUTDOWN-class condition joins (R22). -/
def hardAppears (s : State) : State := if s.seq.state.active then goStopping s else s

/-- ISOLATE qualified active (R6, R9, R11, R14, R18). -/
def isolateAppears (s : State) : State :=
  match s.seq.state with
  | .stopped => enterStopped s
  | .prelube | .claimWait | .claimSettle => cancelStart s
  | .cranking => goStopping s
  | .runup | .warmup => enterCooldown (setStopReason .isolate s)
  | .online => enterUnloading (setStopReason .isolate s)
  | .unloading | .cooldown => setStopReason .isolate s
  | .init | .isolated | .stopping | .faulted => s

/-- ISOLATE qualified inactive (R6). -/
def isolateEnds (s : State) : State := if s.seq.state = .isolated then enterStopped s else s

/-- A STOP-class condition joins (R9, R11, R18). -/
def stopAppears (s : State) : State :=
  match s.seq.state with
  | .prelube | .claimWait | .claimSettle => cancelStart s
  | .runup | .warmup => enterCooldown (setStopReason .condition s)
  | .online => enterUnloading (setStopReason .condition s)
  | .unloading | .cooldown => setStopReason .condition s
  | .init | .isolated | .stopped | .cranking | .stopping | .faulted => s

/-- An INHIBIT_START condition joins (R9, R11). -/
def inhibitAppears (s : State) : State :=
  match s.seq.state with
  | .prelube | .claimWait | .claimSettle => cancelStart s
  | _ => s

/-- CRANK_OPEN joins (R13, R27). -/
def crankOpenAppears (s : State) : State := if s.seq.state = .cranking then failedAttempt s else s

/-- The station enters ALONE (R9). -/
def aloneAppears (s : State) : State :=
  match s.seq.state with
  | .prelube | .claimWait => cancelStart s
  | _ => s

/-- The Sequencer's reaction to the joining of a code (R162, step 2). -/
def joiningAppears (code : Nat) (cls : CondClass) (s : State) : State :=
  match cls with
  | .shutdown => hardAppears s
  | .stop => stopAppears s
  | .inhibitStart => inhibitAppears s
  | .alarm | .derate | .unload => if code = codeCrankOpen then crankOpenAppears s else s

/-- The report that the cause of a code is present (R158). -/
def reportPresent (code : Nat) (s : State) : State :=
  reportPresentWith code (joiningAppears code (s.classOf code)) s

/-- The report of a cause, present or gone (R158, R159). -/
def reportCause (code : Nat) (present : Bool) (s : State) : State :=
  if present then reportPresent code s else reportGone code s

/-! ### Events of other blocks -/

/-- The pass end at the Sequencer (R91, step 4; R7, R9, R11, R17, R21). -/
def sequencerPassEnd (s : State) : State :=
  let basis := s.alloc.results.runBasis
  match s.seq.state with
  | .stopped =>
    if basis && s.alloc.results.selfEligible && !s.view.alone && !s.estopActive then
      if s.params.prelubeTime = 0 then enterClaimWait s else enterPrelube s
    else s
  | .prelube | .claimWait | .claimSettle => if basis then s else cancelStart s
  | .online => examineAllocationStop s
  | .unloading | .cooldown =>
    if basis && s.seq.stopReason = .allocation then enterOnline (setStopReason .none s) else s
  | .init | .isolated | .cranking | .runup | .warmup | .stopping | .faulted => s

/-- The minimum-run timer started with MIN_RUN (R3). -/
def startMinRun (s : State) : State :=
  s.setSeq { s.seq with minRun := .running (s.params.minRun * 1000) }

/-- The run phase enters GRACE at the fire or the resume (R147). -/
def startGrace (s : State) : State :=
  s.setMon { s.mon with runPhase := .grace, grace := .running (s.params.oilGrace * 1000) }

/-- The end of INIT (R5). -/
def initExit (s : State) : State :=
  if hasCode s.mon.conditions codeConfigFault then
    if s.ret.fuelLatch then enterStopping s
    else enterFaulted (takeSnapshot s)
  else if s.ret.fuelLatch then
    if s.params.idleSpeed / 2 ≤ s.mon.speed then
      let resumed := startGrace (startMinRun (s.setSeq { s.seq with resumed := true }))
      enterOnline (resumed.setRet { resumed.ret with wasRunning := true })
    else enterStopping s
  else enterStopped s

/-- INIT ends when the load has completed and the first speed value has come (R5). -/
def examineInit (s : State) : State :=
  if s.seq.state = .init && s.loaded && s.mon.speedYet then initExit s else s

/-- The fire (R12). -/
def fire (s : State) : State :=
  let released := claimRelease .fired s
  enterRunup (startGrace (startMinRun (released.setSeq { released.seq with attempts := 0 })))

/-- A new speed value at the Sequencer (R5, R12, R15, R23). -/
def sequencerSpeed (s : State) : State :=
  match s.seq.state with
  | .init => examineInit s
  | .cranking =>
    if s.params.fireSpeed ≤ s.mon.speed then
      if s.seq.fireConfirm = .stopped then
        s.setSeq { s.seq with fireConfirm := .running Config.fireConfirmMs }
      else s
    else s.setSeq { s.seq with fireConfirm := .stopped }
  | .runup => if s.params.idleSpeed * 9 ≤ s.mon.speed * 10 then enterWarmup s else s
  | .stopping => stoppingExit s
  | _ => s

/-- The fault reset at the Sequencer: the FAULTED exit (R25). -/
def sequencerFaultReset (s : State) : State :=
  if s.seq.state = .faulted && !s.mon.conditions.any Member.stopCause
      && !hasCode s.mon.conditions codeConfigFault && !hasCode s.mon.conditions codeAddressConflict
      && decide (s.mon.speed < Config.stoppedRpm) then
    enterStopped s
  else s

/-- The Stepper's examination with the step to 0 handed to the Sequencer (R127 step 3, R19). -/
def stepperExamine (s : State) : State :=
  let stepped := examineStep s
  if stepped.seq.state = .unloading && stepped.stepper.notch = 0 && s.stepper.notch != 0 then
    enterCooldown stepped
  else stepped

end Sys2Proof.Machine
end

