-- ==== Sys2Proof/Machine/Cab.lean ====
section
/-! DEFINITION. Machine/Cab.lean: the Cab Line Unit (chapter 2): sampling and qualification of the cab inputs, the demand decoder,
the mode and the layover checks. -/

namespace Sys2Proof.Machine

/-! ### Sampling (R29, R34, R168) -/

/-- One sample of a two-level input: the first sample, and one that differs from the sample before it, restart the stability
timer (R29). -/
def QualifiedInput.sample (stableMs : Nat) (level : Bool) (q : QualifiedInput) : QualifiedInput :=
  if q.sampledYet && q.sampled == level then q
  else { q with sampled := level, sampledYet := true, stability := .running stableMs }

/-- The expiry of the stability timer finds a level to qualify (R29): a new one, or the first. -/
def QualifiedInput.qualifies (q : QualifiedInput) : Bool := q.sampled != q.qualified || !q.qualifiedYet

/-- The input after the expiry of its stability timer (R29). -/
def QualifiedInput.settled (q : QualifiedInput) : QualifiedInput :=
  { q with stability := .expired, qualified := q.sampled, qualifiedYet := true }

/-- The state of one discrete line. -/
def CabUnit.line (c : CabUnit) : CabLine → QualifiedInput
  | .run => c.run
  | .estop => c.estop
  | .faultReset => c.faultReset
  | .isolate => c.isolate

/-- The unit with the state of one discrete line replaced. -/
def CabUnit.setLine (c : CabUnit) (line : CabLine) (q : QualifiedInput) : CabUnit :=
  match line with
  | .run => { c with run := q }
  | .estop => { c with estop := q }
  | .faultReset => { c with faultReset := q }
  | .isolate => { c with isolate := q }

/-- The code sampled: the first sample, and one that differs from the sample before it, restart the code's timer (R34). -/
def CabUnit.sampleCode (code : Nat) (c : CabUnit) : CabUnit :=
  if c.codeSampledYet && c.sampledCode == code then c
  else { c with
    sampledCode := code, codeSampledYet := true, codeStability := .running Config.codeStableMs }

/-- CAB_LINE_SAMPLE (R29, R34): the eight inputs at one sample. -/
def execCabLineSample (levels : CabLevels) (s : State) : Result :=
  .next (s.setCab
    ({ s.cab with
        run := s.cab.run.sample Config.discreteStableMs (assertedLevel levels .run)
        estop := s.cab.estop.sample Config.discreteStableMs (assertedLevel levels .estop)
        faultReset := s.cab.faultReset.sample Config.discreteStableMs (assertedLevel levels .faultReset)
        isolate := s.cab.isolate.sample Config.discreteStableMs (assertedLevel levels .isolate) }.sampleCode
      (throttleCode levels)))

/-! ### What a qualification of a discrete line hands on -/

/-- The period of the layover check timer (R39). -/
def Params.layoverPeriod (p : Params) : Nat := p.layoverCheck * 60000

/-- The cab unit at a change of mode (R30, R39, R41). -/
def CabUnit.enterMode (c : CabUnit) (mode : Mode) (loaded : Bool) (p : Params) : CabUnit :=
  match mode with
  | .service =>
    { c with mode := .service, layoverCheck := .stopped, coldRun := false, batteryNeed := false }
  | .layover =>
    { c with
      mode := .layover
      layoverCheck := if loaded then .running p.layoverPeriod else c.layoverCheck }

/-- A qualification of RUN (R30); at a change to LAYOVER the stop-delay timer stops (R105). -/
def runQualified (s : State) : State :=
  let mode := if s.cab.run.qualified then Mode.service else Mode.layover
  if mode = s.cab.mode then s
  else
    let moded := s.setCab (s.cab.enterMode mode s.loaded s.params)
    let delayed :=
      if mode = .layover then moded.setAlloc { moded.alloc with stopDelay := .stopped } else moded
    markStatus (passTrigger delayed)

/-- A qualification of ESTOP (R31). -/
def estopQualified (s : State) : State :=
  markStatus (passTrigger (if s.cab.estop.qualified then hardAppears s else s))

/-- The latched members that a fault reset removes (R160): their cause has gone, and they are neither ADDRESS_CONFLICT nor
CONFIG_FAULT. -/
def Member.resettable (m : Member) : Bool :=
  m.latched && !m.cause && m.code != codeAddressConflict && m.code != codeConfigFault

/-- The fault-reset event (R32, R160, R25): the Monitor removes the members one after the other (by rising code, log 27), then the
Sequencer takes the event. -/
def faultResetQualified (s : State) : State :=
  sequencerFaultReset
    ((s.mon.conditions.filter Member.resettable).foldl (fun t m => leaveCondition m t) s)

/-- A qualification of ISOLATE (R33). -/
def isolateQualified (s : State) : State :=
  if s.cab.isolate.qualified then isolateAppears s else isolateEnds s

/-- What a qualification hands on (R30 to R33); `first` says that the line was not qualified before. -/
def lineQualified (line : CabLine) (first : Bool) (s : State) : State :=
  match line with
  | .run => runQualified s
  | .estop => if first && !s.cab.estop.qualified then s else estopQualified s
  | .faultReset => if s.cab.faultReset.qualified then faultResetQualified s else s
  | .isolate => if first && !s.cab.isolate.qualified then s else isolateQualified s

/-- CAB_LINE_QUALIFICATION (R29): the stability timer of one line expires. -/
def execCabLineQualification (line : CabLine) (s : State) : Result :=
  let q := s.cab.line line
  .next
    (if q.stability.isRunning then
      let settled := s.setCab (s.cab.setLine line q.settled)
      if q.qualifies then lineQualified line (!q.qualifiedYet) settled else settled
    else s)

/-! ### The demand decoder (R34 to R38) -/

/-- A change of the decoder handed on as one change (R38): a trigger with the notch, a mark with the STATUS demand field. -/
def changeDecoder (c : CabUnit) (s : State) : State :=
  markStatusIf (c.demandField != s.cab.demandField)
    (passTriggerIf (c.demand != s.cab.demand) (s.setCab c))

/-- The peer majority (R37, R83): the lowest notch of the greatest count, none when nothing is counted. -/
def majority (tally : List Nat) : Option Nat :=
  let top := tally.foldl max 0
  if top = 0 then none else tally.findIdx? fun n => n == top

/-- The demand and source taken from the peers (R37). -/
def CabUnit.takeMajority (c : CabUnit) (peers : Option Nat) : CabUnit :=
  match peers with
  | some notch => { c with demand := notch, source := .peers }
  | none => { c with demand := 0, source := .default }

/-- The qualification of a code (R35, R36). -/
def CabUnit.qualifyCode (c : CabUnit) (code : Nat) : CabUnit :=
  let q := { c with qualifiedCode := some code }
  if code ≤ 8 then
    { q with
      decoder := .valid, demand := code, source := .localLines, lastValid := some code,
      invalidCode := .stopped }
  else
    match c.decoder with
    | .valid =>
      { q with decoder := .invalidHold, source := .held, invalidCode := .running Config.invalidCodeMs }
    | .unqualified =>
      { q with decoder := .invalidHold, invalidCode := .running Config.invalidCodeMs }
    | .invalidHold | .invalidPeers => q

/-- THROTTLE_CODE_QUALIFICATION (R34). -/
def execThrottleCodeQualification (s : State) : Result :=
  .next
    (if s.cab.codeStability.isRunning then
      let c := { s.cab with codeStability := .expired }
      if c.qualifiedCode = some c.sampledCode then s.setCab c
      else changeDecoder (c.qualifyCode c.sampledCode) s
    else s)

/-- INVALID_CODE_TIMER_EXPIRY (R36): the decoder enters INVALID_PEERS and takes the majority (R37). -/
def execInvalidCodeTimerExpiry (s : State) : Result :=
  .next
    (if s.cab.invalidCode.isRunning then
      let c := { s.cab with invalidCode := .expired }
      if c.decoder = .invalidHold then
        changeDecoder ({ c with decoder := .invalidPeers }.takeMajority (majority s.view.tally)) s
      else s.setCab c
    else s)

/-- The notice of a changed majority from the Consist View (R37, R83). -/
def majorityNotice (s : State) : State :=
  if s.cab.decoder = .invalidPeers then
    changeDecoder (s.cab.takeMajority (majority s.view.tally)) s
  else s

/-! ### The layover check (R39, R40) -/

/-- The cold-run test (R40): the flag after a check. -/
def State.coldRunAfterCheck (s : State) : Bool :=
  s.cab.coldRun || (!s.mon.coolant.fault && decide (s.mon.coolant.value < s.params.tCold))

/-- The battery-need test (R40): the flag after a check. -/
def State.batteryNeedAfterCheck (s : State) : Bool :=
  s.cab.batteryNeed || (!s.mon.battery.fault && decide (s.mon.battery.value < s.params.vLow))

/-- LAYOVER_CHECK_EXPIRY (R40, R42). -/
def execLayoverCheckExpiry (s : State) : Result :=
  .next
    (if s.cab.layoverCheck.isRunning then
      markStatusIf (s.coldRunAfterCheck != s.cab.coldRun || s.batteryNeedAfterCheck != s.cab.batteryNeed)
        (s.setCab { s.cab with
          layoverCheck := .running s.params.layoverPeriod
          coldRun := s.coldRunAfterCheck
          batteryNeed := s.batteryNeedAfterCheck })
    else s)

end Sys2Proof.Machine
end

