-- ==== Sys2Proof/Machine/ViewOps.lean ====
section
/-! DEFINITION. Machine/ViewOps.lean: what the Consist View does inside several commands: ALONE (R79, R80), the demand tally (R83),
presence and age (R68, R69). -/

namespace Sys2Proof.Machine

/-! ### ALONE (R79, R80) -/

/-- The view enters ALONE, when it is not already (R79): S_load frozen, the Sequencer told, STATUS marked. -/
def enterAlone (s : State) : State :=
  if s.view.alone then s
  else
    markStatus
      (aloneAppears (s.setView { s.view with alone := true, sFrozen := s.alloc.results.sLoad }))

/-- The view leaves ALONE (R80): STATUS marked, and the offer examined (R117). -/
def leaveAlone (s : State) : State :=
  if s.view.alone then examineOffer (markStatus (s.setView { s.view with alone := false })) else s

/-- Every peer entry is ABSENT or LOST (R79). -/
def State.noPeerPresent (s : State) : Bool :=
  (List.finRange 7).all fun i => s.isSelf i || (s.view.entry i).presence != .present

/-! ### The demand tally (R83) -/

/-- The entry at a place counts for a notch of the tally (R83). -/
def State.counts (s : State) (notch : Nat) (i : Fin 7) : Bool :=
  !s.isSelf i && (s.view.entry i).presence == .present
    && ((s.view.entry i).record.map (·.demand) == some notch)

/-- The tally as the table stands (R83). -/
def State.countTally (s : State) : List Nat :=
  (List.range 9).map fun notch => (List.finRange 7).countP fun i => s.counts notch i

/-- The tally recomputed; a change of it is a notice to the Cab Line Unit (R83, R37). -/
def recomputeTally (s : State) : State :=
  let tally := s.countTally
  if tally = s.view.tally then s else majorityNotice (s.setView { s.view with tally := tally })

/-! ### Presence and age (R68, R69) -/

/-- The common step for a good frame from a peer (R70): PRESENT, the age restarted, the ever-seen-peer flag; a change of presence
sets the changed mark (R68). -/
def heardPeer (i : Fin 7) (s : State) : State :=
  let e := s.view.entry i
  s.setView { s.view.setEntry i { e with
      presence := .present, age := .running Config.ageMs,
      changed := e.changed || e.presence != .present } with everSeen := true }

/-- An age expiry taken (R69): LOST with its changed mark, then ALONE (R79), the tally (R83) and the trigger (R74). -/
def ageTaken (i : Fin 7) (s : State) : State :=
  let lost := s.setView
    (s.view.setEntry i { s.view.entry i with presence := .lost, heldExpiry := false, changed := true })
  passTrigger
    (recomputeTally (if lost.noPeerPresent && lost.view.everSeen then enterAlone lost else lost))

/-- AGE_EXPIRY (R69) of the entry of a station number: held while a pass is in flight, else taken. -/
def execAgeExpiry (station : Nat) (s : State) : Result :=
  .next
    (match peerIndex station with
    | none => s
    | some i =>
      if (s.view.entry i).age.isRunning then
        let expired := s.setView (s.view.setEntry i { s.view.entry i with age := .expired })
        if s.alloc.phase = .inPass then
          expired.setView
            (expired.view.setEntry i { expired.view.entry i with heldExpiry := true })
        else ageTaken i expired
      else s)

/-- The view takes every held expiry, by rising station number (R69; the order: log 16). -/
def takeHeldExpiries (s : State) : State :=
  (List.finRange 7).foldl (fun t i => if (t.view.entry i).heldExpiry then ageTaken i t else t) s

end Sys2Proof.Machine
end

