-- ==== Sys2Proof/Machine/Claims.lean ====
section
/-! DEFINITION. Machine/Claims.lean: the claim record under the peers' frames (R111 to R113, R121), and the Claim Unit's own
events: lease, recovery, settle, heat (R114, R115, R119, R120, R125). -/

namespace Sys2Proof.Machine

/-- The lease that a CLAIM with a crank limit gives, in ms (R111). -/
def claimLease (limit : Nat) : Nat := Config.settleMs + limit * 100 + Config.leaseMarginMs

/-- The lease that a STATUS with a claim remaining gives, in ms (R113). -/
def statusLease (remaining : Nat) : Nat := remaining * 100 + Config.leaseMarginMs

/-- The record names a peer with a lease. -/
def ClaimUnit.held (c : ClaimUnit) (station lease : Nat) : ClaimUnit :=
  { c with holder := .peer station, lease := .running lease }

/-- The record's peer holder becomes none: the lease stops, recovery starts (R112, R115). -/
def ClaimUnit.released (c : ClaimUnit) (p : Params) : ClaimUnit :=
  { c with holder := .none, lease := .stopped }.recovering p

/-- A peer's claim meets the own one (R121): a lower peer takes it in SETTLING, else it is kept and STATUS is marked. -/
def conflictingClaim (station lease : Nat) (s : State) : State :=
  if s.claim.phase = .settling && decide (station < s.load.station) then
    let yielded := s.setClaim
      ({ s.claim with settle := .stopped, clock := .stopped, phase := .idle }.held station lease)
    let told := markStatus (offerRelease .abandoned yielded)
    if told.seq.state = .claimSettle then enterClaimWait told else told
  else markStatus s

/-- The record under a claim by a peer, heard in a CLAIM or in a flag-set STATUS (R111, R113). -/
def peerClaims (station lease : Nat) (s : State) : State :=
  match s.claim.holder with
  | .none => claimSeesPeer (s.setClaim (s.claim.held station lease))
  | .self => conflictingClaim station lease s
  | .peer y => if station ≤ y then s.setClaim (s.claim.held station lease) else s

/-- The record after news that a peer's claim has ended (R112, R113). -/
def peerReleases (station : Nat) (s : State) : State :=
  if s.claim.holder = .peer station then examineOffer (s.setClaim (s.claim.released s.params)) else s

/-- A CLAIM applied (R111); it also clears the foreign-claim mark, which is an examination event (R117, R118). -/
def applyClaim (station : Nat) (f : ClaimFields) (s : State) : State :=
  let recorded := peerClaims station (claimLease f.crankLimit) s
  if recorded.claim.foreignMark then
    examineOffer (recorded.setClaim { recorded.claim with foreignMark := false })
  else recorded

/-- The claim fields of a STATUS applied (R113). -/
def applyStatusClaim (station : Nat) (held : Bool) (remaining : Nat) (s : State) : State :=
  if held then peerClaims station (statusLease remaining) s else peerReleases station s

/-! ### The own claim on the line (R119) -/

/-- The own CLAIM has completed (R119). -/
def ownClaimCompleted (s : State) : State :=
  match s.claim.phase with
  | .offered =>
    let settling := markStatus (s.setClaim { s.claim with
      holder := .self, settle := .running Config.settleMs, clock := .running 0, phase := .settling })
    if settling.seq.state = .claimWait then enterClaimSettle settling else settling
  | .lapsed =>
    offerRelease .abandoned (s.setClaim
      ({ s.claim with phase := if s.claim.needStands then .wanted else .idle }.recovering s.params))
  | .idle | .wanted | .settling | .cranking => s

/-- A transmission of the own CLAIM has failed: in LAPSED the held withdrawal has emptied the slot (R119). -/
def ownClaimFailed (s : State) : State :=
  if s.claim.phase = .lapsed then
    s.setClaim { s.claim with phase := if s.claim.needStands then .wanted else .idle }
  else s

/-- The transmitter is disabled: OFFERED and LAPSED end without a record (R124). -/
def claimWithoutTransmitter (s : State) : State :=
  match s.claim.phase with
  | .offered => s.setClaim { s.claim with phase := .wanted }
  | .lapsed => s.setClaim { s.claim with phase := if s.claim.needStands then .wanted else .idle }
  | .idle | .wanted | .settling | .cranking => s

/-! ### The Claim Unit's timers -/

/-- LEASE_EXPIRY (R114). -/
def execLeaseExpiry (s : State) : Result :=
  .next
    (if s.claim.lease.isRunning then examineOffer (s.setClaim (s.claim.released s.params)) else s)

/-- RECOVERY_TIMER_EXPIRY (R115). -/
def execRecoveryTimerExpiry (s : State) : Result :=
  .next
    (if s.claim.recovery.isRunning then
      examineOffer (s.setClaim { s.claim with recovery := .expired })
    else s)

/-- SETTLE_EXPIRY (R120): an event of SETTLING alone. -/
def execSettleExpiry (s : State) : Result :=
  .next
    (if s.claim.settle.isRunning && s.claim.phase == .settling then
      let cranking := s.setClaim { s.claim with settle := .expired, phase := .cranking }
      if s.seq.state = .claimSettle then enterCranking cranking else cranking
    else s)

/-- Starter heat after one update (R125). -/
def heatAfter (p : Params) (heat : Nat) (crank : Bool) : Nat :=
  min Config.heatMax (heat - heat * p.heatDecay / 4096 + if crank then p.heatInc else 0)

/-- HEAT_UPDATE (R125): in WANTED the offer is examined; in CRANKING a heat trip fails the attempt (R13). -/
def execHeatUpdate (s : State) : Result :=
  .next
    (if s.claim.heatTimer.isRunning then
      let updated := s.setClaim { s.claim with
        heat := heatAfter s.params s.claim.heat s.out.crank, heatTimer := .running Config.heatMs }
      match updated.claim.phase with
      | .wanted => examineOffer updated
      | .cranking =>
        if updated.params.heatTrip ≤ updated.claim.heat && updated.seq.state = .cranking then
          failedAttempt updated
        else updated
      | .idle | .offered | .lapsed | .settling => updated
    else s)

end Sys2Proof.Machine
end

