-- ==== Sys2Proof/Machine/Responder.lean ====
section
/-! DEFINITION. Machine/Responder.lean: the maintenance mailbox and the responder that serves it through the reply slot
(R184 to R186), with the reply layouts (R188). -/

namespace Sys2Proof.Machine

/-- Two bytes, high byte first (11.3). -/
def bytes2 (n : Nat) : List Byte := [byteOf (n / 256), byteOf n]

/-- Three bytes, high byte first (11.3). -/
def bytes3 (n : Nat) : List Byte := [byteOf (n / 65536), byteOf (n / 256), byteOf n]

/-- The number whose bit i is the i-th flag of the list (bit 0 first). -/
def flagBits : List Bool → Nat
  | [] => 0
  | b :: bs => bit b + 2 * flagBits bs

/-- The demand source's code (R188). -/
def DemandSource.code : DemandSource → Nat
  | .localLines => 0
  | .held => 1
  | .peers => 2
  | .default => 3

/-- The presence's code (R188). -/
def Presence.code : Presence → Nat
  | .absent => 0
  | .present => 1
  | .lost => 2

/-- The proof state's code (R188). -/
def ProofState.code : ProofState → Nat
  | .agree => 0
  | .proving => 1
  | .disagree => 2

/-- The data of READ_SELF (R188). -/
def State.replySelf (s : State) : List Byte :=
  [byteOf (s.seq.state.code * 16 + s.stepper.notch),
   byteOf (s.alloc.results.target * 16 + s.cab.demand)]
  ++ bytes2 (s.cab.source.code * 16384 + bit s.seq.resumed * 8192 + bit s.view.everSeen * 4096
      + bit s.cab.batteryNeed * 2048 + s.alloc.results.share)
  ++ bytes2 (s.seq.attempts * 8192 + bit (s.cab.mode == .service) * 4096 + bit s.view.alone * 2048
      + s.mon.capacity)
  ++ bytes2 (bit s.cab.coldRun * 32768 + s.mon.derate)
  ++ bytes2 s.claim.heat

/-- The first nine bytes of the STATUS layout for a record, all zero when none is held (R188). -/
def recordBytes : Option StatusRecord → List Byte
  | some r => (encodeStatus r).take 9
  | none => List.replicate 9 0

/-- The data of READ_PEER for an entry (R188): the record, with the presence in bits 15..14 of bytes 5 and 6, and the age. -/
def PeerEntry.replyPeer (e : PeerEntry) : List Byte :=
  let record := recordBytes e.record
  record.take 4 ++ [byteOf (e.presence.code * 64 + (record.getD 4 0).toNat)] ++ record.drop 5
    ++ [byteOf (bit e.record.isSome * 128 + e.age.elapsed Config.ageMs / 10)]

/-- The data of READ_CONDITIONS (R186, R188). -/
def State.replyConditions (s : State) : List Byte :=
  ((sortBy strongerMember s.mon.conditions).take 10).map fun m => byteOf m.code

/-- The data of READ_FAULT_RECORD (R188). -/
def State.replyFaultRecord (s : State) : List Byte :=
  match s.ret.record with
  | some r =>
    [byteOf r.cause, byteOf (r.state.code * 16 + r.notch)] ++ bytes2 r.speed ++ bytes3 r.hours
  | none => List.replicate 7 0

/-- The data of READ_HOURS (R188). -/
def State.replyHours (s : State) : List Byte :=
  bytes3 s.load.hours ++ [byteOf s.ret.minutes] ++ bytes3 s.ret.shadow
    ++ [byteOf (bit (s.load.startRecord.kind == .core) * 128 + bit s.load.startRecord.wasRunning * 64)]
    ++ bytes2 s.hoursBucket

/-- The data of READ_INPUTS 0: cab lines and protective inputs (R188). Bits 3..0 of byte 3 are 0 while no throttle code has been
qualified: the manual gives that field no value then (DESIGN CHOICE, log 31). -/
def State.replyInputs0 (s : State) : List Byte :=
  let c := s.cab
  [byteOf (flagBits [c.sampledCode.testBit 3, c.sampledCode.testBit 2, c.sampledCode.testBit 1,
      c.sampledCode.testBit 0, c.isolate.sampled, c.faultReset.sampled, c.estop.sampled, c.run.sampled]),
   byteOf (flagBits [c.isolate.qualifiedYet, c.faultReset.qualifiedYet, c.estop.qualifiedYet,
      c.run.qualifiedYet, c.isolate.qualified, c.faultReset.qualified, c.estop.qualified,
      c.run.qualified]),
   byteOf (bit c.qualifiedCode.isSome * 128 + c.qualifiedCode.getD 0)]
  ++ bytes2 (flagBits (s.mon.inputs.toList.map (·.closed)))
  ++ bytes2 (flagBits (s.mon.inputs.toList.map (·.active)))

/-- One channel's word: the sensor-fault flag and the raw reading (R188). -/
def AnalogChannel.replyWord (c : AnalogChannel) : Nat := bit c.fault * 32768 + c.raw

/-- The data of READ_INPUTS 1: the analog channels (R188). -/
def State.replyInputs1 (s : State) : List Byte :=
  bytes2 s.mon.coolant.replyWord ++ bytes2 s.mon.oil.replyWord ++ bytes2 s.mon.battery.replyWord
    ++ [byteOf (s.mon.coolant.value + 40).toNat]
    ++ bytes3 (s.mon.oil.value.toNat * 1024 + s.mon.battery.value.toNat)

/-- The data of READ_INPUTS 2: speed and outputs (R188). -/
def State.replyInputs2 (s : State) : List Byte :=
  let c := s.out.crankProving
  let f := s.out.fuelProving
  let p := s.out.prelubeProving
  bytes2 s.mon.speed
  ++ [byteOf (flagBits [s.out.alarm, s.out.loadPermit, s.out.prelube, s.ret.fuelLatch, s.out.crank]),
      byteOf (flagBits [p.feedback.qualified, f.feedback.qualified, c.feedback.qualified, false,
        p.feedback.sampled, f.feedback.sampled, c.feedback.sampled]),
      byteOf (c.proof.code * 16 + f.proof.code * 4 + p.proof.code)]

/-- The data of READ_INPUTS 3: the governor (R188). -/
def State.replyInputs3 (s : State) : List Byte :=
  [s.port.report.signature, s.port.report.state, s.port.report.faultCode, s.port.report.fuelDemand,
   byteOf (bit s.port.governorFault * 128 + s.port.badReads * 16 + s.port.goodReads)]

/-- The data of READ_PEER by its argument; none is a refused argument (R186). -/
def State.peerData (s : State) (argument : Nat) : Option (List Byte) :=
  (peerIndex argument).map fun i => (s.view.entry i).replyPeer

/-- The data of READ_INPUTS by its argument; none is a refused argument (R186). -/
def State.inputsData (s : State) (argument : Nat) : Option (List Byte) :=
  match argument with
  | 0 => some s.replyInputs0
  | 1 => some s.replyInputs1
  | 2 => some s.replyInputs2
  | 3 => some s.replyInputs3
  | _ => none

/-- A reply with its data, or with BAD_ARGUMENT (R186). -/
def replyWith (code : Byte) : Option (List Byte) → Reply
  | some data => ⟨code, 0, data⟩
  | none => ⟨code, 2, []⟩

/-- The reply to a request, built from the values that stand (R185, R186). -/
def State.replyTo (s : State) (q : Request) : Reply :=
  match q.code.toNat with
  | 1 => replyWith q.code (some s.replySelf)
  | 2 => replyWith q.code (s.peerData q.argument.toNat)
  | 3 => replyWith q.code (some s.replyConditions)
  | 4 => replyWith q.code (some s.replyFaultRecord)
  | 5 => replyWith q.code (some s.replyHours)
  | 6 => replyWith q.code (s.inputsData q.argument.toNat)
  | _ => ⟨q.code, 1, []⟩

/-- The responder examines its two conditions and serves (R185). -/
def serveMailbox (s : State) : State :=
  match s.mailbox with
  | none => s
  | some q =>
    if s.link.replySlot.isNone && s.link.txEnabled then
      (s.setLink { s.link with replySlot := some (s.replyTo q) }).setMailbox none
    else s

/-- The mailbox takes a request for this station (R184): with a station number, the transmitter enabled and the mailbox EMPTY. -/
def State.takesRequest (s : State) : Bool :=
  s.load.station != 0 && s.link.txEnabled && s.mailbox.isNone

/-- A request addressed to this station reaches the mailbox (R184, R185); a discarded one leaves no trace. -/
def request (q : Request) (s : State) : State :=
  if s.takesRequest then serveMailbox (s.setMailbox (some q)) else s

/-- A REQUEST frame reaches the mailbox (R184): target, code and argument are its three data bytes (R187). -/
def requestFrame (data : List Byte) (s : State) : State :=
  if dataByte data 1 = s.load.station then request ⟨data.getD 1 0, data.getD 2 0⟩ s else s

/-! ### The requests as commands (log 18) -/

/-- READ_SELF (R186) asked of this station. -/
def execReadSelf (argument : Byte) (s : State) : Result := .next (request ⟨1, argument⟩ s)

/-- READ_PEER (R186) asked of this station. -/
def execReadPeer (argument : Byte) (s : State) : Result := .next (request ⟨2, argument⟩ s)

/-- READ_CONDITIONS (R186) asked of this station. -/
def execReadConditions (argument : Byte) (s : State) : Result := .next (request ⟨3, argument⟩ s)

/-- READ_FAULT_RECORD (R186) asked of this station. -/
def execReadFaultRecord (argument : Byte) (s : State) : Result := .next (request ⟨4, argument⟩ s)

/-- READ_HOURS (R186) asked of this station. -/
def execReadHours (argument : Byte) (s : State) : Result := .next (request ⟨5, argument⟩ s)

/-- READ_INPUTS (R186) asked of this station. -/
def execReadInputs (argument : Byte) (s : State) : Result := .next (request ⟨6, argument⟩ s)

/-- BAD_CODE (R186): a request of another code asked of this station. -/
def execBadCode (code argument : Byte) (s : State) : Result := .next (request ⟨code, argument⟩ s)

end Sys2Proof.Machine
end

