-- ==== Sys2Proof/Machine/Link.lean ====
section
/-! DEFINITION. Machine/Link.lean: the Link Controller (chapter 3): the line, sending a frame and its three outcomes, the transmit
slots, receiving into the pool. Its events come per frame, not per bit (log 9). -/

namespace Sys2Proof.Machine

/-! ### The line (R44) -/

/-- SETTLING with a count of released bit times (R44). -/
def LinkUnit.settle (l : LinkUnit) (released : Nat) : LinkUnit :=
  { l with line := .settling, releasedBits := released }

/-- No frame is being received. -/
def LinkUnit.notReceiving (l : LinkUnit) : Bool := l.filling.isNone && !l.intoNothing

/-- A frame past its priority field, or one that the station sends, has not ended yet (R44, R63). -/
def LinkUnit.frameOnLine (l : LinkUnit) : Bool := l.sending.isSome || !l.notReceiving

/-- `n` more consecutive released bit times (R44). In SETTLING each adds one to the count, and at nine the line is IDLE. While a frame
has not ended they are bits of its end field: the first of them has made the line SETTLING with the count at 0, and there are at
most seven of them; the frame then ends by its own event. -/
def LinkUnit.readReleased (l : LinkUnit) (n : Nat) : LinkUnit :=
  let count := if l.line = .settling then l.releasedBits + n else n
  match l.line, l.frameOnLine with
  | .idle, _ | .inFrame, false => l
  | .inFrame, true | .settling, true => if count ≤ Config.endBits then l.settle count else l
  | .settling, false =>
    if Config.idleBits ≤ count then { l with line := .idle, releasedBits := Config.idleBits }
    else l.settle count

/-- A driven bit (R44): at an IDLE line the start bit of another party's frame; in SETTLING it starts no frame and sets the count back
to 0; in a frame it is one of the frame's bits. -/
def LinkUnit.readDriven (l : LinkUnit) : LinkUnit :=
  match l.line with
  | .idle => { l with line := .inFrame }
  | .settling => l.settle 0
  | .inFrame => l

/-- LINE_IDLE (R44): `released` more consecutive released bit times; the line is IDLE when the count reaches nine. -/
def execLineIdle (s : State) (released : Nat := Config.idleBits) : Result :=
  .next (s.setLink (s.link.readReleased released))

/-- START_BIT_READ (R44): a driven bit, at an IDLE line the start bit of another party's frame. -/
def execStartBitRead (s : State) : Result := .next (s.setLink s.link.readDriven)

/-! ### The pool's receiving side (R63, R64) -/

/-- A buffer taken for the frame on the line: the head of the free list, or none, and the frame is received into nothing (R63). A
frame that is being received already keeps its place. -/
def LinkUnit.takeBuffer (l : LinkUnit) : LinkUnit :=
  if l.notReceiving then
    match l.freeList with
    | [] => { l with intoNothing := true }
    | b :: rest => { l with filling := some b, freeList := rest }
  else l

/-- END_OF_PRIORITY_FIELD (R63) of a frame that the station is not sending. -/
def execEndOfPriorityField (s : State) : Result :=
  .next
    (if s.link.line = .inFrame && s.link.sending.isNone then s.setLink s.link.takeBuffer else s)

/-! ### Sending (R53) -/

/-- The frame that a candidate puts on the line (R53, R187); STATUS is built from the values that stand. -/
def State.frameFor (s : State) (kind : TxKind) : RawFrame :=
  let data :=
    match kind with
    | .claim =>
      match s.link.claimSlot with
      | .claimPending c => encodeClaim c
      | _ => []
    | .release =>
      match s.link.claimSlot with
      | .releasePending o => [byteOf o.code]
      | _ => []
    | .status => encodeStatus s.selfRecord
    | .reply =>
      match s.link.replySlot with
      | some r => r.code :: r.result :: r.data
      | none => []
  buildFrame kind.code s.load.station data

/-- The slots at the start bit of a frame (R58, R59). -/
def LinkUnit.slotsAtStart (l : LinkUnit) : TxKind → LinkUnit
  | .claim | .release => { l with claimSlot := l.claimSlot.start }
  | .status => { l with statusMarked := false }
  | .reply => l

/-- FRAME_START (R53): line IDLE, nothing in transmission, and a candidate. -/
def execFrameStart (s : State) : Result :=
  .next
    (if s.startDue then
      match s.link.candidate with
      | some kind =>
        s.setLink { s.link.slotsAtStart kind with
          line := .inFrame, sending := some ⟨kind, s.frameFor kind⟩ }
      | none => s
    else s)

/-- The three slots emptied (R52). -/
def LinkUnit.emptied (l : LinkUnit) : LinkUnit :=
  { l with claimSlot := .empty, statusMarked := false, replySlot := none, disablePending := false }

/-- The slots once the outcome of a frame is reached: emptied when the transmitter was disabled meanwhile (R52). -/
def LinkUnit.atOutcome (l : LinkUnit) : LinkUnit := if l.disablePending then l.emptied else l

/-- The slots when a transmission has failed (R54, R55, R58, R59): the frame stays pending, for STATUS the mark is restored. -/
def LinkUnit.slotsAtFailure (l : LinkUnit) : TxKind → LinkUnit
  | .claim | .release => { l with claimSlot := l.claimSlot.failed }
  | .status => { l with statusMarked := true }
  | .reply => l

/-- The end of a failed transmission: nothing is sending, the slots keep the frame, and in LAPSED the own claim ends (R119). -/
def endFailed (kind : TxKind) (s : State) : State :=
  let ended := s.setLink ({ s.link with sending := none }.slotsAtFailure kind).atOutcome
  match kind with
  | .claim => ownClaimFailed ended
  | .release | .status | .reply => ended

/-- ARBITRATION_LOSS (R54): the station goes on as a receiver; count and grant stand as they are. -/
def execArbitrationLoss (s : State) : Result :=
  .next
    (match s.link.sending with
    | some t => endFailed t.kind s
    | none => s)

/-- The line and the receiver after a bit error (R55, R63): in the start bit no frame is on the line; in the priority field the
buffer is taken at its end; later it is taken at once; in the end field the driven bit sets the count back (R44). -/
def LinkUnit.afterBitError (l : LinkUnit) : BitErrorPlace → LinkUnit
  | .startBit => l.settle 0
  | .priorityField => l
  | .afterPriority => l.takeBuffer
  | .inEndField => l.takeBuffer.settle 0

/-- The error count and the link-fault state after a bit error (R55, R56). -/
def LinkUnit.countError (l : LinkUnit) : LinkUnit :=
  let c := { l with bitErrors := min Config.bitErrorLimit (l.bitErrors + 1) }
  if l.linkFault then { c with granted := false, holdOff := .running Config.holdOffMs }
  else if Config.bitErrorLimit ≤ l.bitErrors + 1 then
    { c with linkFault := true, granted := false, holdOff := .running Config.holdOffMs }
  else c

/-- BIT_ERROR (R55); the count's reaching 8 enters LINK_FAULT (R56), which is a condition and a cause of ALONE (R79). -/
def execBitError (place : BitErrorPlace) (s : State) : Result :=
  .next
    (match s.link.sending with
    | some t =>
      let ended := endFailed t.kind s
      let counted := ended.setLink (ended.link.afterBitError place).countError
      if counted.link.linkFault && !s.link.linkFault then
        enterAlone (reportPresent codeLinkFault counted)
      else counted
    | none => s)

/-- HOLD_OFF_EXPIRY (R56): one attempt is granted. -/
def execHoldOffExpiry (s : State) : Result :=
  .next
    (if s.link.holdOff.isRunning then
      s.setLink { s.link with holdOff := .expired, granted := true }
    else s)

/-! ### Completion (R57) -/

/-- The slots at a completion (R57, R58); a mark made during a STATUS transmission stands (R59). -/
def LinkUnit.slotsAtCompletion (l : LinkUnit) : TxKind → LinkUnit
  | .claim | .release => { l with claimSlot := l.claimSlot.complete }
  | .status => l
  | .reply => { l with replySlot := none }

/-- The link at a completion: count cleared, NORMAL again (R56), nothing sending, the end field's seven released bits counted
(R44). At the exit from LINK_FAULT the hold-off timer is stopped: R56 does not say how it stands then (DESIGN CHOICE, log 32). -/
def LinkUnit.completed (l : LinkUnit) (kind : TxKind) : LinkUnit :=
  (({ l with
      sending := none, bitErrors := 0, linkFault := false, granted := false
      holdOff := if l.linkFault then .stopped else l.holdOff }.slotsAtCompletion kind).settle 7).atOutcome

/-- The exit from LINK_FAULT at the Monitor and the Consist View (R56, R80). -/
def linkFaultEnds (s : State) : State :=
  let removed := reportGone codeLinkFault s
  if removed.view.everSeen then removed else leaveAlone removed

/-- A completed STATUS (R57, R60, R61); a disabled station's heartbeat stays stopped (R52). -/
def statusCompleted (s : State) : State :=
  s.setLink { s.link with
    spacing := .running Config.spacingMs
    heartbeat := if s.link.txEnabled then .running Config.heartbeatMs else s.link.heartbeat }

/-- What a completion hands on, by its kind (R57); nothing once the transmitter is disabled (R52). -/
def handCompletion (kind : TxKind) (s : State) : State :=
  match kind with
  | .claim => if s.link.txEnabled then ownClaimCompleted s else s
  | .release => if s.link.txEnabled then examineOffer s else s
  | .status => statusCompleted s
  | .reply => serveMailbox s

/-- TRANSMISSION_COMPLETION (R57). -/
def execTransmissionCompletion (s : State) : Result :=
  .next
    (match s.link.sending with
    | some t =>
      let completed := s.setLink (s.link.completed t.kind)
      handCompletion t.kind (if s.link.linkFault then linkFaultEnds completed else completed)
    | none => s)

/-! ### Arrival (R48, R63, R64) -/

/-- A good CLAIM from another station withdraws the own pending CLAIM (R58); the Claim Unit, which has it offered, goes back to
WANTED with the foreign-claim mark (R118). -/
def foreignClaim (s : State) : State :=
  match s.link.claimSlot with
  | .claimPending _ =>
    let emptied := s.setLink { s.link with claimSlot := s.link.claimSlot.foreignClaim }
    if s.claim.phase = .offered then
      emptied.setClaim { s.claim with phase := .wanted, foreignMark := true }
    else emptied
  | _ => s

/-- The frame withdraws the own pending CLAIM (R58): a CLAIM from a source other than the own number. -/
def State.isForeignClaim (s : State) (f : RawFrame) : Bool :=
  f.kind.toNat == TxKind.claim.code && f.source.toNat != s.load.station

/-- FRAME_ARRIVAL (R48): judged in its buffer and, when good, taken up by a frame processor that is free (R65, R86; log 4), or discarded
unjudged when it was received into nothing (R63). -/
def execFrameArrival (f : RawFrame) (s : State) : Result :=
  .next
    (match s.link.filling with
    | some b =>
      let l := { s.link.settle (trailingReleased f.endField) with
        filling := none, buffers := s.link.buffers.set b f }
      if goodFrame f then
        let told := if s.isForeignClaim f then foreignClaim (s.setLink l) else s.setLink l
        takeUpFrame (told.setLink { told.link with postList := told.link.postList ++ [b] })
      else s.setLink { l with freeList := l.freeList ++ [b] }
    | none =>
      if s.link.intoNothing then
        s.setLink { s.link.settle (trailingReleased f.endField) with intoNothing := false }
      else s)

/-! ### Heartbeat and spacing (R60, R61) -/

/-- HEARTBEAT_EXPIRY (R60). -/
def execHeartbeatExpiry (s : State) : Result :=
  .next
    (if s.link.heartbeat.isRunning then
      markStatus (s.setLink { s.link with heartbeat := .expired, firstHeartbeat := true })
    else s)

/-- SPACING_TIMER_EXPIRY (R61). -/
def execSpacingTimerExpiry (s : State) : Result :=
  .next
    (if s.link.spacing.isRunning then s.setLink { s.link with spacing := .expired } else s)

end Sys2Proof.Machine
end

