-- ==== Sys2Proof/Machine/View.lean ====
section
/-! DEFINITION. Machine/View.lean: the frame processor (R65, R66) and the application of one frame (R70 to R73, R76). -/

namespace Sys2Proof.Machine

/-- The transmitter is disabled at the joining of ADDRESS_CONFLICT (R52, R124, R184): heartbeat stopped, mailbox EMPTY, the slots
emptied now, or at the outcome of the frame in transmission. -/
def disableTransmitter (s : State) : State :=
  let off := { s.link with txEnabled := false, heartbeat := .stopped }
  let l := if s.link.sending.isSome then { off with disablePending := true } else off.emptied
  claimWithoutTransmitter ((s.setLink l).setMailbox none)

/-- A frame with the station's own number (R76): the transmitter is disabled at the joining, before the Sequencer acts on it, so a
RELEASE that the Sequencer then asks for is refused (R124, R122). -/
def addressConflict (s : State) : State := reportPresent codeAddressConflict (disableTransmitter s)

/-- The change test of R71, part 2, apart from the presence: what sets the changed mark. -/
def recordChanged (old : Option StatusRecord) (new : StatusRecord) : Bool :=
  match old with
  | none => true
  | some r =>
    r.state.rankClass != new.state.rankClass || r.eligible != new.eligible
      || r.capacity != new.capacity || r.bucket != new.bucket

/-- A STATUS from the peer at a place of the table, after the common step (R71); `heard` says that the presence changed. -/
def applyStatus (i : Fin 7) (heard : Bool) (r : StatusRecord) (s : State) : State :=
  let e := s.view.entry i
  let changed := heard || recordChanged e.record r
  let recorded := s.setView
    (s.view.setEntry i { e with record := some r, changed := e.changed || changed })
  let listened := if recorded.link.linkFault then recorded else leaveAlone recorded
  passTriggerIf changed
    (recomputeTally (applyStatusClaim (i.val + 1) r.claimHeld r.claimRemaining listened))

/-- The end of the application of a CLAIM or a RELEASE: the tally, then a trigger (R72; log 15). -/
def claimNews (s : State) : State := passTrigger (recomputeTally s)

/-- A frame from the peer at a place of the table (R70 to R73); a REPLY is news only by a changed presence (R73). -/
def applyPeer (i : Fin 7) (f : RawFrame) (s : State) : State :=
  let heard := (s.view.entry i).presence != .present
  let common := heardPeer i s
  match f.kind.toNat with
  | 0 =>
    match decodeClaim f.data with
    | some c => claimNews (applyClaim (i.val + 1) c common)
    | none => common
  | 1 => claimNews (peerReleases (i.val + 1) common)
  | 2 =>
    match decodeStatus f.data with
    | some r => applyStatus i heard r common
    | none => common
  | _ => if heard then passTrigger (recomputeTally common) else common

/-- A frame applied by its source (R70). -/
def applyFrame (f : RawFrame) (s : State) : State :=
  if f.source.toNat = 0 then requestFrame f.data s
  else if f.source.toNat = s.load.station then addressConflict s
  else
    match peerIndex f.source.toNat with
    | some i => applyPeer i f s
    | none => s

/-- The head of the post list becomes the buffer being applied; a frame of the drain is counted off (R64, R66). -/
def LinkUnit.takePost (l : LinkUnit) (b : Fin 8) (rest : List (Fin 8)) : LinkUnit :=
  { l with applying := some b, postList := rest, drainLeft := l.drainLeft - 1, headTaken := false }

/-- FRAME_APPLICATION (R65, R70): the processor takes the head of the post list and applies it. -/
def execFrameApplication (s : State) : Result :=
  .next
    (if s.frameDue then
      match s.link.postList with
      | b :: rest => applyFrame s.link.buffers[b] (s.setLink (s.link.takePost b rest))
      | [] => s
    else s)

/-- APPLICATION_END (R64, R65, R66): the buffer returns to the free list, and with the drain's last frame the drain ends; then
the next frame is taken up unless a pass is due (R86; log 4). -/
def execApplicationEnd (s : State) : Result :=
  .next
    (match s.link.applying with
    | some b =>
      takeUpFrame (s.setLink { s.link with
        applying := none
        freeList := s.link.freeList ++ [b]
        draining := s.link.draining && s.link.drainLeft != 0 })
    | none => s)

end Sys2Proof.Machine
end

