-- ==== Sys2Proof/Machine/Allocation.lean ====
section
/-! DEFINITION. Machine/Allocation.lean: the Duty Allocator (chapter 5): the arithmetic of a pass, and the events of a pass and its
timers. -/

namespace Sys2Proof.Machine

/-! ### Who takes part, and in which order (R92 to R94) -/

/-- A station of the set E with its ranking key and what the pass reads of it (R93, R94). -/
structure Ranked where
  cls : Nat
  bucket : Nat
  number : Nat
  capacity : Nat
  online : Bool
  batteryNeed : Bool
deriving DecidableEq, Repr

/-- A record that takes part: eligible flag set and an engine state with a class (R93). -/
def StatusRecord.ranked (number : Nat) (r : StatusRecord) : Option Ranked :=
  if r.eligible then
    r.state.rankClass.map fun c =>
      { cls := c, bucket := r.bucket, number := number, capacity := r.capacity
        online := r.state == .online, batteryNeed := r.batteryNeed }
  else none

/-- `a` ranks before `b`: class, then hours bucket, then station number (R94). -/
def Ranked.before (a b : Ranked) : Bool :=
  decide (a.cls < b.cls)
    || (a.cls == b.cls && (decide (a.bucket < b.bucket)
      || (a.bucket == b.bucket && decide (a.number ≤ b.number))))

/-- The record that a pass reads at a place of the table: the snapshot's at the own number, a PRESENT peer's otherwise (R89,
R93). -/
def State.passRecord (s : State) (i : Fin 7) : Option StatusRecord :=
  if s.isSelf i then s.alloc.snapshot.self
  else if (s.view.entry i).presence = .present then (s.view.entry i).record
  else none

/-- The set E in rank order (R93, R94). -/
def State.ranking (s : State) : List Ranked :=
  sortBy Ranked.before
    ((List.finRange 7).filterMap fun i => (s.passRecord i).bind (StatusRecord.ranked (i.val + 1)))

/-! ### How many must run (R95 to R98) -/

/-- Division rounded up. -/
def ceilDiv (a b : Nat) : Nat := (a + (b - 1)) / b

/-- The demand power D (R95). -/
def demandPower (p : Params) (mode : Mode) (notch : Nat) : Nat :=
  match mode, notch with
  | .layover, _ => 0
  | .service, 0 => 0
  | .service, n + 1 => p.npt.getD n 0

/-- The margined demand D_m (R95). -/
def marginedDemand (p : Params) (demand : Nat) : Nat := demand + ceilDiv (demand * p.margin) 100

/-- The fewest stations from the front whose capacities reach the need; all of them when they do not (R96). -/
def fewest (need : Nat) : List Ranked → Nat
  | [] => 0
  | r :: rest =>
    if need = 0 then 0 else if need ≤ r.capacity then 1 else 1 + fewest (need - r.capacity) rest

/-- The needed count n (R96, R97). -/
def neededCount (p : Params) (mode : Mode) (demand : Nat) (ranking : List Ranked) : Nat :=
  match mode with
  | .service => max (fewest (marginedDemand p demand) ranking) (min p.minRunEngines ranking.length)
  | .layover => if ranking.any (·.batteryNeed) then min 1 ranking.length else 0

/-- The capacity that the ranking has assigned and that takes load (R99). -/
def loadSum (rankedIn : List Ranked) : Nat := ((rankedIn.filter (·.online)).map (·.capacity)).sum

/-! ### Share and target notch (R100 to R104) -/

/-- The share of a station that is ranked in and ONLINE (R100, R101). -/
def shareOf (demand capacity sLoad sFrozen : Nat) (alone : Bool) : Nat :=
  if demand = 0 then 0
  else if alone then
    if sFrozen ≤ demand then capacity else min capacity (ceilDiv (demand * capacity) sFrozen)
  else if sLoad ≤ demand then capacity
  else ceilDiv (demand * capacity) sLoad

/-- The uncapped target (R103): the lowest notch that carries the share, 8 when none does. -/
def uncappedTarget (steps : List Nat) (share : Nat) : Nat :=
  if share = 0 then 0
  else
    match steps.findIdx? fun p => decide (share ≤ p) with
    | some i => i + 1
    | none => 8

/-- The cap N_cap (R104): the highest notch with a power step within the capacity, 0 when there is none. -/
def notchCap (steps : List Nat) (capacity : Nat) : Nat :=
  match steps.reverse.findIdx? fun p => decide (p ≤ capacity) with
  | some i => steps.length - i
  | none => 0

/-- The results of the pass in flight (R92 to R104); a station without a self entry publishes the reset values (R89). -/
def State.passResults (s : State) : PassResults :=
  let snap := s.alloc.snapshot
  match snap.self with
  | none => ⟨false, 0, 0, 0, false, false, snap.mode⟩
  | some me =>
    let ranking := s.ranking
    let demand := demandPower s.params snap.mode snap.demand
    let chosen := ranking.take (neededCount s.params snap.mode demand ranking)
    let rankedIn := chosen.any fun r => r.number == s.load.station
    let sLoad := loadSum chosen
    let carries := rankedIn && me.state == .online
    let share := if carries then shareOf demand me.capacity sLoad snap.sFrozen snap.alone else 0
    let target :=
      if carries && !snap.unload then
        min (uncappedTarget s.alloc.powerSteps share) (notchCap s.alloc.powerSteps me.capacity)
      else 0
    { rankedIn := rankedIn
      sLoad := sLoad
      share := share
      target := target
      coldRunConfirmed := snap.mode == .layover && me.coldRun
        && ranking.any fun r => r.number == s.load.station
      selfEligible := me.eligible
      mode := snap.mode }

/-! ### The pass as an operation (R89, R91) -/

/-- The self entry built afresh (R75). -/
def PeerEntry.asSelf (e : PeerEntry) (r : StatusRecord) : PeerEntry :=
  { e with presence := .present, record := some r }

/-- The view at a pass start: the self entry built, every changed mark clear (R75, R74). -/
def State.viewAtPassStart (s : State) : ConsistView :=
  let built :=
    match peerIndex s.load.station with
    | some i => s.view.setEntry i ((s.view.entry i).asSelf s.selfRecord)
    | none => s.view
  { built with peers := built.peers.map fun e => { e with changed := false } }

/-- The snapshot of a pass (R89). -/
def State.takeSnapshotOfPass (s : State) : PassSnapshot where
  demand := s.cab.demand
  mode := s.cab.mode
  self := (peerIndex s.load.station).map fun _ => s.selfRecord
  derate := s.mon.derate
  unload := hasClass s.mon.conditions .unload
  alone := s.view.alone
  sFrozen := s.view.sFrozen

/-- PASS_START (R89): a due pass begins. -/
def execPassStart (s : State) : Result :=
  .next
    (if s.passDue then
      (s.setAlloc { s.alloc with
        phase := .inPass, reEvaluate := false, evaluation := .running Config.evaluationMs
        snapshot := s.takeSnapshotOfPass }).setView s.viewAtPassStart
    else s)

/-- The stop-delay timer at a pass end (R105). -/
def State.stopDelayAtPassEnd (s : State) (r : PassResults) : Timer :=
  if r.rankedIn then .stopped
  else if r.mode = .service ∧ s.cab.mode = .service ∧ s.seq.state.rankClass = some 0 then
    if s.alloc.stopDelay = .stopped then .running (s.params.stopDelay * 1000) else s.alloc.stopDelay
  else .stopped

/-- The results published, with the stop-delay timer and the mark (R91, steps 1 to 3). -/
def publish (r : PassResults) (s : State) : State :=
  markStatusIf (r.target != s.alloc.results.target)
    (s.setAlloc { s.alloc with results := r, stopDelay := s.stopDelayAtPassEnd r })

/-- The drain of the post list begins (R66); a drain of no frames is over at once. -/
def beginDrain (s : State) : State :=
  s.setLink { s.link with
    draining := !s.link.postList.isEmpty, drainLeft := s.link.postList.length }

/-- READY after a pass (R91, step 5). -/
def enterReady (s : State) : State := s.setAlloc { s.alloc with phase := .ready }

/-- PASS_END (R91). -/
def execPassEnd (s : State) : Result :=
  .next
    (if s.alloc.phase = .inPass then
      beginDrain (takeHeldExpiries (enterReady
        (stepperExamine (sequencerPassEnd (publish s.passResults s)))))
    else s)

/-! ### The Allocator's timers -/

/-- LISTEN_TIMER_EXPIRY (R87). -/
def execListenTimerExpiry (s : State) : Result :=
  .next
    (if s.alloc.listen.isRunning then
      s.setAlloc { s.alloc with listen := .expired, phase := .ready, reEvaluate := true }
    else s)

/-- EVALUATION_TIMER_EXPIRY (R88). -/
def execEvaluationTimerExpiry (s : State) : Result :=
  .next
    (if s.alloc.evaluation.isRunning then
      passTrigger (s.setAlloc { s.alloc with evaluation := .expired })
    else s)

/-- STOP_DELAY_EXPIRY (R105). -/
def execStopDelayExpiry (s : State) : Result :=
  .next
    (if s.alloc.stopDelay.isRunning then
      examineAllocationStop (s.setAlloc { s.alloc with stopDelay := .expired })
    else s)

end Sys2Proof.Machine
end

