-- ==== Sys2Proof/Machine/Feedback.lean ====
section
/-! DEFINITION. Machine/Feedback.lean: the events of the contactor feedback and its proving (R168, R169). -/

namespace Sys2Proof.Machine

/-- The proving with its feedback sampled (R168). -/
def Proving.sample (p : Proving) (closed : Bool) : Proving :=
  { p with feedback := p.feedback.sample Config.feedbackStableMs closed }

/-- FEEDBACK_SAMPLE (R168): the three inputs at one sample. -/
def execFeedbackSample (crank fuel prelube : Bool) (s : State) : Result :=
  .next (s.setOut { s.out with
    crankProving := s.out.crankProving.sample crank
    fuelProving := s.out.fuelProving.sample fuel
    prelubeProving := s.out.prelubeProving.sample prelube })

/-- A qualified feedback at the proof state of its output (R169, third and fourth rows). -/
def feedbackQualified (out : ProvedOutput) (s : State) : State :=
  let p := s.out.proving out
  let command := s.command out
  if p.feedback.matchesCommand command then
    let agreed := s.setProving out { p with proof := .agree, timer := .stopped }
    if p.proof = .disagree then reportGone (mismatchCode out command) agreed else agreed
  else if p.proof = .agree then
    s.setProving out { p with proof := .proving, timer := .running Config.provingMs }
  else s

/-- FEEDBACK_QUALIFICATION (R168): the stability timer of one feedback input expires. -/
def execFeedbackQualification (out : ProvedOutput) (s : State) : Result :=
  let p := s.out.proving out
  .next
    (if p.feedback.stability.isRunning then
      let settled := s.setProving out { p with feedback := p.feedback.settled }
      if p.feedback.qualifies then feedbackQualified out settled else settled
    else s)

/-- PROVING_TIMER_EXPIRY (R169): DISAGREE, and the mismatch for the command as it stands is reported present (R170). -/
def execProvingTimerExpiry (out : ProvedOutput) (s : State) : Result :=
  let p := s.out.proving out
  .next
    (if p.timer.isRunning then
      reportPresent (mismatchCode out (s.command out))
        (s.setProving out { p with proof := .disagree, timer := .expired })
    else s)

end Sys2Proof.Machine
end

