-- ==== Sys2Proof/Machine/Monitor.lean ====
section
/-! DEFINITION. Machine/Monitor.lean: the Engine Monitor's measurements and protective inputs (chapter 8) and the running time
(R181). -/

namespace Sys2Proof.Machine

/-! ### Analog channels (R144, R145) -/

/-- The analog channel of a name. -/
def Monitor.channel (m : Monitor) : Channel → AnalogChannel
  | .coolant => m.coolant
  | .oil => m.oil
  | .battery => m.battery

/-- The monitor with a channel replaced. -/
def Monitor.setChannel (m : Monitor) (c : Channel) (a : AnalogChannel) : Monitor :=
  match c with
  | .coolant => { m with coolant := a }
  | .oil => { m with oil := a }
  | .battery => { m with battery := a }

/-- The sensor-fault code of a channel (R145). -/
def sensorCode : Channel → Nat
  | .coolant => codeCoolantSensor
  | .oil => codeOilSensor
  | .battery => codeBatterySensor

/-- A raw reading lies inside the band (R144). -/
def inBand (raw : Nat) : Bool := decide (Config.bandLow ≤ raw) && decide (raw ≤ Config.bandHigh)

/-- The sample of a raw reading inside the band, in the channel's unit (R144). -/
def convert (c : Channel) (raw : Nat) : Int :=
  match c with
  | .coolant => -40 + ((raw - 64) * 190 / 896 : Nat)
  | .oil | .battery => ((raw - 64) * 1000 / 896 : Nat)

/-- A sample joins a window; the oldest leaves one that held four (R145). -/
def joinWindow (window : List Int) (sample : Int) : List Int :=
  (if window.length < 4 then window else window.drop (window.length - 3)) ++ [sample]

/-- The channel value over a window (R145). -/
def windowMean (window : List Int) : Int := window.sum / window.length

/-- A channel after one sample (R145, the four rows of its table). -/
def AnalogChannel.sample (c : Channel) (raw : Nat) (a : AnalogChannel) : AnalogChannel :=
  if inBand raw then
    let window := joinWindow a.window (convert c raw)
    if a.fault && decide (window.length < 4) then { a with raw := raw, window := window }
    else { raw := raw, window := window, value := windowMean window, fault := false }
  else { a with raw := raw, window := [], fault := true }

/-- The two overtemperature tests (R153). -/
def overtempTests (s : State) : State :=
  if s.loaded then
    let t := reportCause codeOvertemp (decide ((s.params.tTrip : Int) ≤ s.mon.coolant.value)) s
    reportCause codeOvertempSevere (decide ((s.params.tTrip : Int) + 5 ≤ s.mon.coolant.value)) t
  else s

/-- The low-oil test (R150). -/
def lowOilTest (s : State) : State :=
  if s.mon.runPhase = .run then
    reportCause codeLowOil (decide (s.mon.oil.value < s.params.oilMinRun)) s
  else s

/-- An oil value at the Sequencer (R8). -/
def prelubePressure (s : State) : State :=
  if s.seq.state = .prelube && decide ((s.params.prelubePressure : Int) ≤ s.mon.oil.value) then
    enterClaimWait s
  else s

/-- A coolant value at the Cab Line Unit (R41); a held value clears nothing. -/
def coldRunRecovery (s : State) : State :=
  if !s.mon.coolant.fault && decide ((s.params.tWarmStop : Int) ≤ s.mon.coolant.value) then
    clearColdRun s
  else s

/-- A battery value at the Cab Line Unit (R41); a held value clears nothing. -/
def batteryRecovery (s : State) : State :=
  if !s.mon.battery.fault && decide ((s.params.vOk : Int) ≤ s.mon.battery.value) then
    clearBatteryNeed s
  else s

/-- The channel-value event at its users (R145), in the order in which R145 lists them (log 14). -/
def channelValue (c : Channel) (s : State) : State :=
  match c with
  | .coolant => overtempTests (computeDerate (coldRunRecovery (examineWarm s)))
  | .oil => lowOilTest (prelubePressure s)
  | .battery => batteryRecovery s

/-- ANALOG_SAMPLE (R145): a changed sensor-fault flag is reported first. -/
def execAnalogSample (c : Channel) (raw : Nat) (s : State) : Result :=
  let before := s.mon.channel c
  let after := before.sample c raw
  let sampled := s.setMon (s.mon.setChannel c after)
  .next
    (channelValue c
      (if after.fault = before.fault then sampled else reportCause (sensorCode c) after.fault sampled))

/-! ### Speed (R146, R148, R149, R181) -/

/-- The speed from the pulses of one window (R146). -/
def speedOf (teeth pulses : Nat) : Nat := min Config.maxRpm (pulses * 600 / teeth)

/-- The overspeed test (R148). -/
def overspeedTest (s : State) : State :=
  if s.loaded then reportCause codeOverspeed (decide (s.params.overspeed ≤ s.mon.speed)) s else s

/-- The stall timer at a speed value (R149). -/
def stallTest (s : State) : State :=
  if s.params.idleSpeed / 2 ≤ s.mon.speed then s.setMon { s.mon with stall := .stopped }
  else if s.seq.state.stalls && s.mon.stall == .stopped then
    s.setMon { s.mon with stall := .running Config.stallMs }
  else s

/-- The cause of FAIL_TO_STOP at a speed value, while the code is in the set (R26, R164). -/
def failToStopCause (s : State) : State :=
  if hasCode s.mon.conditions codeFailToStop then
    reportCause codeFailToStop (decide (Config.stoppedRpm ≤ s.mon.speed)) s
  else s

/-- The minutes count reaches 60 (R181). -/
def hourPasses (s : State) : State :=
  let hour := s.setRet { s.ret with minutes := 0 }
  if s.load.hours < Config.maxHours then
    let counted :=
      (hour.setRet { hour.ret with shadow := s.load.hours + 1 }).setLoad
        { s.load with hours := s.load.hours + 1 }
    if s.load.markerFault then counted else portMark .hoursWrite counted
  else hour

/-- One running window counted (R181). -/
def countWindow (s : State) : State :=
  if s.load.runningWindows + 1 < Config.windowsPerMinute then
    s.setLoad { s.load with runningWindows := s.load.runningWindows + 1 }
  else
    let minute := s.setLoad { s.load with runningWindows := 0 }
    if s.ret.minutes + 1 < 60 then
      minute.setRet { s.ret with minutes := s.ret.minutes + 1 }
    else hourPasses minute

/-- The running time at a speed value (R181). -/
def runningTime (s : State) : State :=
  if s.loaded && decide (s.params.fireSpeed ≤ s.mon.speed) then countWindow s else s

/-- SPEED_VALUE (R146): the tests, the running time, then the Sequencer (the order: log 14). -/
def execSpeedValue (pulses : Nat) (s : State) : Result :=
  .next
    (sequencerSpeed (runningTime (failToStopCause (stallTest (overspeedTest
      (s.setMon { s.mon with speed := speedOf s.params.teeth pulses, speedYet := true }))))))

/-- STALL_TIMER_EXPIRY (R149): STALL is raised, and its cause is gone at once (R164). -/
def execStallTimerExpiry (s : State) : Result :=
  .next
    (if s.mon.stall.isRunning then
      reportGone codeStall (reportPresent codeStall (s.setMon { s.mon with stall := .expired }))
    else s)

/-! ### Protective inputs (R154, R155, R156) -/

/-- Input Dk is masked (R155). -/
def State.masked (s : State) (k : Fin 12) : Bool :=
  !s.mon.routing[k].enable || (s.mon.routing[k].startMask && s.mon.runPhase != .run)

/-- The station with the state of input Dk replaced. -/
def State.setInput (s : State) (k : Fin 12) (i : ProtectiveInput) : State :=
  s.setMon { s.mon with inputs := s.mon.inputs.set k i }

/-- The input state that a contact level gives under a polarity (R154). -/
def RoutingEntry.activeAt (e : RoutingEntry) (closed : Bool) : Bool := closed != e.activeOpen

/-- The sampled level of input Dk compared (R155): a changed input state is a qualification, reported as the cause of code k
(R156). -/
def compareInput (k : Fin 12) (s : State) : State :=
  let i := s.mon.inputs[k]
  let active := s.mon.routing[k].activeAt i.closed
  if active = i.active then s
  else reportCause (k.val + 1) active (s.setInput k { i with active := active })

/-- The stability timer of an entry as started (R155); with qualify time 0 every sample is compared at once and none runs (log 20). -/
def RoutingEntry.stabilityTimer (e : RoutingEntry) : Timer :=
  if e.qualifyTime = 0 then .stopped else .running (e.qualifyTime * 100)

/-- One input at a sample (R155). -/
def sampleInput (k : Fin 12) (closed : Bool) (s : State) : State :=
  let i := s.mon.inputs[k]
  let changed := !i.sampledYet || i.closed != closed
  let stability :=
    if changed && !s.masked k then s.mon.routing[k].stabilityTimer else i.stability
  let sampled := s.setInput k
    { i with closed := closed, sampledYet := true, stability := stability }
  if !s.masked k && s.mon.routing[k].qualifyTime == 0 then compareInput k sampled else sampled

/-- PROTECTIVE_INPUT_SAMPLE (R155): the twelve inputs, by rising number (log 17). -/
def execProtectiveInputSample (levels : Vector Bool 12) (s : State) : Result :=
  .next ((List.finRange 12).foldl (fun t k => sampleInput k levels[k] t) s)

/-- PROTECTIVE_INPUT_QUALIFICATION (R155): the stability timer of input Dk expires. -/
def execProtectiveInputQualification (k : Nat) (s : State) : Result :=
  .next
    (match inputIndex k with
    | none => s
    | some j =>
      let i := s.mon.inputs[j]
      if i.stability.isRunning then compareInput j (s.setInput j { i with stability := .expired })
      else s)

/-- Input Dk becomes unmasked: its stability timer starts (R155). -/
def unmaskInput (k : Fin 12) (s : State) : State :=
  s.setInput k { s.mon.inputs[k] with stability := s.mon.routing[k].stabilityTimer }

/-- The enabled inputs with a start mask, or without one, become unmasked. -/
def unmaskInputs (startMask : Bool) (s : State) : State :=
  (List.finRange 12).foldl
    (fun t k =>
      if t.mon.routing[k].enable && t.mon.routing[k].startMask == startMask then unmaskInput k t
      else t) s

/-- GRACE_TIMER_EXPIRY (R147): the run phase becomes RUN, low oil is tested, and in RUN the start-masked inputs are unmasked. -/
def execGraceTimerExpiry (s : State) : Result :=
  .next
    (if s.mon.grace.isRunning then
      let tested := lowOilTest (s.setMon { s.mon with runPhase := .run, grace := .expired })
      if tested.mon.runPhase = .run then unmaskInputs true tested else tested
    else s)

end Sys2Proof.Machine
end

