-- ==== Sys2Proof/Machine/Loader.lean ====
section
/-! DEFINITION. Machine/Loader.lean: the configuration image (R189), its clamping and correction (R177, R178), and the completion of
the load (R176, R179, R180). -/

namespace Sys2Proof.Machine

/-! ### Fields of the image (R189) -/

/-- The byte at an address of the image, as a number. -/
def imgByte (image : List Byte) (a : Nat) : Nat := (image.getD a 0).toNat

/-- The two bytes at an address, high byte first (11.3). -/
def imgWord (image : List Byte) (a : Nat) : Nat := imgByte image a * 256 + imgByte image (a + 1)

/-- The first twelve bits of the three bytes at an address. -/
def imgFirst12 (image : List Byte) (a : Nat) : Nat :=
  imgByte image a * 16 + imgByte image (a + 1) / 16

/-- The last twelve bits of the three bytes at an address. -/
def imgLast12 (image : List Byte) (a : Nat) : Nat :=
  imgByte image (a + 1) % 16 * 256 + imgByte image (a + 2)

/-- The parameters as they are stored (R189). -/
def storedParams (m : List Byte) : Params where
  ratedPower := imgWord m 1
  npt := (List.range 8).map fun k => imgWord m (3 + 2 * k)
  entSpeed := (List.range 4).flatMap fun k => [imgFirst12 m (19 + 3 * k), imgLast12 m (19 + 3 * k)]
  entFrac := (List.range 8).map fun k => imgByte m (31 + k) + 1
  idleSpeed := imgWord m 39
  fireSpeed := imgWord m 41
  overspeed := imgWord m 43
  teeth := imgByte m 45
  margin := imgByte m 46
  minRunEngines := imgByte m 47
  prelubeTime := imgByte m 48
  prelubeRequired := (imgByte m 53).testBit 7
  prelubePressure := imgWord m 49
  crankTime := imgByte m 51
  restTime := imgByte m 52
  maxAttempts := imgByte m 53 % 128
  recoveryTime := imgByte m 54
  runupTime := imgByte m 55
  oilGrace := imgByte m 56
  oilMinRun := imgWord m 57
  warmMin := imgWord m 59
  warmMax := imgWord m 61
  tWarm := imgByte m 63
  dwellUp := imgByte m 64
  dwellDown := imgByte m 65
  stopDelay := imgWord m 66
  minRun := imgWord m 68
  cooldown := imgWord m 70
  stopLimit := imgByte m 72
  tDerate := imgByte m 73
  tTrip := imgByte m 74
  layoverCheck := imgByte m 75
  tCold := imgByte m 76
  tWarmStop := imgByte m 77
  vLow := imgFirst12 m 78
  vOk := imgLast12 m 78
  heatInc := imgWord m 81
  heatDecay := imgByte m 83
  heatOk := imgWord m 84
  heatTrip := imgWord m 86

/-- The stored hours field (R189). -/
def storedHours (m : List Byte) : Nat := imgWord m 124 * 65536 + imgWord m 126

/-! ### Clamping (R177) -/

/-- A value forced into a range (R177). -/
def clampTo (lo hi x : Nat) : Nat := min hi (max lo x)

/-- Every parameter clamped to its range (R177). -/
def Params.clamped (p : Params) : Params where
  ratedPower := clampTo 100 2000 p.ratedPower
  npt := p.npt.map (clampTo 0 20000)
  entSpeed := p.entSpeed.map (clampTo 0 2100)
  entFrac := p.entFrac.map (clampTo 1 256)
  idleSpeed := clampTo 400 1000 p.idleSpeed
  fireSpeed := clampTo 100 400 p.fireSpeed
  overspeed := clampTo 1000 2600 p.overspeed
  teeth := clampTo 30 240 p.teeth
  margin := clampTo 0 50 p.margin
  minRunEngines := clampTo 0 7 p.minRunEngines
  prelubeTime := clampTo 0 120 p.prelubeTime
  prelubeRequired := p.prelubeRequired
  prelubePressure := clampTo 10 300 p.prelubePressure
  crankTime := clampTo 20 250 p.crankTime
  restTime := clampTo 5 120 p.restTime
  maxAttempts := clampTo 1 5 p.maxAttempts
  recoveryTime := clampTo 2 60 p.recoveryTime
  runupTime := clampTo 5 30 p.runupTime
  oilGrace := clampTo 5 30 p.oilGrace
  oilMinRun := clampTo 50 400 p.oilMinRun
  warmMin := clampTo 0 600 p.warmMin
  warmMax := clampTo 0 1800 p.warmMax
  tWarm := clampTo 20 80 p.tWarm
  dwellUp := clampTo 5 200 p.dwellUp
  dwellDown := clampTo 2 100 p.dwellDown
  stopDelay := clampTo 10 900 p.stopDelay
  minRun := clampTo 30 1800 p.minRun
  cooldown := clampTo 0 600 p.cooldown
  stopLimit := clampTo 10 60 p.stopLimit
  tDerate := clampTo 70 115 p.tDerate
  tTrip := clampTo 75 125 p.tTrip
  layoverCheck := clampTo 5 60 p.layoverCheck
  tCold := clampTo 0 40 p.tCold
  tWarmStop := clampTo 10 80 p.tWarmStop
  vLow := clampTo 0 999 p.vLow
  vOk := clampTo 1 1000 p.vOk
  heatInc := clampTo 1 4095 p.heatInc
  heatDecay := clampTo 1 255 p.heatDecay
  heatOk := clampTo 0 65534 p.heatOk
  heatTrip := clampTo 1 65535 p.heatTrip

/-! ### Correction (R178) -/

/-- Each value raised to its predecessor, the first to `lo` (R178, steps 1 to 3). -/
def raisedFrom (lo : Nat) : List Nat → List Nat
  | [] => []
  | x :: xs => max lo x :: raisedFrom (max lo x) xs

/-- The nine corrections (R178). -/
def Params.corrected (p : Params) : Params :=
  let speeds := raisedFrom p.idleSpeed p.entSpeed
  { p with
    npt := raisedFrom 0 p.npt
    entSpeed := speeds
    entFrac := raisedFrom 0 p.entFrac
    overspeed := max p.overspeed (speeds.getD 7 0 + 50)
    tTrip := max p.tTrip (p.tDerate + 5)
    warmMax := max p.warmMax p.warmMin
    tWarmStop := max p.tWarmStop (p.tCold + 10)
    vOk := max p.vOk (p.vLow + 1)
    heatTrip := max p.heatTrip (p.heatOk + 1) }

/-- The parameters that an image gives (R189, R177, R178). -/
def paramsOf (image : List Byte) : Params := (storedParams image).clamped.corrected

/-- The hours that an image gives (R177). -/
def hoursOf (image : List Byte) : Nat := clampTo 0 Config.maxHours (storedHours image)

/-- The class with a code; a code above 5 is lowered to 5 (R177). -/
def CondClass.ofCode : Nat → CondClass
  | 0 => .alarm
  | 1 => .derate
  | 2 => .unload
  | 3 => .inhibitStart
  | 4 => .stop
  | _ => .shutdown

/-- The routing entry of an input from the image, clamped (R189, R177). -/
def routingEntryOf (image : List Byte) (k : Fin 12) : RoutingEntry :=
  let flags := imgByte image (88 + 3 * k.val)
  { enable := flags.testBit 7
    activeOpen := flags.testBit 6
    qualifyTime := clampTo 0 100 (imgByte image (89 + 3 * k.val))
    cls := CondClass.ofCode (flags % 8)
    latch := flags.testBit 5
    startMask := flags.testBit 4
    derate := clampTo 64 256 (imgByte image (90 + 3 * k.val) + 64) }

/-- The routing table that an image gives (R154, R189). -/
def routingOf (image : List Byte) : Vector RoutingEntry 12 := Vector.ofFn (routingEntryOf image)

/-- The power steps P_1..P_8 (R102). -/
def powerStepsOf (p : Params) : List Nat := p.entFrac.map fun e => p.ratedPower * e / 256

/-! ### Completion of the load (R179) -/

/-- The marker is good (R176). -/
def markerGood (image : List Byte) : Bool := imgByte image 0 == Config.formatMarker

/-- Step 1: parameters, routing table and power steps. -/
def loadParameters (s : State) : State :=
  let image := s.load.image
  let p := paramsOf image
  (((s.setParams p).setLoad
      { s.load with progress := .done, markerFault := !markerGood image }).setMon
    { s.mon with routing := if markerGood image then routingOf image else s.mon.routing }).setAlloc
    { s.alloc with powerSteps := powerStepsOf p }

/-- The hours count at the load (R180). -/
def State.loadedHours (s : State) : Nat :=
  match s.load.resetKind, s.load.markerFault with
  | .powerOn, false => hoursOf s.load.image
  | .core, false => max (hoursOf s.load.image) s.ret.shadow
  | .powerOn, true => 0
  | .core, true => s.ret.shadow

/-- HOURS_WRITE is marked at the completion: the memory is behind (R180). -/
def State.hoursBehind (s : State) : Bool :=
  s.load.resetKind == .core && !s.load.markerFault && decide (hoursOf s.load.image < s.loadedHours)

/-- Step 2: hours count, hours shadow, start record (R180, R182). -/
def loadHours (s : State) : State :=
  let set :=
    (s.setLoad { s.load with
      hours := s.loadedHours, startRecord := ⟨s.load.resetKind, s.ret.wasRunning⟩ }).setRet
      { s.ret with shadow := s.loadedHours }
  if s.hoursBehind then portMark .hoursWrite set else set

/-- Step 3: CONFIG_FAULT, for a marker fault or station number 0 (R176). -/
def judgeConfig (s : State) : State :=
  if s.load.markerFault || s.load.station == 0 then reportPresent codeConfigFault s else s

/-- Step 5: the transmitter and the heartbeat, for a station number 1..7 (R52, R60); an ADDRESS_CONFLICT that stands already
keeps the transmitter disabled (R52; log 19). -/
def enableTransmitter (s : State) : State :=
  if s.load.station != 0 && !hasCode s.mon.conditions codeAddressConflict then
    s.setLink { s.link with
      txEnabled := true, heartbeat := .running (Config.heartbeatOffsetMs * s.load.station) }
  else s

/-- Steps 6 to 9: recovery, listen interval, layover check, governor status timer. -/
def startLoadTimers (s : State) : State :=
  (((s.setClaim (s.claim.recovering s.params)).setAlloc
      { s.alloc with phase := .listening, listen := .running Config.listenMs }).setCab
    (if s.cab.mode = .layover then
      { s.cab with layoverCheck := .running s.params.layoverPeriod }
    else s.cab)).setPort { s.port with statusTimer := .running Config.governorStatusMs }

/-- CONFIG_LOAD_COMPLETION (R179): once the sixteenth block is received and judged (R175). -/
def execConfigLoadCompletion (s : State) : Result :=
  .next
    (if s.load.progress = .reading 16 then
      examineInit (startLoadTimers (enableTransmitter (unmaskInputs false (computeDerate
        (judgeConfig (loadHours (loadParameters s)))))))
    else s)

/-! ### Resets (R183) -/

/-- POWER_ON_RESET (R183): all core state at its reset values, the Retained Store cleared (R182), the straps read (R174). -/
def execPowerOnReset (p : Straps) (s : State) : Result :=
  .next (State.afterReset .powerOn (stationNumber p) (linkRateCode p) .cleared s.pending)

/-- CORE_RESET (R183): all core state at its reset values, the Retained Store kept (R182), the straps read (R174). -/
def execCoreReset (p : Straps) (s : State) : Result :=
  .next (State.afterReset .core (stationNumber p) (linkRateCode p) s.ret s.pending)

end Sys2Proof.Machine
end

