-- ==== Sys2Proof/Machine/PortEvents.lean ====
section
/-! DEFINITION. Machine/PortEvents.lean: the completions of the serial port's transactions and the port's timers (R138 to R143). -/

namespace Sys2Proof.Machine

/-- Eight bytes from what was sampled on the data-in line: a byte that no device drove reads 0xFF (R135). -/
def eightBytes (bytes : List Byte) : List Byte := (bytes ++ List.replicate 8 0xFF#8).take 8

/-- The image with a block of eight bytes placed by its transaction number (R175). -/
def placeBlock (number : Nat) (block image : List Byte) : List Byte :=
  image.take (8 * (number - 1)) ++ block ++ image.drop (8 * number)

/-- The load progress with one more transaction received (R175). -/
def LoadProgress.received : LoadProgress → LoadProgress
  | .reading n => .reading (n + 1)
  | .done => .done

/-- CONFIG_READ_COMPLETION (R138, R175): the block goes to the Loader, and the arbiter goes on (R137). -/
def execConfigReadCompletion (bytes : List Byte) (s : State) : Result :=
  .next
    (match s.port.inFlight with
    | some (.configRead n) =>
      let block := eightBytes bytes
      portRelease
        ((s.setPort { s.port with buffer := block }).setLoad
          { s.load with
            image := placeBlock n block s.load.image, progress := s.load.progress.received })
    | _ => s)

/-- SETPOINT_WRITE_COMPLETION (R139): the refresh timer is restarted while a setpoint stands. -/
def execSetpointWriteCompletion (s : State) : Result :=
  .next
    (if s.port.inFlight = some .setpointWrite then
      portRelease
        (if s.stepper.setpoint.isSome then
          s.setPort { s.port with refresh := .running Config.refreshMs }
        else s)
    else s)

/-- HOURS_WRITE_COMPLETION (R140). -/
def execHoursWriteCompletion (s : State) : Result :=
  .next (if s.port.inFlight = some .hoursWrite then portRelease s else s)

/-- A STATUS_READ is good (R142). -/
def GovernorReport.good (r : GovernorReport) : Bool :=
  r.signature.toNat == Config.governorSignature && r.state == 0

/-- The governor fault state and counts after a judged read (R143). -/
def Port.judge (p : Port) (good : Bool) : Port :=
  match p.governorFault, good with
  | false, true => { p with badReads := 0 }
  | false, false =>
    if p.badReads < 2 then { p with badReads := p.badReads + 1 }
    else { p with governorFault := true, badReads := 0, goodReads := 0 }
  | true, false => { p with goodReads := 0 }
  | true, true =>
    if p.goodReads < 2 then { p with goodReads := p.goodReads + 1 }
    else { p with governorFault := false, badReads := 0, goodReads := 0 }

/-- STATUS_READ_COMPLETION (R142, R143): the report is kept and judged; a changed fault state is reported to the Monitor. -/
def execStatusReadCompletion (signature state faultCode fuelDemand : Byte) (s : State) : Result :=
  .next
    (if s.port.inFlight = some .statusRead then
      let report : GovernorReport := ⟨signature, state, faultCode, fuelDemand⟩
      let kept := { s.port with
        report := report
        buffer := fillBuffer s.port.buffer [signature, state, faultCode, fuelDemand] }
      let judged := kept.judge report.good
      let freed := portRelease (s.setPort judged)
      if judged.governorFault = s.port.governorFault then freed
      else reportCause codeGovernorFault judged.governorFault freed
    else s)

/-- SETPOINT_REFRESH_EXPIRY (R139). -/
def execSetpointRefreshExpiry (s : State) : Result :=
  .next
    (if s.port.refresh.isRunning then
      portMark .setpointWrite (s.setPort { s.port with refresh := .expired })
    else s)

/-- GOVERNOR_STATUS_TIMER_EXPIRY (R141). -/
def execGovernorStatusTimerExpiry (s : State) : Result :=
  .next
    (if s.port.statusTimer.isRunning then
      portMark .statusRead (s.setPort { s.port with statusTimer := .running Config.governorStatusMs })
    else s)

end Sys2Proof.Machine
end

