-- ==== Sys2Proof/Machine/Sequence.lean ====
section
/-! DEFINITION. Machine/Sequence.lean: the expiries that reach the Engine Sequencer (chapter 1) and the two dwell events of the
Notch Stepper (R129, R130). A limit of the state timer acts in its own state alone (R1). -/

namespace Sys2Proof.Machine

/-- The state timer has reached a limit (R1). -/
def stateTimerReaches (limit : Nat) (s : State) : State :=
  s.setSeq { s.seq with stateTimer := max s.seq.stateTimer limit }

/-- PRELUBE_TIME in ms (R8). -/
def Params.prelubeLimit (p : Params) : Nat := p.prelubeTime * 1000

/-- CRANK_TIME in ms (R12, R177). -/
def Params.crankLimit (p : Params) : Nat := p.crankTime * 100

/-- RUNUP_TIME in ms (R15). -/
def Params.runupLimit (p : Params) : Nat := p.runupTime * 1000

/-- WARM_MIN in ms (R16). -/
def Params.warmMinLimit (p : Params) : Nat := p.warmMin * 1000

/-- WARM_MAX in ms (R16). -/
def Params.warmMaxLimit (p : Params) : Nat := p.warmMax * 1000

/-- COOLDOWN in ms (R20). -/
def Params.cooldownLimit (p : Params) : Nat := p.cooldown * 1000

/-- STOP_LIMIT in ms (R23). -/
def Params.stopLimitMs (p : Params) : Nat := p.stopLimit * 1000

/-- PRELUBE_TIME_EXPIRY (R8). -/
def execPrelubeTimeExpiry (s : State) : Result :=
  .next
    (if s.seq.state = .prelube then
      let reached := stateTimerReaches s.params.prelubeLimit s
      if s.params.prelubeRequired then
        raiseMomentary codePrelubeFail (fun t => enterFaulted (takeSnapshot t)) reached
      else enterClaimWait reached
    else s)

/-- CRANK_TIME_EXPIRY (R13). -/
def execCrankTimeExpiry (s : State) : Result :=
  .next
    (if s.seq.state = .cranking then failedAttempt (stateTimerReaches s.params.crankLimit s) else s)

/-- FIRE_CONFIRM_EXPIRY (R12): the fire. -/
def execFireConfirmExpiry (s : State) : Result :=
  .next
    (if s.seq.state = .cranking && s.seq.fireConfirm.isRunning then
      fire (s.setSeq { s.seq with fireConfirm := .expired })
    else s)

/-- RUNUP_TIME_EXPIRY (R15). -/
def execRunupTimeExpiry (s : State) : Result :=
  .next
    (if s.seq.state = .runup then
      raiseMomentary codeRunupFail enterStopping (stateTimerReaches s.params.runupLimit s)
    else s)

/-- WARM_MIN_EXPIRY (R16). -/
def execWarmMinExpiry (s : State) : Result :=
  .next
    (if s.seq.state = .warmup then examineWarm (stateTimerReaches s.params.warmMinLimit s) else s)

/-- WARM_MAX_EXPIRY (R16). -/
def execWarmMaxExpiry (s : State) : Result :=
  .next
    (if s.seq.state = .warmup then examineWarm (stateTimerReaches s.params.warmMaxLimit s) else s)

/-- COOLDOWN_EXPIRY (R20). -/
def execCooldownExpiry (s : State) : Result :=
  .next
    (if s.seq.state = .cooldown then enterStopping (stateTimerReaches s.params.cooldownLimit s) else s)

/-- STOP_LIMIT_EXPIRY (R23): FAIL_TO_STOP is raised and the station enters FAULTED. -/
def execStopLimitExpiry (s : State) : Result :=
  .next
    (if s.seq.state = .stopping then
      raiseBySequencer codeFailToStop enterFaulted (stateTimerReaches s.params.stopLimitMs s)
    else s)

/-- REST_TIMER_EXPIRY (R3, R117). -/
def execRestTimerExpiry (s : State) : Result :=
  .next
    (if s.seq.rest.isRunning then examineOffer (s.setSeq { s.seq with rest := .expired }) else s)

/-- MIN_RUN_EXPIRY (R3, R17). -/
def execMinRunExpiry (s : State) : Result :=
  .next
    (if s.seq.minRun.isRunning then
      examineAllocationStop (s.setSeq { s.seq with minRun := .expired })
    else s)

/-- DWELL_UP in ms (R129). -/
def Params.dwellUpMs (p : Params) : Nat := p.dwellUp * 100

/-- DWELL_DOWN in ms (R129). -/
def Params.dwellDownMs (p : Params) : Nat := p.dwellDown * 100

/-- UP_DWELL_EVENT (R129, R130): once per restart, when the count has reached DWELL_UP. One that finds the timer restarted below it
does not step (R131). -/
def execUpDwellEvent (s : State) : Result :=
  .next
    (let d := s.stepper.dwell
    if d.running && !d.upGiven && decide (s.params.dwellUpMs ≤ d.count) then
      stepperExamine (s.setStepper { s.stepper with dwell := { d with upGiven := true } })
    else s)

/-- DOWN_DWELL_EVENT (R129, R130): once per restart, when the count has reached DWELL_DOWN. One that finds the timer restarted below
it does not step (R131). -/
def execDownDwellEvent (s : State) : Result :=
  .next
    (let d := s.stepper.dwell
    if d.running && !d.downGiven && decide (s.params.dwellDownMs ≤ d.count) then
      stepperExamine (s.setStepper { s.stepper with dwell := { d with downGiven := true } })
    else s)

end Sys2Proof.Machine
end

