-- ==== Sys2Proof/Machine/Dispatch.lean ====
section
/-! DEFINITION. Machine/Dispatch.lean: one arm for each command, in the order of spec/opcode_table.json. -/

namespace Sys2Proof.Machine

/-- The effect of a command on everything but the queue. -/
def exec (i : Instr) (s : State) : Host.Outcome State Fault Refusal :=
  match i with
  | .powerOnReset straps => Sys2Proof.Machine.execPowerOnReset straps s
  | .coreReset straps => Sys2Proof.Machine.execCoreReset straps s
  | .cabLineQualification line => Sys2Proof.Machine.execCabLineQualification line s
  | .throttleCodeQualification => Sys2Proof.Machine.execThrottleCodeQualification s
  | .invalidCodeTimerExpiry => Sys2Proof.Machine.execInvalidCodeTimerExpiry s
  | .layoverCheckExpiry => Sys2Proof.Machine.execLayoverCheckExpiry s
  | .frameStart => Sys2Proof.Machine.execFrameStart s
  | .arbitrationLoss => Sys2Proof.Machine.execArbitrationLoss s
  | .bitError place => Sys2Proof.Machine.execBitError place s
  | .holdOffExpiry => Sys2Proof.Machine.execHoldOffExpiry s
  | .transmissionCompletion => Sys2Proof.Machine.execTransmissionCompletion s
  | .frameArrival frame => Sys2Proof.Machine.execFrameArrival frame s
  | .heartbeatExpiry => Sys2Proof.Machine.execHeartbeatExpiry s
  | .spacingTimerExpiry => Sys2Proof.Machine.execSpacingTimerExpiry s
  | .frameApplication => Sys2Proof.Machine.execFrameApplication s
  | .applicationEnd => Sys2Proof.Machine.execApplicationEnd s
  | .ageExpiry station => Sys2Proof.Machine.execAgeExpiry station s
  | .listenTimerExpiry => Sys2Proof.Machine.execListenTimerExpiry s
  | .evaluationTimerExpiry => Sys2Proof.Machine.execEvaluationTimerExpiry s
  | .passStart => Sys2Proof.Machine.execPassStart s
  | .passEnd => Sys2Proof.Machine.execPassEnd s
  | .stopDelayExpiry => Sys2Proof.Machine.execStopDelayExpiry s
  | .prelubeTimeExpiry => Sys2Proof.Machine.execPrelubeTimeExpiry s
  | .crankTimeExpiry => Sys2Proof.Machine.execCrankTimeExpiry s
  | .fireConfirmExpiry => Sys2Proof.Machine.execFireConfirmExpiry s
  | .runupTimeExpiry => Sys2Proof.Machine.execRunupTimeExpiry s
  | .warmMinExpiry => Sys2Proof.Machine.execWarmMinExpiry s
  | .warmMaxExpiry => Sys2Proof.Machine.execWarmMaxExpiry s
  | .cooldownExpiry => Sys2Proof.Machine.execCooldownExpiry s
  | .stopLimitExpiry => Sys2Proof.Machine.execStopLimitExpiry s
  | .restTimerExpiry => Sys2Proof.Machine.execRestTimerExpiry s
  | .minRunExpiry => Sys2Proof.Machine.execMinRunExpiry s
  | .leaseExpiry => Sys2Proof.Machine.execLeaseExpiry s
  | .recoveryTimerExpiry => Sys2Proof.Machine.execRecoveryTimerExpiry s
  | .settleExpiry => Sys2Proof.Machine.execSettleExpiry s
  | .heatUpdate => Sys2Proof.Machine.execHeatUpdate s
  | .upDwellEvent => Sys2Proof.Machine.execUpDwellEvent s
  | .downDwellEvent => Sys2Proof.Machine.execDownDwellEvent s
  | .configReadCompletion bytes => Sys2Proof.Machine.execConfigReadCompletion bytes s
  | .setpointWriteCompletion => Sys2Proof.Machine.execSetpointWriteCompletion s
  | .hoursWriteCompletion => Sys2Proof.Machine.execHoursWriteCompletion s
  | .statusReadCompletion signature state faultCode fuelDemand => Sys2Proof.Machine.execStatusReadCompletion signature state faultCode fuelDemand s
  | .setpointRefreshExpiry => Sys2Proof.Machine.execSetpointRefreshExpiry s
  | .governorStatusTimerExpiry => Sys2Proof.Machine.execGovernorStatusTimerExpiry s
  | .analogSample channel raw => Sys2Proof.Machine.execAnalogSample channel raw s
  | .speedValue pulses => Sys2Proof.Machine.execSpeedValue pulses s
  | .graceTimerExpiry => Sys2Proof.Machine.execGraceTimerExpiry s
  | .stallTimerExpiry => Sys2Proof.Machine.execStallTimerExpiry s
  | .protectiveInputQualification k => Sys2Proof.Machine.execProtectiveInputQualification k s
  | .feedbackQualification output => Sys2Proof.Machine.execFeedbackQualification output s
  | .provingTimerExpiry output => Sys2Proof.Machine.execProvingTimerExpiry output s
  | .configLoadCompletion => Sys2Proof.Machine.execConfigLoadCompletion s
  | .readSelf argument => Sys2Proof.Machine.execReadSelf argument s
  | .readPeer argument => Sys2Proof.Machine.execReadPeer argument s
  | .readConditions argument => Sys2Proof.Machine.execReadConditions argument s
  | .readFaultRecord argument => Sys2Proof.Machine.execReadFaultRecord argument s
  | .readHours argument => Sys2Proof.Machine.execReadHours argument s
  | .readInputs argument => Sys2Proof.Machine.execReadInputs argument s
  | .badCode code argument => Sys2Proof.Machine.execBadCode code argument s
  | .cabLineSample levels => Sys2Proof.Machine.execCabLineSample levels s
  | .protectiveInputSample levels => Sys2Proof.Machine.execProtectiveInputSample levels s
  | .feedbackSample crank fuel prelube => Sys2Proof.Machine.execFeedbackSample crank fuel prelube s
  | .lineIdle released => Sys2Proof.Machine.execLineIdle s released
  | .startBitRead => Sys2Proof.Machine.execStartBitRead s
  | .endOfPriorityField => Sys2Proof.Machine.execEndOfPriorityField s

end Sys2Proof.Machine
end

