-- ==== Sys2Proof/Machine/Tick.lean ====
section
/-! DEFINITION. Machine/Tick.lean: what the part does of itself while no command waits (log 1, log 4): a pass, a frame's application
or a frame's start that is due; else the expiry of a timer that has run its time; else 10 ms pass (00_scope, Timers). -/

namespace Sys2Proof.Machine

/-! ### Which expiry is due -/

/-- The timer has run its time. -/
def Timer.isDue : Timer → Bool
  | .running left => left == 0
  | _ => false

/-- The commands that stand behind their conditions. -/
def dueOf (l : List (Bool × Instr)) : Option Instr := (l.find? (·.1)).map (·.2)

/-- The limits of the state timer that are reached (R1, R8, R13, R15, R16, R20, R23). -/
def State.limitsDue (s : State) : List (Bool × Instr) :=
  let reached (st : EngineState) (limit : Nat) : Bool :=
    s.seq.state == st && decide (limit ≤ s.seq.stateTimer)
  let warm := reached .warmup s.params.warmMinLimit
  [(reached .prelube s.params.prelubeLimit, .prelubeTimeExpiry),
   (reached .cranking s.params.crankLimit, .crankTimeExpiry),
   (reached .runup s.params.runupLimit, .runupTimeExpiry),
   (warm && decide ((s.params.tWarm : Int) ≤ s.mon.coolant.value), .warmMinExpiry),
   (warm && decide (s.params.warmMaxLimit ≤ s.seq.stateTimer), .warmMaxExpiry),
   (reached .cooldown s.params.cooldownLimit, .cooldownExpiry),
   (reached .stopping s.params.stopLimitMs, .stopLimitExpiry)]

/-- The timers that have run their time, with their expiries: every timer of the state, in one fixed order (log 1). -/
def State.timersDue (s : State) : List (Bool × Instr) :=
  [(s.cab.run.stability.isDue, .cabLineQualification .run),
   (s.cab.estop.stability.isDue, .cabLineQualification .estop),
   (s.cab.faultReset.stability.isDue, .cabLineQualification .faultReset),
   (s.cab.isolate.stability.isDue, .cabLineQualification .isolate),
   (s.cab.codeStability.isDue, .throttleCodeQualification),
   (s.cab.invalidCode.isDue, .invalidCodeTimerExpiry),
   (s.cab.layoverCheck.isDue, .layoverCheckExpiry),
   (s.link.holdOff.isDue, .holdOffExpiry),
   (s.link.heartbeat.isDue, .heartbeatExpiry),
   (s.link.spacing.isDue, .spacingTimerExpiry),
   (s.alloc.listen.isDue, .listenTimerExpiry),
   (s.alloc.evaluation.isDue, .evaluationTimerExpiry),
   (s.alloc.stopDelay.isDue, .stopDelayExpiry),
   (s.seq.fireConfirm.isDue, .fireConfirmExpiry),
   (s.seq.rest.isDue, .restTimerExpiry),
   (s.seq.minRun.isDue, .minRunExpiry),
   (s.claim.lease.isDue, .leaseExpiry),
   (s.claim.recovery.isDue, .recoveryTimerExpiry),
   (s.claim.settle.isDue, .settleExpiry),
   (s.claim.heatTimer.isDue, .heatUpdate),
   (s.stepper.dwell.running && !s.stepper.dwell.upGiven
      && decide (s.params.dwellUpMs ≤ s.stepper.dwell.count), .upDwellEvent),
   (s.stepper.dwell.running && !s.stepper.dwell.downGiven
      && decide (s.params.dwellDownMs ≤ s.stepper.dwell.count), .downDwellEvent),
   (s.port.refresh.isDue, .setpointRefreshExpiry),
   (s.port.statusTimer.isDue, .governorStatusTimerExpiry),
   (s.mon.grace.isDue, .graceTimerExpiry),
   (s.mon.stall.isDue, .stallTimerExpiry),
   (s.out.crankProving.feedback.stability.isDue, .feedbackQualification .crank),
   (s.out.fuelProving.feedback.stability.isDue, .feedbackQualification .fuel),
   (s.out.prelubeProving.feedback.stability.isDue, .feedbackQualification .prelube),
   (s.out.crankProving.timer.isDue, .provingTimerExpiry .crank),
   (s.out.fuelProving.timer.isDue, .provingTimerExpiry .fuel),
   (s.out.prelubeProving.timer.isDue, .provingTimerExpiry .prelube)]
  ++ (List.finRange 7).map (fun i => ((s.view.entry i).age.isDue, .ageExpiry (i.val + 1)))
  ++ (List.finRange 12).map
      (fun k => (s.mon.inputs[k].stability.isDue, .protectiveInputQualification (k.val + 1)))

/-- The expiry that is taken next, if any. -/
def State.dueExpiry (s : State) : Option Instr := dueOf (s.limitsDue ++ s.timersDue)

/-! ### 10 ms pass -/

/-- One sampled input after 10 ms. -/
def QualifiedInput.tick (q : QualifiedInput) : QualifiedInput :=
  { q with stability := q.stability.advance Config.tickMs }

/-- The Cab Line Unit after 10 ms. -/
def CabUnit.tick (c : CabUnit) : CabUnit :=
  { c with
    run := c.run.tick, estop := c.estop.tick, faultReset := c.faultReset.tick
    isolate := c.isolate.tick, codeStability := c.codeStability.advance Config.tickMs
    invalidCode := c.invalidCode.advance Config.tickMs
    layoverCheck := c.layoverCheck.advance Config.tickMs }

/-- The Link Controller after 10 ms. -/
def LinkUnit.tick (l : LinkUnit) : LinkUnit :=
  { l with
    holdOff := l.holdOff.advance Config.tickMs, heartbeat := l.heartbeat.advance Config.tickMs
    spacing := l.spacing.advance Config.tickMs }

/-- The Consist View after 10 ms. -/
def ConsistView.tick (v : ConsistView) : ConsistView :=
  { v with peers := v.peers.map fun e => { e with age := e.age.advance Config.tickMs } }

/-- The Duty Allocator after 10 ms. -/
def Allocator.tick (a : Allocator) : Allocator :=
  { a with
    listen := a.listen.advance Config.tickMs, evaluation := a.evaluation.advance Config.tickMs
    stopDelay := a.stopDelay.advance Config.tickMs }

/-- The Engine Sequencer after 10 ms. -/
def Sequencer.tick (q : Sequencer) : Sequencer :=
  { q with
    stateTimer := q.stateTimer + Config.tickMs, rest := q.rest.advance Config.tickMs
    minRun := q.minRun.advance Config.tickMs, fireConfirm := q.fireConfirm.advance Config.tickMs }

/-- The Claim Unit after 10 ms. -/
def ClaimUnit.tick (c : ClaimUnit) : ClaimUnit :=
  { c with
    lease := c.lease.advance Config.tickMs, recovery := c.recovery.advance Config.tickMs
    settle := c.settle.advance Config.tickMs, clock := c.clock.advance Config.tickMs
    heatTimer := c.heatTimer.advance Config.tickMs }

/-- The dwell timer after 10 ms (R129): held at 20 s. -/
def Dwell.tick (d : Dwell) : Dwell :=
  if d.running then { d with count := min Config.dwellHoldMs (d.count + Config.tickMs) } else d

/-- The Port Controller after 10 ms. -/
def Port.tick (p : Port) : Port :=
  { p with
    refresh := p.refresh.advance Config.tickMs, statusTimer := p.statusTimer.advance Config.tickMs }

/-- A member after 10 ms (R157): its active time, held at 65535 s. -/
def Member.tick (m : Member) : Member :=
  { m with activeMs := min Config.activeHoldMs (m.activeMs + Config.tickMs) }

/-- The Engine Monitor after 10 ms. -/
def Monitor.tick (m : Monitor) : Monitor :=
  { m with
    grace := m.grace.advance Config.tickMs, stall := m.stall.advance Config.tickMs
    inputs := m.inputs.map fun i => { i with stability := i.stability.advance Config.tickMs }
    conditions := m.conditions.map Member.tick }

/-- The proving of one output after 10 ms. -/
def Proving.tick (p : Proving) : Proving :=
  { p with feedback := p.feedback.tick, timer := p.timer.advance Config.tickMs }

/-- The Output Stage after 10 ms. -/
def OutputStage.tick (o : OutputStage) : OutputStage :=
  { o with
    crankProving := o.crankProving.tick, fuelProving := o.fuelProving.tick
    prelubeProving := o.prelubeProving.tick }

/-- 10 ms pass: every running timer and every count of elapsed time goes on. -/
def tick (s : State) : State :=
  { s with
    seq := s.seq.tick, cab := s.cab.tick, link := s.link.tick, view := s.view.tick
    alloc := s.alloc.tick, claim := s.claim.tick
    stepper := { s.stepper with dwell := s.stepper.dwell.tick }
    port := s.port.tick, mon := s.mon.tick, out := s.out.tick }

/-- The step with no command waiting (DESIGN CHOICE, log 1, log 4). -/
def idle (s : State) : Result :=
  if s.passDue then exec .passStart s
  else if s.frameDue then exec .frameApplication s
  else if s.startDue then exec .frameStart s
  else
    match s.dueExpiry with
    | some c => exec c s
    | none => .next (tick s)

end Sys2Proof.Machine
end

