-- ==== Sys2Proof/Safety.lean ====
section
/-! DEFINITION. Safety.lean: the laws that the manual states of every moment of the part, as conditions on a state. A run is safe
while they hold. -/

namespace Sys2Proof.Machine

/-! ### The receive pool (R64) -/

/-- Every place that holds a buffer number: free list, post list, being filled, being applied. -/
def LinkUnit.places (l : LinkUnit) : List (Fin 8) :=
  l.freeList ++ l.postList ++ l.filling.toList ++ l.applying.toList

/-- R64: each of the eight buffers is in exactly one of the four places. -/
def PoolLaw (s : State) : Prop := s.link.places.Perm (List.finRange 8)

/-- R44, R63: in SETTLING the count has not reached nine, and not passed the seven bits of the end field while a frame has not ended; an
IDLE line has counted nine and carries no frame; a station that sends a frame takes no buffer for it. -/
def LineLaw (s : State) : Prop :=
  (s.link.line = .settling → s.link.releasedBits < Config.idleBits)
    ∧ (s.link.line = .settling → s.link.frameOnLine = true → s.link.releasedBits ≤ Config.endBits)
    ∧ (s.link.line = .idle → s.link.releasedBits = Config.idleBits ∧ s.link.frameOnLine = false)
    ∧ (s.link.sending ≠ none → s.link.notReceiving = true)

/-- R65, R86: a frame that the frame processor has taken up heads the post list, while no other frame is being applied and no pass is
in flight. -/
def TakenLaw (s : State) : Prop :=
  s.link.headTaken = true →
    s.link.applying = none ∧ s.link.postList ≠ [] ∧ s.alloc.phase ≠ .inPass

/-! ### The outputs (R2) -/

/-- The commands as they stand: CRANK, FUEL (the latch), PRELUBE, LOAD_PERMIT. -/
def State.standingCommands (s : State) : CommandSet :=
  ⟨s.out.crank, s.ret.fuelLatch, s.out.prelube, s.out.loadPermit⟩

/-- R2: the four commands are those that the table gives for the engine state; in INIT FUEL stands as the latch. -/
def OutputLaw (s : State) : Prop :=
  s.standingCommands = s.seq.state.commands s.ret.fuelLatch

/-! ### The crank claim (R2, R110, R116) -/

/-- The engine state in which the own claim has a phase (R116): SETTLING in CLAIM_SETTLE, CRANKING in CRANKING, WANTED and OFFERED
in CLAIM_WAIT, IDLE in none of the three; LAPSED is in CLAIM_WAIT or outside all three by the need-stands flag. -/
def ClaimUnit.agrees (c : ClaimUnit) (st : EngineState) : Bool :=
  match c.phase with
  | .settling => st == .claimSettle
  | .cranking => st == .cranking
  | .wanted | .offered => st == .claimWait
  | .idle => st != .claimWait && st != .claimSettle && st != .cranking
  | .lapsed =>
    if c.needStands then st == .claimWait
    else st != .claimWait && st != .claimSettle && st != .cranking

/-- Self is recorded as holder exactly in SETTLING and CRANKING (R116). -/
def ClaimUnit.holdsAsItShould (c : ClaimUnit) : Bool :=
  (c.holder == .self) == (c.phase == .settling || c.phase == .cranking)

/-- The holder is a peer. -/
def Holder.isPeer : Holder → Bool
  | .peer _ => true
  | _ => false

/-- R110, R116: the lease timer runs exactly while the holder is a peer, the settle timer exactly in SETTLING; in OFFERED the holder
is none (R119). -/
def ClaimUnit.timersAgree (c : ClaimUnit) : Bool :=
  c.lease.isRunning == c.holder.isPeer && c.settle.isRunning == (c.phase == .settling)
    && (c.phase != .offered || c.holder == .none)

/-- R116: an own CLAIM that waits in the slot or is sending belongs to OFFERED, one that is sending with its withdrawal held to
LAPSED, and no RELEASE is held behind it; slots that are to be emptied at the outcome (R52) are no longer the own claim's. -/
def State.slotAgrees (s : State) : Bool :=
  s.link.disablePending ||
    match s.link.claimSlot with
    | .claimPending _ => s.claim.phase == .offered
    | .claimSending _ none false => s.claim.phase == .offered
    | .claimSending _ none true => s.claim.phase == .lapsed
    | .claimSending _ (some _) _ => false
    | .empty | .releasePending _ | .releaseSending _ => true

/-- The claim slot holds a RELEASE that is sending. -/
def ClaimSlot.releaseIsSending : ClaimSlot → Bool
  | .releaseSending _ => true
  | _ => false

/-- The kind of the frame in transmission. -/
def LinkUnit.sendingKind (l : LinkUnit) : Option TxKind := l.sending.map (·.kind)

/-- R58: the slot is in CLAIM_SENDING exactly while a CLAIM is in transmission, in RELEASE_SENDING exactly while a RELEASE is. -/
def LinkUnit.slotSends (l : LinkUnit) : Bool :=
  l.claimSlot.claimIsSending == (l.sendingKind == some .claim)
    && l.claimSlot.releaseIsSending == (l.sendingKind == some .release)

/-- The claim record, its timers, the slot and the line go together (R58, R110, R116). -/
def ClaimTidy (s : State) : Prop :=
  s.claim.timersAgree = true ∧ s.slotAgrees = true ∧ s.link.slotSends = true

/-- R2, R110, R116: the own claim and the engine state agree, self is the holder in SETTLING and CRANKING alone, and record, timers,
slot and line go together. -/
def ClaimLaw (s : State) : Prop :=
  s.claim.agrees s.seq.state = true ∧ s.claim.holdsAsItShould = true ∧ ClaimTidy s

/-! ### The engine notch (R127) -/

/-- R127: the notch is 0..8, and it is non-zero in ONLINE and UNLOADING alone; with it, the published target is 0..8 (R85) and there
are eight power steps (R102). -/
def NotchLaw (s : State) : Prop :=
  s.stepper.notch ≤ 8
    ∧ (s.seq.state.steps = false → s.stepper.notch = 0)
    ∧ s.alloc.results.target ≤ 8
    ∧ s.alloc.powerSteps.length = 8

/-! ### Derate factor and capacity (R151, R152) -/

/-- R151, R152: F is 64..256 and C never exceeds R; before the load C is 0. The routing entries' derate values are 64..256 (R154). -/
def DerateLaw (s : State) : Prop :=
  (64 ≤ s.mon.derate ∧ s.mon.derate ≤ 256)
    ∧ s.mon.capacity ≤ s.params.ratedPower
    ∧ (s.loaded = false → s.mon.capacity = 0)
    ∧ ∀ k : Fin 12, 64 ≤ s.mon.routing[k].derate

/-! ### The condition set (R157) -/

/-- The codes that a member can have (R157). -/
def isConditionCode (code : Nat) : Bool :=
  (decide (1 ≤ code) && decide (code ≤ 12)) || (decide (16 ≤ code) && decide (code ≤ 36))

/-- R157: every member's code is one of 1..12 and 16..36, and no code appears twice; the model lists them by rising code. -/
def ConditionLaw (s : State) : Prop :=
  (s.mon.conditions.map (·.code)).Pairwise (· < ·)
    ∧ ∀ m ∈ s.mon.conditions, isConditionCode m.code = true

/-! ### The transmitter (R52) -/

/-- R52, R184: while the transmitter is disabled the mailbox is EMPTY and the heartbeat is stopped, and once no frame waits for its
outcome the three slots are empty and nothing is in transmission. -/
def DisabledLaw (s : State) : Prop :=
  s.link.txEnabled = false →
    s.mailbox = none ∧ s.link.heartbeat = .stopped
      ∧ (s.link.disablePending = false →
          s.link.claimSlot = .empty ∧ s.link.statusMarked = false ∧ s.link.replySlot = none
            ∧ s.link.sending = none)

/-- R52: until the load completes the transmitter is disabled and nothing is in transmission; slots wait to be emptied only while it
is disabled. -/
def EnabledLaw (s : State) : Prop :=
  (s.loaded = false →
      s.link.txEnabled = false ∧ s.link.sending = none ∧ s.link.disablePending = false)
    ∧ (s.link.disablePending = true → s.link.txEnabled = false)

/-- R179: until its first heartbeat after the load a station has no STATUS in transmission, and with its transmitter enabled that
heartbeat is running. -/
def FirstStatusLaw (s : State) : Prop :=
  s.link.firstHeartbeat = false →
    s.link.sendingKind ≠ some .status ∧ (s.link.txEnabled = true → s.link.heartbeat.isRunning = true)

/-- R52 on the transmitter. -/
def TransmitterLaw (s : State) : Prop := DisabledLaw s ∧ EnabledLaw s

/-! ### Derate factor and capacity as computed (R151, R152) -/

/-- R151, R152: from the load on, F is what the coolant value and the condition set give at every moment, and C follows from it. -/
def DerateFresh (s : State) : Prop :=
  s.loaded = true →
    s.mon.derate = s.derateFactor ∧ s.mon.capacity = s.params.ratedPower * s.mon.derate / 256

/-! ### The ALARM output (R163) -/

/-- R163: ALARM is on exactly while the condition set holds a member. -/
def AlarmLaw (s : State) : Prop := s.out.alarm = !s.mon.conditions.isEmpty

/-! ### Counts and their ranges -/

/-- The ranges of the counts: starter heat (R125), consecutive bit errors, which stand at 8 exactly in LINK_FAULT (R55, R56), the
governor counts (R143), hours, shadow, minutes and running windows (R180, R181), speed (R146), throttle code and demand (R34, R37),
active time (R157). -/
def CounterLaw (s : State) : Prop :=
  s.claim.heat ≤ Config.heatMax
    ∧ s.link.bitErrors ≤ Config.bitErrorLimit
    ∧ s.link.linkFault = (s.link.bitErrors == Config.bitErrorLimit)
    ∧ s.port.badReads ≤ 2 ∧ s.port.goodReads ≤ 2
    ∧ s.load.hours ≤ Config.maxHours ∧ s.ret.shadow ≤ Config.maxHours
    ∧ s.ret.minutes ≤ 59 ∧ s.load.runningWindows ≤ 599
    ∧ s.mon.speed ≤ Config.maxRpm
    ∧ s.cab.sampledCode ≤ 15 ∧ s.cab.demand ≤ 8 ∧ s.view.tally.length = 9
    ∧ ∀ m ∈ s.mon.conditions, m.activeMs ≤ Config.activeHoldMs

/-! ### The failed attempts (R13) -/

/-- R3, R13: the failed-attempt count never exceeds MAX_ATTEMPTS, and in the states from which another attempt is made it is below;
until the load completes the engine state is INIT and the count 0. MAX_ATTEMPTS is at least 1 (R177). -/
def AttemptLaw (s : State) : Prop :=
  1 ≤ s.params.maxAttempts
    ∧ s.seq.attempts ≤ s.params.maxAttempts
    ∧ (s.seq.state ∈ [.stopped, .prelube, .claimWait, .claimSettle, .cranking] →
        s.seq.attempts < s.params.maxAttempts)
    ∧ (s.loaded = false → s.seq.state = .init ∧ s.seq.attempts = 0)

/-! ### The need flags (R39, R41) -/

/-- R39, R41: in SERVICE both need flags are clear and the layover check timer does not run. -/
def LayoverLaw (s : State) : Prop :=
  s.cab.mode = .service →
    s.cab.coldRun = false ∧ s.cab.batteryNeed = false ∧ s.cab.layoverCheck.isRunning = false

/-! ### The governor setpoint (R133, R134) -/

/-- R5, R133, R134: until the load completes the engine state is INIT; the setpoint is at every moment the one that the table of R133
gives for state and notch; while it is NONE no SETPOINT_WRITE is pending and the refresh timer does not run. -/
def SetpointLaw (s : State) : Prop :=
  (s.loaded = false → s.seq.state = .init)
    ∧ s.stepper.setpoint = setpointOf s.params s.stepper.notch s.seq.state
    ∧ (s.stepper.setpoint = none →
        s.port.pendSetpointWrite = false ∧ s.port.refresh.isRunning = false)

/-! ### Proving (R169, R171) -/

/-- R169: an output is in AGREE exactly while its qualified feedback matches its command, and its proving timer runs exactly in
PROVING. -/
def ProvingLaw (s : State) : Prop :=
  ∀ o : ProvedOutput,
    ((s.out.proving o).proof = .agree ↔
        (s.out.proving o).feedback.matchesCommand (s.command o) = true)
      ∧ ((s.out.proving o).timer.isRunning = true ↔ (s.out.proving o).proof = .proving)

/-! ### The peer table (R67 to R69, R75, R87) -/

/-- R68, R69: what presence, age timer, record and held expiry of an entry have to do with each other; an expiry is held only while a
pass is in flight. -/
def PeerEntry.agrees (e : PeerEntry) (inPass : Bool) : Bool :=
  match e.presence with
  | .absent => e.age == .stopped && e.record.isNone && !e.heldExpiry
  | .present => (e.age.isRunning && !e.heldExpiry) || (e.age.isExpired && e.heldExpiry && inPass)
  | .lost => e.age.isExpired && !e.heldExpiry

/-- R75: the self entry's age timer stays stopped, and it never becomes LOST. -/
def PeerEntry.agreesAsSelf (e : PeerEntry) : Bool :=
  e.age == .stopped && e.presence != .lost && !e.heldExpiry

/-- R67 to R69, R75, R85, R87: every entry of the peer table agrees with itself; the Allocator waits for the load exactly until it
completes, and it listens exactly while the listen timer runs. -/
def ViewLaw (s : State) : Prop :=
  (∀ i : Fin 7,
      (if s.isSelf i then (s.view.entry i).agreesAsSelf
        else (s.view.entry i).agrees (s.alloc.phase == .inPass)) = true)
    ∧ (s.alloc.phase = .waitLoad ↔ s.loaded = false)
    ∧ (s.alloc.phase = .listening ↔ s.alloc.listen.isRunning = true)

end Sys2Proof.Machine
end

