-- ==== Sys2Proof/Certificates/Slice0/Obligations.lean ====
section
/-! DEFINITION. Certificates/Slice0/Obligations.lean: the statements about the model, from the numbered rules of spec/. The first part
gives the words in which they are said: what a mark and a trigger change, what an entry to an engine state does and what it leaves
alone, what the port's arbiter grants. -/

namespace Sys2Proof.Machine

/-! ### Marks, triggers -/

/-- The station with its STATUS slot marked, when the transmitter is enabled (R52, R59). -/
def State.withMark (s : State) : State :=
  { s with link := { s.link with statusMarked := s.link.statusMarked || s.link.txEnabled } }

/-- The station with a mark when `b` holds. -/
def State.withMarkIf (b : Bool) (s : State) : State := if b then s.withMark else s

/-- The station with a pass called for, when the Allocator is READY or IN_PASS (R86; log 4). -/
def State.withTrigger (s : State) : State :=
  { s with alloc := { s.alloc with
      reEvaluate := s.alloc.reEvaluate || s.alloc.phase == .ready || s.alloc.phase == .inPass } }

/-- The station with a trigger when `b` holds. -/
def State.withTriggerIf (b : Bool) (s : State) : State := if b then s.withTrigger else s

/-! ### Time -/

/-- A timer 10 ms later (00_scope, Timers): one that runs is 10 ms nearer to its end. -/
def Timer.later : Timer → Timer
  | .running left => .running (left - 10)
  | .stopped => .stopped
  | .expired => .expired

/-- The claim clock 10 ms later (R116). -/
def Stopwatch.later : Stopwatch → Stopwatch
  | .running elapsed => .running (elapsed + 10)
  | .stopped => .stopped

/-- A sampled input 10 ms later: its stability timer goes on. -/
abbrev QualifiedInput.later (q : QualifiedInput) : QualifiedInput :=
  { q with stability := q.stability.later }

/-- The proving of an output 10 ms later. -/
abbrev Proving.later (p : Proving) : Proving :=
  { p with feedback := p.feedback.later, timer := p.timer.later }

/-- The station 10 ms later: every timer goes on, and the times that are counted up grow by 10 ms within their bounds (the dwell
count within 20 s, R129; the active times within 65535 s, R157). Nothing else changes. -/
def State.later (s : State) : State :=
  { s with
    seq := { s.seq with
      stateTimer := s.seq.stateTimer + 10, rest := s.seq.rest.later, minRun := s.seq.minRun.later
      fireConfirm := s.seq.fireConfirm.later }
    cab := { s.cab with
      run := s.cab.run.later, estop := s.cab.estop.later, faultReset := s.cab.faultReset.later
      isolate := s.cab.isolate.later, codeStability := s.cab.codeStability.later
      invalidCode := s.cab.invalidCode.later, layoverCheck := s.cab.layoverCheck.later }
    link := { s.link with
      holdOff := s.link.holdOff.later, heartbeat := s.link.heartbeat.later
      spacing := s.link.spacing.later }
    view := { s.view with peers := s.view.peers.map fun e => { e with age := e.age.later } }
    alloc := { s.alloc with
      listen := s.alloc.listen.later, evaluation := s.alloc.evaluation.later
      stopDelay := s.alloc.stopDelay.later }
    claim := { s.claim with
      lease := s.claim.lease.later, recovery := s.claim.recovery.later
      settle := s.claim.settle.later, clock := s.claim.clock.later
      heatTimer := s.claim.heatTimer.later }
    stepper := { s.stepper with dwell :=
      if s.stepper.dwell.running then
        { s.stepper.dwell with count := min 20000 (s.stepper.dwell.count + 10) }
      else s.stepper.dwell }
    port := { s.port with
      refresh := s.port.refresh.later, statusTimer := s.port.statusTimer.later }
    mon := { s.mon with
      grace := s.mon.grace.later, stall := s.mon.stall.later
      inputs := s.mon.inputs.map fun i => { i with stability := i.stability.later }
      conditions := s.mon.conditions.map fun m =>
        { m with activeMs := min 65535000 (m.activeMs + 10) } }
    out := { s.out with
      crankProving := s.out.crankProving.later, fuelProving := s.out.fuelProving.later
      prelubeProving := s.out.prelubeProving.later } }

/-! ### What is due -/

/-- A pass is due (R86, R89): READY, the re-evaluate flag set, no frame being applied or taken up for it, no drain in progress. -/
abbrev State.passWaits (s : State) : Prop :=
  s.alloc.phase = .ready ∧ s.alloc.reEvaluate = true ∧ s.link.applying = none
    ∧ s.link.headTaken = false ∧ s.link.draining = false

/-- A frame may be applied (R65): none is being applied, no pass is in flight, and the post list is not empty. -/
abbrev State.frameWaits (s : State) : Prop :=
  s.link.applying = none ∧ s.alloc.phase ≠ .inPass ∧ s.link.postList ≠ []

/-- A frame may be started (R53): the line IDLE, nothing in transmission, a candidate. -/
abbrev State.startWaits (s : State) : Prop :=
  s.link.line = .idle ∧ s.link.sending = none ∧ s.link.candidate ≠ none

/-- The expiry that a command names is due: its timer has run its time; a limit of the state timer is reached in its own state (R1);
the dwell count has reached a dwell time and that event has not been given since the restart (R129). -/
def State.expiryWaits (s : State) : Instr → Prop
  | .cabLineQualification line => (s.cab.line line).stability = .running 0
  | .throttleCodeQualification => s.cab.codeStability = .running 0
  | .invalidCodeTimerExpiry => s.cab.invalidCode = .running 0
  | .layoverCheckExpiry => s.cab.layoverCheck = .running 0
  | .holdOffExpiry => s.link.holdOff = .running 0
  | .heartbeatExpiry => s.link.heartbeat = .running 0
  | .spacingTimerExpiry => s.link.spacing = .running 0
  | .ageExpiry n => ∃ i : Fin 7, n = i.val + 1 ∧ (s.view.entry i).age = .running 0
  | .listenTimerExpiry => s.alloc.listen = .running 0
  | .evaluationTimerExpiry => s.alloc.evaluation = .running 0
  | .stopDelayExpiry => s.alloc.stopDelay = .running 0
  | .prelubeTimeExpiry => s.seq.state = .prelube ∧ s.params.prelubeTime * 1000 ≤ s.seq.stateTimer
  | .crankTimeExpiry => s.seq.state = .cranking ∧ s.params.crankTime * 100 ≤ s.seq.stateTimer
  | .fireConfirmExpiry => s.seq.fireConfirm = .running 0
  | .runupTimeExpiry => s.seq.state = .runup ∧ s.params.runupTime * 1000 ≤ s.seq.stateTimer
  | .warmMinExpiry =>
    s.seq.state = .warmup ∧ s.params.warmMin * 1000 ≤ s.seq.stateTimer
      ∧ (s.params.tWarm : Int) ≤ s.mon.coolant.value
  | .warmMaxExpiry => s.seq.state = .warmup ∧ s.params.warmMin * 1000 ≤ s.seq.stateTimer
      ∧ s.params.warmMax * 1000 ≤ s.seq.stateTimer
  | .cooldownExpiry => s.seq.state = .cooldown ∧ s.params.cooldown * 1000 ≤ s.seq.stateTimer
  | .stopLimitExpiry => s.seq.state = .stopping ∧ s.params.stopLimit * 1000 ≤ s.seq.stateTimer
  | .restTimerExpiry => s.seq.rest = .running 0
  | .minRunExpiry => s.seq.minRun = .running 0
  | .leaseExpiry => s.claim.lease = .running 0
  | .recoveryTimerExpiry => s.claim.recovery = .running 0
  | .settleExpiry => s.claim.settle = .running 0
  | .heatUpdate => s.claim.heatTimer = .running 0
  | .upDwellEvent =>
    s.stepper.dwell.running = true ∧ s.stepper.dwell.upGiven = false
      ∧ s.params.dwellUp * 100 ≤ s.stepper.dwell.count
  | .downDwellEvent =>
    s.stepper.dwell.running = true ∧ s.stepper.dwell.downGiven = false
      ∧ s.params.dwellDown * 100 ≤ s.stepper.dwell.count
  | .setpointRefreshExpiry => s.port.refresh = .running 0
  | .governorStatusTimerExpiry => s.port.statusTimer = .running 0
  | .graceTimerExpiry => s.mon.grace = .running 0
  | .stallTimerExpiry => s.mon.stall = .running 0
  | .protectiveInputQualification n =>
    ∃ k : Fin 12, n = k.val + 1 ∧ s.mon.inputs[k].stability = .running 0
  | .feedbackQualification o => (s.out.proving o).feedback.stability = .running 0
  | .provingTimerExpiry o => (s.out.proving o).timer = .running 0
  | _ => False

/-! ### An entry to an engine state -/

/-- What an entry to `st` has done to the Sequencer, the outputs, STATUS and the Allocator (R1, R2, R12, R105). -/
abbrev Entered (st : EngineState) (s t : State) : Prop :=
  t.seq.state = st ∧ t.seq.stateTimer = 0 ∧ t.seq.fireConfirm = .stopped
    ∧ t.standingCommands = st.commands s.ret.fuelLatch
    ∧ (s.link.txEnabled = true → t.link.statusMarked = true)
    ∧ (s.alloc.phase = .ready ∨ s.alloc.phase = .inPass → t.alloc.reEvaluate = true)
    ∧ (st.rankClass ≠ some 0 → t.alloc.stopDelay = .stopped)

/-- The codes whose cause an entry may report gone: the inputs that it masks (R155), LOW_OIL (R150), the mismatches whose output
it commands anew (R169, R170). -/
def entryCodes : List Nat := [1, 2, 3, 4, 5, 6, 7, 8, 9, 10, 11, 12, 21, 28, 29, 30, 31, 32]

/-- The condition set is the same but for members of the codes given. -/
abbrev ConditionsBut (codes : List Nat) (s t : State) : Prop :=
  (∀ m ∈ s.mon.conditions, m.code ∉ codes → m ∈ t.mon.conditions)
    ∧ ∀ m ∈ t.mon.conditions, m.code ∉ codes → m ∈ s.mon.conditions

/-- The Output Stage is the same but for its commands, proof states and proving timers. -/
abbrev FeedbackKept (s t : State) : Prop :=
  t.out.crankProving.feedback = s.out.crankProving.feedback
    ∧ t.out.fuelProving.feedback = s.out.fuelProving.feedback
    ∧ t.out.prelubeProving.feedback = s.out.prelubeProving.feedback

/-- What the Sequencer's transitions of one event leave alone: the view, the Loader, the parameters, the mailbox, the queue; and in
each other block everything but what R1 to R27 hand on to it. -/
abbrev BlocksKept (s t : State) : Prop :=
  t.view = s.view ∧ t.load = s.load ∧ t.params = s.params ∧ t.mailbox = s.mailbox
    ∧ t.pending = s.pending
    ∧ t.link = { s.link with claimSlot := t.link.claimSlot, statusMarked := t.link.statusMarked }
    ∧ t.alloc = { s.alloc with reEvaluate := t.alloc.reEvaluate, stopDelay := t.alloc.stopDelay }
    ∧ t.claim = { s.claim with
        holder := t.claim.holder, recovery := t.claim.recovery, phase := t.claim.phase
        attempt := t.claim.attempt, settle := t.claim.settle, clock := t.claim.clock
        needStands := t.claim.needStands }
    ∧ t.port = { s.port with
        pendConfigRead := t.port.pendConfigRead, pendSetpointWrite := t.port.pendSetpointWrite
        pendHoursWrite := t.port.pendHoursWrite, pendStatusRead := t.port.pendStatusRead
        nextConfigRead := t.port.nextConfigRead, inFlight := t.port.inFlight
        buffer := t.port.buffer, refresh := t.port.refresh }
    ∧ t.mon = { s.mon with
        runPhase := t.mon.runPhase, grace := t.mon.grace, stall := t.mon.stall
        derate := t.mon.derate, capacity := t.mon.capacity, inputs := t.mon.inputs
        conditions := t.mon.conditions }
    ∧ FeedbackKept s t
    ∧ t.ret = { s.ret with
        fuelLatch := t.ret.fuelLatch, record := t.ret.record, wasRunning := t.ret.wasRunning }

/-- The frame of a transition: the Cab Line Unit too is left alone, and the condition set changes at most in the codes that the event
raises (`raised`) and those whose cause an entry may report gone. -/
abbrev TransitionFrame (raised : List Nat) (s t : State) : Prop :=
  t.cab = s.cab ∧ BlocksKept s t ∧ ConditionsBut (raised ++ entryCodes) s t

/-- The own claim and its slot are not touched. -/
abbrev ClaimKept (s t : State) : Prop := t.claim = s.claim ∧ t.link.claimSlot = s.link.claimSlot

/-- The rest timer, the minimum-run timer, the count, the stop reason, the resumed flag and the snapshot stand. -/
abbrev RecordsKept (s t : State) : Prop :=
  t.seq = { s.seq with
    state := t.seq.state, stateTimer := t.seq.stateTimer, fireConfirm := t.seq.fireConfirm }

/-- Where STOPPING has led by the end of its entry (R22, R23): FAULTED with a latched stop cause and STOPPED or ISOLATED without
one when the latest speed is below 30 rpm; else STOPPING. -/
def stoppingLeads (latched : Bool) (s : State) : EngineState :=
  if s.mon.speed < Config.stoppedRpm then
    if latched then .faulted else if s.cab.isolate.qualified then .isolated else .stopped
  else .stopping

/-- What every entry to STOPPING leaves behind (R6, R22 to R24, R165, R182), `left` being the state that is left: the snapshot, the
flags, the notch and the setpoint; and where it leads, with the fault record when that is FAULTED. -/
abbrev Stopped (left : EngineState) (latched : Bool) (s t : State) : Prop :=
  Entered (stoppingLeads latched s) s t
    ∧ t.seq.snapshot = ⟨left, s.mon.speed, s.stepper.notch⟩ ∧ t.seq.resumed = false
    ∧ t.ret.wasRunning = false ∧ t.stepper.notch = 0 ∧ t.stepper.setpoint = none
    ∧ t.seq.minRun = s.seq.minRun
    ∧ (stoppingLeads latched s = .faulted →
        t.seq.stopReason = .none
          ∧ t.ret.record = some
              ⟨recordCause t.mon.conditions, left, s.mon.speed, s.stepper.notch, s.load.hours⟩)
    ∧ (stoppingLeads latched s = .stopping → t.ret.record = s.ret.record)
    ∧ (stoppingLeads latched s = .stopped ∨ stoppingLeads latched s = .isolated →
        t.seq.stopReason = .none ∧ t.seq.attempts = 0 ∧ t.ret.record = s.ret.record)

/-- A stop cause of R23 is in the condition set: a latched member of class SHUTDOWN or STOP. -/
def State.stopLatched (s : State) : Bool := s.mon.conditions.any Member.stopCause

/-- No standing cause of R4 is there: ESTOP and ISOLATE not qualified, no member of class SHUTDOWN, STOP or INHIBIT_START. -/
abbrev NoStandingCause (s : State) : Prop :=
  s.cab.estop.qualified = false ∧ s.cab.isolate.qualified = false
    ∧ ∀ m ∈ s.mon.conditions, m.cls ≠ .shutdown ∧ m.cls ≠ .stop ∧ m.cls ≠ .inhibitStart

/-! ### The crank claim -/

/-- The own claim as a release leaves it (R115, R122): none is holder, its timers stopped, recovery started, IDLE. -/
def ClaimUnit.givenUp (c : ClaimUnit) (p : Params) : ClaimUnit :=
  { c with
    holder := .none, settle := .stopped, clock := .stopped, phase := .idle
    recovery := .running (p.recoveryTime * 1000) }

/-- A slot that takes a RELEASE (R58): an own CLAIM that waits goes, one that is sending holds the RELEASE, a RELEASE that waits is
replaced, one that is sending goes on. -/
def ClaimSlot.releasing (o : ReleaseOutcome) : ClaimSlot → ClaimSlot
  | .empty => .releasePending o
  | .claimPending _ => .empty
  | .claimSending c _ w => .claimSending c (some o) w
  | .releasePending _ => .releasePending o
  | .releaseSending x => .releaseSending x

/-- The claim slot after a release (R52, R122): a disabled transmitter takes none. -/
def State.slotReleasing (s : State) (o : ReleaseOutcome) : ClaimSlot :=
  if s.link.txEnabled then s.link.claimSlot.releasing o else s.link.claimSlot

/-- The slot takes a CLAIM (R58): it is empty or holds a CLAIM that waits. -/
def ClaimSlot.takesClaim : ClaimSlot → Bool
  | .empty | .claimPending _ => true
  | .claimSending _ _ _ | .releasePending _ | .releaseSending _ => false

/-- An examination of the offer (R117): with every condition met the CLAIM waits in the slot and the claim is OFFERED; else nothing
changes. -/
def Examined (s t : State) : Prop :=
  if s.claim.phase = .wanted ∧ s.claim.holder = .none ∧ s.claim.recovery = .expired
      ∧ s.seq.rest = .expired ∧ s.claim.heat ≤ s.params.heatOk ∧ s.view.alone = false
      ∧ s.claim.foreignMark = false ∧ s.link.txEnabled = true
      ∧ s.link.claimSlot.takesClaim = true then
    t = { s with
      link := { s.link with claimSlot := .claimPending ⟨s.params.crankTime, s.claim.attempt⟩ }
      claim := { s.claim with phase := .offered } }
  else t = s

/-! ### After a reset -/

/-- All the laws of Safety.lean. -/
abbrev AllLaws (s : State) : Prop :=
  OutputLaw s ∧ ClaimLaw s ∧ NotchLaw s ∧ TransmitterLaw s ∧ PoolLaw s ∧ TakenLaw s ∧ LineLaw s
    ∧ FirstStatusLaw s ∧ DerateLaw s ∧ DerateFresh s ∧ ConditionLaw s ∧ AlarmLaw s ∧ CounterLaw s ∧ AttemptLaw s ∧ LayoverLaw s
    ∧ SetpointLaw s ∧ ProvingLaw s ∧ ViewLaw s

/-- The core state after either reset, chapter by chapter: what the manual gives a reset value for. -/
abbrev CoreAtReset (p : Straps) (t : State) : Prop :=
  (t.seq.state = .init ∧ t.seq.attempts = 0 ∧ t.seq.rest = .expired ∧ t.seq.minRun = .expired
    ∧ t.seq.fireConfirm = .stopped ∧ t.seq.stopReason = .none ∧ t.seq.resumed = false
    ∧ t.seq.snapshot = ⟨.init, 0, 0⟩)
  ∧ (∀ line : CabLine,
      (t.cab.line line).qualifiedYet = false ∧ (t.cab.line line).qualified = false)
  ∧ (t.cab.qualifiedCode = none ∧ t.cab.decoder = .unqualified ∧ t.cab.lastValid = none
    ∧ t.cab.invalidCode = .stopped ∧ t.cab.demand = 0 ∧ t.cab.source = .default
    ∧ t.cab.mode = .layover ∧ t.cab.layoverCheck = .stopped ∧ t.cab.coldRun = false
    ∧ t.cab.batteryNeed = false)
  ∧ (t.link.line = .settling ∧ t.link.releasedBits = 0 ∧ t.link.txEnabled = false
    ∧ t.link.claimSlot = .empty ∧ t.link.statusMarked = false ∧ t.link.replySlot = none
    ∧ t.link.sending = none ∧ t.link.bitErrors = 0 ∧ t.link.linkFault = false
    ∧ t.link.holdOff = .stopped ∧ t.link.granted = false ∧ t.link.heartbeat = .stopped
    ∧ t.link.firstHeartbeat = false
    ∧ t.link.spacing = .expired ∧ t.link.freeList = [0, 1, 2, 3, 4, 5, 6, 7]
    ∧ t.link.postList = [] ∧ t.link.filling = none ∧ t.link.applying = none
    ∧ t.link.headTaken = false ∧ t.link.draining = false)
  ∧ (∀ i : Fin 7, (t.view.entry i).presence = .absent ∧ (t.view.entry i).age = .stopped
      ∧ (t.view.entry i).record = none ∧ (t.view.entry i).changed = false)
  ∧ (t.view.everSeen = false ∧ t.view.alone = false ∧ t.view.sFrozen = 0
    ∧ t.view.tally = [0, 0, 0, 0, 0, 0, 0, 0, 0])
  ∧ (t.alloc.phase = .waitLoad ∧ t.alloc.reEvaluate = false ∧ t.alloc.listen = .stopped
    ∧ t.alloc.evaluation = .stopped ∧ t.alloc.stopDelay = .stopped
    ∧ t.alloc.results = ⟨false, 0, 0, 0, false, false, .layover⟩
    ∧ t.alloc.powerSteps = [0, 0, 0, 0, 0, 0, 0, 0])
  ∧ (t.claim.holder = .none ∧ t.claim.lease = .stopped ∧ t.claim.recovery = .stopped
    ∧ t.claim.phase = .idle ∧ t.claim.attempt = 1 ∧ t.claim.foreignMark = false
    ∧ t.claim.settle = .stopped ∧ t.claim.clock = .stopped ∧ t.claim.needStands = false
    ∧ t.claim.heat = 0 ∧ t.claim.heatTimer = .running 100)
  ∧ (t.stepper.notch = 0 ∧ t.stepper.dwell.running = false ∧ t.stepper.setpoint = none)
  ∧ (t.port.pendConfigRead = true ∧ t.port.pendSetpointWrite = false
    ∧ t.port.pendHoursWrite = false ∧ t.port.pendStatusRead = false
    ∧ t.port.inFlight = some (.configRead 1) ∧ t.port.nextConfigRead = 2
    ∧ t.port.buffer = [0, 0, 0, 0, 0, 0, 0, 0]
    ∧ t.port.refresh = .stopped ∧ t.port.statusTimer = .stopped ∧ t.port.report = ⟨0, 0, 0, 0⟩
    ∧ t.port.governorFault = false ∧ t.port.badReads = 0 ∧ t.port.goodReads = 0)
  ∧ (t.mon.coolant.window = [] ∧ t.mon.coolant.value = -40 ∧ t.mon.coolant.fault = false
    ∧ t.mon.oil.window = [] ∧ t.mon.oil.value = 0 ∧ t.mon.oil.fault = false
    ∧ t.mon.battery.window = [] ∧ t.mon.battery.value = 0 ∧ t.mon.battery.fault = false
    ∧ t.mon.speed = 0 ∧ t.mon.runPhase = .notRun ∧ t.mon.grace = .stopped
    ∧ t.mon.stall = .stopped ∧ t.mon.derate = 256 ∧ t.mon.capacity = 0
    ∧ t.mon.conditions = [])
  ∧ (∀ k : Fin 12, t.mon.routing[k].enable = false ∧ t.mon.inputs[k].active = false)
  ∧ (t.out.crank = false ∧ t.out.prelube = false ∧ t.out.loadPermit = false
    ∧ t.out.alarm = false)
  ∧ (∀ o : ProvedOutput, (t.out.proving o).proof = .proving
      ∧ (t.out.proving o).timer = .running 300
      ∧ (t.out.proving o).feedback.qualifiedYet = false)
  ∧ (t.load.station = bit p.s0 + bit p.s1 * 2 + bit p.s2 * 4
    ∧ t.load.linkRate = bit p.l0 + bit p.l1 * 2 ∧ t.load.progress = .reading 0
    ∧ t.load.hours = 0 ∧ t.load.runningWindows = 0)
  ∧ t.mailbox = none

/-! ### The serial port's arbiter -/

/-- The port as the arbiter leaves it (R136 to R140): a port in use stands; a free one is granted to the first kind pending in the
order CONFIG_READ, SETPOINT_WRITE, HOURS_WRITE, STATUS_READ. -/
def Granted (s : State) (p q : Port) : Prop :=
  if p.inFlight.isSome then q = p
  else if p.pendConfigRead then
    q = { p with
      inFlight := some (.configRead p.nextConfigRead), nextConfigRead := p.nextConfigRead + 1
      pendConfigRead := decide (p.nextConfigRead < 16) }
  else if p.pendSetpointWrite then
    q = { p with
      inFlight := some .setpointWrite, pendSetpointWrite := false
      buffer := [byteOf (s.stepper.setpoint.getD 0 / 256), byteOf (s.stepper.setpoint.getD 0)]
        ++ p.buffer.drop 2 }
  else if p.pendHoursWrite then
    q = { p with
      inFlight := some .hoursWrite, pendHoursWrite := false
      buffer := [byteOf (s.load.hours / 16777216), byteOf (s.load.hours / 65536),
        byteOf (s.load.hours / 256), byteOf s.load.hours] ++ p.buffer.drop 4 }
  else if p.pendStatusRead then q = { p with inFlight := some .statusRead, pendStatusRead := false }
  else q = p

/-! ### The arithmetic of a pass -/

/-- The ranking key comes before another: class, then hours bucket, then station number (R94). -/
def Ranked.precedes (a b : Ranked) : Prop :=
  a.cls < b.cls ∨ (a.cls = b.cls
    ∧ (a.bucket < b.bucket ∨ (a.bucket = b.bucket ∧ a.number < b.number)))

/-- The sum of the capacities of the ONLINE stations of a list (R99). -/
def onlineCapacity : List Ranked → Nat
  | [] => 0
  | x :: rest => (if x.online then x.capacity else 0) + onlineCapacity rest

end Sys2Proof.Machine

namespace Sys2Proof

/-! ### The commands by name -/

/-- The command's name in the table of operations and events. -/
def Instr.mnemonic : Instr → String
  | .powerOnReset _ => "POWER_ON_RESET" | .coreReset _ => "CORE_RESET"
  | .cabLineQualification _ => "CAB_LINE_QUALIFICATION"
  | .throttleCodeQualification => "THROTTLE_CODE_QUALIFICATION"
  | .invalidCodeTimerExpiry => "INVALID_CODE_TIMER_EXPIRY"
  | .layoverCheckExpiry => "LAYOVER_CHECK_EXPIRY" | .frameStart => "FRAME_START"
  | .arbitrationLoss => "ARBITRATION_LOSS" | .bitError _ => "BIT_ERROR"
  | .holdOffExpiry => "HOLD_OFF_EXPIRY" | .transmissionCompletion => "TRANSMISSION_COMPLETION"
  | .frameArrival _ => "FRAME_ARRIVAL" | .heartbeatExpiry => "HEARTBEAT_EXPIRY"
  | .spacingTimerExpiry => "SPACING_TIMER_EXPIRY" | .frameApplication => "FRAME_APPLICATION"
  | .applicationEnd => "APPLICATION_END" | .ageExpiry _ => "AGE_EXPIRY"
  | .listenTimerExpiry => "LISTEN_TIMER_EXPIRY"
  | .evaluationTimerExpiry => "EVALUATION_TIMER_EXPIRY" | .passStart => "PASS_START"
  | .passEnd => "PASS_END" | .stopDelayExpiry => "STOP_DELAY_EXPIRY"
  | .prelubeTimeExpiry => "PRELUBE_TIME_EXPIRY" | .crankTimeExpiry => "CRANK_TIME_EXPIRY"
  | .fireConfirmExpiry => "FIRE_CONFIRM_EXPIRY" | .runupTimeExpiry => "RUNUP_TIME_EXPIRY"
  | .warmMinExpiry => "WARM_MIN_EXPIRY" | .warmMaxExpiry => "WARM_MAX_EXPIRY"
  | .cooldownExpiry => "COOLDOWN_EXPIRY" | .stopLimitExpiry => "STOP_LIMIT_EXPIRY"
  | .restTimerExpiry => "REST_TIMER_EXPIRY" | .minRunExpiry => "MIN_RUN_EXPIRY"
  | .leaseExpiry => "LEASE_EXPIRY" | .recoveryTimerExpiry => "RECOVERY_TIMER_EXPIRY"
  | .settleExpiry => "SETTLE_EXPIRY" | .heatUpdate => "HEAT_UPDATE"
  | .upDwellEvent => "UP_DWELL_EVENT" | .downDwellEvent => "DOWN_DWELL_EVENT"
  | .configReadCompletion _ => "CONFIG_READ_COMPLETION"
  | .setpointWriteCompletion => "SETPOINT_WRITE_COMPLETION"
  | .hoursWriteCompletion => "HOURS_WRITE_COMPLETION"
  | .statusReadCompletion _ _ _ _ => "STATUS_READ_COMPLETION"
  | .setpointRefreshExpiry => "SETPOINT_REFRESH_EXPIRY"
  | .governorStatusTimerExpiry => "GOVERNOR_STATUS_TIMER_EXPIRY"
  | .analogSample _ _ => "ANALOG_SAMPLE" | .speedValue _ => "SPEED_VALUE"
  | .graceTimerExpiry => "GRACE_TIMER_EXPIRY" | .stallTimerExpiry => "STALL_TIMER_EXPIRY"
  | .protectiveInputQualification _ => "PROTECTIVE_INPUT_QUALIFICATION"
  | .feedbackQualification _ => "FEEDBACK_QUALIFICATION"
  | .provingTimerExpiry _ => "PROVING_TIMER_EXPIRY"
  | .configLoadCompletion => "CONFIG_LOAD_COMPLETION" | .readSelf _ => "READ_SELF"
  | .readPeer _ => "READ_PEER" | .readConditions _ => "READ_CONDITIONS"
  | .readFaultRecord _ => "READ_FAULT_RECORD" | .readHours _ => "READ_HOURS"
  | .readInputs _ => "READ_INPUTS" | .badCode _ _ => "BAD_CODE"
  | .cabLineSample _ => "CAB_LINE_SAMPLE" | .protectiveInputSample _ => "PROTECTIVE_INPUT_SAMPLE"
  | .feedbackSample _ _ _ => "FEEDBACK_SAMPLE" | .lineIdle _ => "LINE_IDLE"
  | .startBitRead => "START_BIT_READ" | .endOfPriorityField => "END_OF_PRIORITY_FIELD"

/-- The command is neither one of those named nor a reset. -/
abbrev Instr.isNoneOf (c : Instr) (names : List String) : Prop :=
  c.mnemonic ∉ "POWER_ON_RESET" :: "CORE_RESET" :: names

/-- The events that reach the Engine Sequencer or the Notch Stepper (chapters 1 and 7). -/
def engineEvents : List String :=
  ["CAB_LINE_QUALIFICATION", "BIT_ERROR", "TRANSMISSION_COMPLETION", "FRAME_APPLICATION",
   "AGE_EXPIRY", "PASS_END", "STOP_DELAY_EXPIRY", "PRELUBE_TIME_EXPIRY", "CRANK_TIME_EXPIRY",
   "FIRE_CONFIRM_EXPIRY", "RUNUP_TIME_EXPIRY", "WARM_MIN_EXPIRY", "WARM_MAX_EXPIRY",
   "COOLDOWN_EXPIRY", "STOP_LIMIT_EXPIRY", "MIN_RUN_EXPIRY", "SETTLE_EXPIRY", "HEAT_UPDATE",
   "UP_DWELL_EVENT", "DOWN_DWELL_EVENT", "ANALOG_SAMPLE", "SPEED_VALUE", "GRACE_TIMER_EXPIRY",
   "STALL_TIMER_EXPIRY", "PROTECTIVE_INPUT_QUALIFICATION", "PROTECTIVE_INPUT_SAMPLE",
   "PROVING_TIMER_EXPIRY", "CONFIG_LOAD_COMPLETION"]

/-- The names of the requests. -/
def requestNames : List String :=
  ["READ_SELF", "READ_PEER", "READ_CONDITIONS", "READ_FAULT_RECORD", "READ_HOURS", "READ_INPUTS",
   "BAD_CODE"]

end Sys2Proof

open Sys2Proof Sys2Proof.Machine

/-! ## The machine as a whole -/

/-- The queue is the model's own (log 1, log 2; INVENTORY, Host interface): a step takes the command in front and runs it on the
station with the rest of the queue. With no command waiting it takes what the part begins at once (log 4): the pass that is due (R86,
R89), else the application of a frame (R65), else the start of a frame (R53); else the expiry that is due, one to a step (log 1). -/
def Obligations.StepRunsTheCommandInFront : Prop :=
  (∀ (c : Instr) (rest : List Instr) (s : State),
    s.pending = c :: rest → step s = exec c (s.setPending rest))
  ∧ ∀ s : State, s.pending = [] →
      (s.passWaits → step s = exec .passStart s)
        ∧ (¬ s.passWaits → s.frameWaits → step s = exec .frameApplication s)
        ∧ (¬ s.passWaits → ¬ s.frameWaits → s.startWaits → step s = exec .frameStart s)
        ∧ ∀ c : Instr, ¬ s.passWaits → ¬ s.frameWaits → ¬ s.startWaits → s.dueExpiry = some c →
            step s = exec c s

/-- The part never stops: what the manual calls a fault is state (log 26). Every command, in every state and with every operand,
answers a next state and leaves the queue alone; so does the idle step. With no command waiting, no pass, no frame and no start due,
a step takes an expiry that is due, when there is one, and else 10 ms pass (00_scope, Timers; log 1): every running timer of every
block comes 10 ms nearer to its end, the times that are counted up (state timer, claim clock, dwell count, active times) grow by 10
ms within their bounds, and nothing else changes. -/
def Obligations.EveryCommandAnswersAndTimePassesBetween : Prop :=
  (∀ (c : Instr) (s : State),
    (∃ t, exec c s = .next t ∧ t.pending = s.pending)
      ∧ (s.pending = [] → ∃ t, step s = .next t ∧ t.pending = []))
  ∧ ∀ s : State,
    s.pending = [] → ¬ s.passWaits → ¬ s.frameWaits → ¬ s.startWaits →
      ((∃ c, s.expiryWaits c) → ∃ c, s.expiryWaits c ∧ step s = exec c s)
        ∧ ((∀ c, ¬ s.expiryWaits c) → ∃ t, step s = .next t ∧ t = s.later)

/-! ## Laws that every step keeps -/

/-- R2, R52, R58, R110, R116, R127 as one invariant: the four commands are those of the engine state; the own claim, its slot, its
timers and the engine state agree, and self is holder in CLAIM_SETTLE and CRANKING alone; the notch is 0..8 and non-zero in ONLINE
and UNLOADING alone; a disabled transmitter holds nothing. -/
def Obligations.EngineClaimAndNotchLawsAreKept : Prop :=
  ∀ s t : State,
    OutputLaw s → ClaimLaw s → NotchLaw s → TransmitterLaw s → step s = .next t →
      OutputLaw t ∧ ClaimLaw t ∧ NotchLaw t ∧ TransmitterLaw t

/-- R64: each of the eight receive buffers stays in exactly one of the free list, the post list, being filled, or being applied. R65,
R86: a frame that was taken up stays at the head of the post list, with no other frame applied and no pass begun before it; that such a
frame is one not yet being applied, its application a command of its own, is the model's choice (log 4: the flag headTaken). R44, R63:
the line's state and its count of released bit times agree with the frame on the line: an IDLE line carries none and has counted nine,
in SETTLING the count is below nine, at most seven while a frame has not ended, and a station that sends a frame takes no buffer for it.
R179: until the first heartbeat since the load no STATUS is in transmission, and that heartbeat is running where the transmitter is
enabled (log 33). -/
def Obligations.EveryBufferStaysInOnePlace : Prop :=
  ∀ s t : State, step s = .next t →
    (PoolLaw s → PoolLaw t) ∧ (TakenLaw s → TakenLaw t) ∧ (LineLaw s → LineLaw t)
      ∧ (FirstStatusLaw s → FirstStatusLaw t)

/-- R151, R152, R157: F stays within 64..256 and is what coolant and conditions give, C stays the capacity that follows and never
exceeds R; the condition set never holds a code twice and only codes 1..12 and 16..36 (the list by rising code is the model's
form of the set). What coolant and conditions give is the smallest of the base factor, by the three cases of the coolant value, of
128 while COOLANT_SENSOR (16) is in the set, and of the derate value of each member of class DERATE. -/
def Obligations.DerateCapacityAndConditionsStayLawful : Prop :=
  (∀ s t : State,
    ConditionLaw s → DerateLaw s → DerateFresh s → step s = .next t →
      ConditionLaw t ∧ DerateLaw t ∧ DerateFresh t)
  ∧ ∀ s : State,
      let v := s.mon.coolant.value
      let base : Nat :=
        if v < s.params.tDerate then 256
        else if v < s.params.tTrip then
          max 64 (256 * ((s.params.tTrip : Int) - v)
            / ((s.params.tTrip : Int) - s.params.tDerate)).toNat
        else 64
      let capped (n : Nat) : Prop :=
        ∃ m ∈ s.mon.conditions, m.cls = .derate
          ∧ ∃ k : Fin 12, m.code = k.val + 1 ∧ n = s.mon.routing[k].derate
      let sensor := ∃ m ∈ s.mon.conditions, m.code = 16
      s.derateFactor ≤ base ∧ (sensor → s.derateFactor ≤ 128)
        ∧ (∀ n, capped n → s.derateFactor ≤ n)
        ∧ (s.derateFactor = base ∨ sensor ∧ s.derateFactor = 128 ∨ capped s.derateFactor)

/-- R39, R41, R163: ALARM stays on exactly while the condition set holds a member; in SERVICE the need flags stay clear and the
layover check timer does not run. -/
def Obligations.AlarmAndNeedFlagsStayLawful : Prop :=
  ∀ s t : State, AlarmLaw s → LayoverLaw s → step s = .next t → AlarmLaw t ∧ LayoverLaw t

/-- R34, R37, R55, R56, R125, R143, R146, R157, R180, R181: the counts stay within their ranges, and the bit-error count stands at 8
exactly in LINK_FAULT. R13: the failed-attempt count never exceeds MAX_ATTEMPTS, and it is below it in the states from which another
attempt is made, CRANKING among them. -/
def Obligations.CountsStayWithinTheirRanges : Prop :=
  ∀ s t : State, step s = .next t → (CounterLaw s → CounterLaw t) ∧ (AttemptLaw s → AttemptLaw t)

/-- R133, R134: the setpoint is at every moment the one of R133's table, and while it is NONE nothing of it is pending. -/
def Obligations.SetpointFollowsStateAndNotch : Prop :=
  ∀ s t : State, SetpointLaw s → step s = .next t → SetpointLaw t

/-- R169: an output is in AGREE exactly while its qualified feedback matches its command, and its proving timer runs exactly in
PROVING. -/
def Obligations.ProofStatesFollowCommandAndFeedback : Prop :=
  ∀ s t : State, ProvingLaw s → step s = .next t → ProvingLaw t

/-- R67 to R69, R75, R85, R87: the entries of the peer table and the phase of the Allocator stay consistent. -/
def Obligations.PeerTableAndPhaseStayConsistent : Prop :=
  ∀ s t : State, ViewLaw s → step s = .next t → ViewLaw t

/-- All these laws hold right after reset, after a power-on reset with any straps, and after a core reset with any straps when the
hours shadow and the minutes count that the Retained Store keeps lie in their ranges. -/
def Obligations.EveryLawHoldsAfterReset : Prop :=
  AllLaws State.reset
  ∧ ∀ (p : Straps) (s t : State),
      (exec (.powerOnReset p) s = .next t → AllLaws t)
        ∧ (s.ret.shadow ≤ 999999 → s.ret.minutes ≤ 59 → exec (.coreReset p) s = .next t → AllLaws t)

/-! ## Which commands can change what -/

/-- R174, R175, R177, R179 to R183: the straps' values change at a reset alone; parameters, routing table, power steps, marker
fault and start record at the completion of the load besides; the image and the load progress at a CONFIG_READ completion
besides; the hours, the shadow, the minutes and the running windows at the load and at a speed value. R28 to R41, R144, R146,
R168: the sampled inputs, the demand, the mode, the need flags, the measured values and the feedback levels change at their own
events alone. -/
def Obligations.ConfigurationAndInputsHaveTheirOwnEvents : Prop :=
  ∀ (c : Instr) (s t : State), exec c s = .next t →
    (c.isNoneOf [] →
      t.load.station = s.load.station ∧ t.load.linkRate = s.load.linkRate
        ∧ t.load.resetKind = s.load.resetKind)
    ∧ (c.isNoneOf ["CONFIG_LOAD_COMPLETION"] →
        t.params = s.params ∧ t.mon.routing = s.mon.routing
          ∧ t.alloc.powerSteps = s.alloc.powerSteps ∧ t.load.markerFault = s.load.markerFault
          ∧ t.load.startRecord = s.load.startRecord)
    ∧ (c.isNoneOf ["CONFIG_READ_COMPLETION"] → t.load.image = s.load.image)
    ∧ (c.isNoneOf ["CONFIG_READ_COMPLETION", "CONFIG_LOAD_COMPLETION"] →
        t.load.progress = s.load.progress)
    ∧ (c.isNoneOf ["CONFIG_LOAD_COMPLETION", "SPEED_VALUE"] →
        t.load.hours = s.load.hours ∧ t.ret.shadow = s.ret.shadow)
    ∧ (c.isNoneOf ["SPEED_VALUE"] →
        t.load.runningWindows = s.load.runningWindows ∧ t.ret.minutes = s.ret.minutes)
    ∧ (c.isNoneOf ["CAB_LINE_SAMPLE", "CAB_LINE_QUALIFICATION"] →
      t.cab.run = s.cab.run ∧ t.cab.estop = s.cab.estop ∧ t.cab.faultReset = s.cab.faultReset
        ∧ t.cab.isolate = s.cab.isolate)
    ∧ (c.isNoneOf ["CAB_LINE_SAMPLE"] →
        t.cab.sampledCode = s.cab.sampledCode ∧ t.cab.codeSampledYet = s.cab.codeSampledYet)
    ∧ (c.isNoneOf ["CAB_LINE_SAMPLE", "THROTTLE_CODE_QUALIFICATION"] →
        t.cab.codeStability = s.cab.codeStability)
    ∧ (c.isNoneOf ["THROTTLE_CODE_QUALIFICATION"] →
        t.cab.qualifiedCode = s.cab.qualifiedCode ∧ t.cab.lastValid = s.cab.lastValid)
    ∧ (c.isNoneOf ["THROTTLE_CODE_QUALIFICATION", "INVALID_CODE_TIMER_EXPIRY"] →
        t.cab.decoder = s.cab.decoder ∧ t.cab.invalidCode = s.cab.invalidCode)
    ∧ (c.isNoneOf ["THROTTLE_CODE_QUALIFICATION", "INVALID_CODE_TIMER_EXPIRY", "FRAME_APPLICATION",
          "AGE_EXPIRY", "PASS_END"] →
        t.cab.demand = s.cab.demand ∧ t.cab.source = s.cab.source)
    ∧ (c.isNoneOf ["CAB_LINE_QUALIFICATION"] → t.cab.mode = s.cab.mode)
    ∧ (c.isNoneOf ["CAB_LINE_QUALIFICATION", "LAYOVER_CHECK_EXPIRY", "CONFIG_LOAD_COMPLETION"] →
        t.cab.layoverCheck = s.cab.layoverCheck)
    ∧ (c.isNoneOf ["CAB_LINE_QUALIFICATION", "LAYOVER_CHECK_EXPIRY", "ANALOG_SAMPLE"] →
        t.cab.coldRun = s.cab.coldRun ∧ t.cab.batteryNeed = s.cab.batteryNeed)
    ∧ (c.isNoneOf ["ANALOG_SAMPLE"] →
        t.mon.coolant = s.mon.coolant ∧ t.mon.oil = s.mon.oil ∧ t.mon.battery = s.mon.battery)
    ∧ (c.isNoneOf ["SPEED_VALUE"] → t.mon.speed = s.mon.speed ∧ t.mon.speedYet = s.mon.speedYet)
    ∧ (c.isNoneOf ["FEEDBACK_SAMPLE", "FEEDBACK_QUALIFICATION"] → FeedbackKept s t)

/-- R44 to R66, R184, R185: the line, the transmitter, the frame in transmission, the error count, the link timers, the pool with
the frame taken up (log 4), the drain, the three transmit slots (CLAIM or RELEASE, the STATUS mark, REPLY) and the mailbox change at
their own events alone. R67 to R83, R85 to R91, R105, R110 to R125, R139 to R143: so do the peer table, the ALONE flag with
S_frozen, the tally; the Allocator's phase, re-evaluate flag, snapshot, results (at a pass end alone) and its listen, evaluation and
stop-delay timers; the claim record with holder, lease, recovery and foreign-claim mark, the own claim with phase, attempt, settle
timer, clock and standing need, the starter heat with its timer; the governor report with its judgement and timer; and the
Sequencer's rest and minimum-run timers. -/
def Obligations.LinkViewAndClaimHaveTheirOwnEvents : Prop :=
  ∀ (c : Instr) (s t : State), exec c s = .next t →
    (c.isNoneOf ["LINE_IDLE", "START_BIT_READ", "FRAME_START", "BIT_ERROR", "TRANSMISSION_COMPLETION",
        "FRAME_ARRIVAL"] →
      t.link.line = s.link.line ∧ t.link.releasedBits = s.link.releasedBits)
    ∧ (c.isNoneOf ["FRAME_START", "ARBITRATION_LOSS", "BIT_ERROR", "TRANSMISSION_COMPLETION"] →
        t.link.sending = s.link.sending)
    ∧ (c.isNoneOf ["CONFIG_LOAD_COMPLETION", "FRAME_APPLICATION"] →
        t.link.txEnabled = s.link.txEnabled)
    ∧ (c.isNoneOf ["FRAME_APPLICATION", "ARBITRATION_LOSS", "BIT_ERROR", "TRANSMISSION_COMPLETION"] →
        t.link.disablePending = s.link.disablePending)
    ∧ (c.isNoneOf ["BIT_ERROR", "TRANSMISSION_COMPLETION"] →
        t.link.bitErrors = s.link.bitErrors ∧ t.link.linkFault = s.link.linkFault)
    ∧ (c.isNoneOf ["BIT_ERROR", "TRANSMISSION_COMPLETION", "HOLD_OFF_EXPIRY"] →
        t.link.granted = s.link.granted ∧ t.link.holdOff = s.link.holdOff)
    ∧ (c.isNoneOf ["CONFIG_LOAD_COMPLETION", "FRAME_APPLICATION", "HEARTBEAT_EXPIRY",
          "TRANSMISSION_COMPLETION"] →
        t.link.heartbeat = s.link.heartbeat)
    ∧ (c.isNoneOf ["HEARTBEAT_EXPIRY"] → t.link.firstHeartbeat = s.link.firstHeartbeat)
    ∧ (c.isNoneOf ["SPACING_TIMER_EXPIRY", "TRANSMISSION_COMPLETION"] →
        t.link.spacing = s.link.spacing)
    ∧ (c.isNoneOf ["FRAME_ARRIVAL"] → t.link.buffers = s.link.buffers)
    ∧ (c.isNoneOf ["END_OF_PRIORITY_FIELD", "BIT_ERROR", "FRAME_ARRIVAL"] →
        t.link.filling = s.link.filling ∧ t.link.intoNothing = s.link.intoNothing)
    ∧ (c.isNoneOf ["END_OF_PRIORITY_FIELD", "BIT_ERROR", "FRAME_ARRIVAL", "APPLICATION_END"] →
        t.link.freeList = s.link.freeList)
    ∧ (c.isNoneOf ["FRAME_ARRIVAL", "FRAME_APPLICATION"] → t.link.postList = s.link.postList)
    ∧ (c.isNoneOf ["FRAME_APPLICATION", "APPLICATION_END"] → t.link.applying = s.link.applying)
    ∧ (c.isNoneOf ["PASS_END", "APPLICATION_END"] → t.link.draining = s.link.draining)
    ∧ (c.isNoneOf ["PASS_END", "FRAME_APPLICATION"] → t.link.drainLeft = s.link.drainLeft)
    ∧ (c.isNoneOf ("FRAME_APPLICATION" :: "TRANSMISSION_COMPLETION" :: requestNames) →
        t.mailbox = s.mailbox)
    ∧ (c.isNoneOf ("FRAME_APPLICATION" :: "TRANSMISSION_COMPLETION" :: "ARBITRATION_LOSS" ::
          "BIT_ERROR" :: requestNames) →
        t.link.replySlot = s.link.replySlot)
    ∧ (c.isNoneOf ["FRAME_APPLICATION", "AGE_EXPIRY", "PASS_START", "PASS_END"] →
      t.view.peers = s.view.peers)
    ∧ (c.isNoneOf ["FRAME_APPLICATION"] → t.view.everSeen = s.view.everSeen)
    ∧ (c.isNoneOf ["FRAME_APPLICATION", "AGE_EXPIRY", "PASS_END"] → t.view.tally = s.view.tally)
    ∧ (c.isNoneOf ["FRAME_APPLICATION", "AGE_EXPIRY", "PASS_END", "BIT_ERROR",
          "TRANSMISSION_COMPLETION"] →
        t.view.alone = s.view.alone)
    ∧ (c.isNoneOf ["AGE_EXPIRY", "PASS_END", "BIT_ERROR"] → t.view.sFrozen = s.view.sFrozen)
    ∧ (c.isNoneOf ["PASS_END"] → t.alloc.results = s.alloc.results)
    ∧ (c.isNoneOf ["PASS_START"] → t.alloc.snapshot = s.alloc.snapshot)
    ∧ (c.isNoneOf ["PASS_START", "PASS_END", "LISTEN_TIMER_EXPIRY", "CONFIG_LOAD_COMPLETION"] →
        t.alloc.phase = s.alloc.phase)
    ∧ (c.isNoneOf ["LISTEN_TIMER_EXPIRY", "CONFIG_LOAD_COMPLETION"] →
        t.alloc.listen = s.alloc.listen)
    ∧ (c.isNoneOf ["PASS_START", "EVALUATION_TIMER_EXPIRY"] →
        t.alloc.evaluation = s.alloc.evaluation)
    ∧ (c.isNoneOf ["FRAME_ARRIVAL", "FRAME_APPLICATION", "APPLICATION_END"] →
        t.link.headTaken = s.link.headTaken)
    ∧ (c.isNoneOf (["FRAME_START", "ARBITRATION_LOSS", "HEARTBEAT_EXPIRY", "THROTTLE_CODE_QUALIFICATION",
          "INVALID_CODE_TIMER_EXPIRY", "LAYOVER_CHECK_EXPIRY", "STATUS_READ_COMPLETION",
          "FEEDBACK_QUALIFICATION"] ++ engineEvents) →
        t.link.statusMarked = s.link.statusMarked)
    ∧ (c.isNoneOf (["FRAME_START", "ARBITRATION_LOSS", "FRAME_ARRIVAL", "LEASE_EXPIRY",
          "RECOVERY_TIMER_EXPIRY", "REST_TIMER_EXPIRY"] ++ engineEvents) →
        t.link.claimSlot = s.link.claimSlot)
    ∧ (c.isNoneOf (["PASS_START", "LISTEN_TIMER_EXPIRY", "EVALUATION_TIMER_EXPIRY",
          "THROTTLE_CODE_QUALIFICATION", "INVALID_CODE_TIMER_EXPIRY", "STATUS_READ_COMPLETION",
          "FEEDBACK_QUALIFICATION"] ++ engineEvents) →
        t.alloc.reEvaluate = s.alloc.reEvaluate)
    ∧ (c.isNoneOf engineEvents → t.alloc.stopDelay = s.alloc.stopDelay)
    ∧ (c.isNoneOf (["ARBITRATION_LOSS", "FRAME_ARRIVAL", "LEASE_EXPIRY", "RECOVERY_TIMER_EXPIRY",
          "REST_TIMER_EXPIRY"] ++ engineEvents) →
        t.claim.phase = s.claim.phase)
    ∧ (c.isNoneOf ("LEASE_EXPIRY" :: engineEvents) → t.claim.holder = s.claim.holder)
    ∧ (c.isNoneOf (["LEASE_EXPIRY", "RECOVERY_TIMER_EXPIRY"] ++ engineEvents) →
        t.claim.recovery = s.claim.recovery)
    ∧ (c.isNoneOf engineEvents →
        t.claim.settle = s.claim.settle ∧ t.claim.clock = s.claim.clock
          ∧ t.claim.attempt = s.claim.attempt ∧ t.claim.needStands = s.claim.needStands)
    ∧ (c.isNoneOf ["FRAME_APPLICATION", "LEASE_EXPIRY"] → t.claim.lease = s.claim.lease)
    ∧ (c.isNoneOf ["FRAME_APPLICATION", "FRAME_ARRIVAL"] →
        t.claim.foreignMark = s.claim.foreignMark)
    ∧ (c.isNoneOf ["HEAT_UPDATE"] →
        t.claim.heat = s.claim.heat ∧ t.claim.heatTimer = s.claim.heatTimer)
    ∧ (c.isNoneOf ["STATUS_READ_COMPLETION"] →
        t.port.report = s.port.report ∧ t.port.governorFault = s.port.governorFault
          ∧ t.port.badReads = s.port.badReads ∧ t.port.goodReads = s.port.goodReads)
    ∧ (c.isNoneOf ["GOVERNOR_STATUS_TIMER_EXPIRY", "CONFIG_LOAD_COMPLETION"] →
        t.port.statusTimer = s.port.statusTimer)
    ∧ (c.isNoneOf ["CRANK_TIME_EXPIRY", "HEAT_UPDATE", "PROVING_TIMER_EXPIRY", "REST_TIMER_EXPIRY"] →
        t.seq.rest = s.seq.rest)
    ∧ (c.isNoneOf ["FIRE_CONFIRM_EXPIRY", "SPEED_VALUE", "CONFIG_LOAD_COMPLETION", "MIN_RUN_EXPIRY"] →
        t.seq.minRun = s.seq.minRun)

/-- R1, R2, R127: the engine state, the records of the Sequencer, the four commands with the FUEL latch, the notch, the fault
record and the run phase change only at the events that reach the Sequencer or the Stepper. -/
def Obligations.EngineAndOutputsMoveOnlyAtTheirEvents : Prop :=
  ∀ (c : Instr) (s t : State), exec c s = .next t →
    c.isNoneOf engineEvents →
      t.seq = { s.seq with rest := t.seq.rest } ∧ t.stepper = s.stepper
        ∧ t.standingCommands = s.standingCommands ∧ t.ret = s.ret
        ∧ t.mon.runPhase = s.mon.runPhase ∧ t.mon.grace = s.mon.grace
        ∧ t.mon.stall = s.mon.stall

/-! ## Frames and their fields -/

/-- R49, R187: a STATUS record whose fields lie in their ranges comes back from its ten data bytes with every field as it was; the
fields of a CLAIM and the outcome of a RELEASE do too (R50). -/
def Obligations.FrameFieldsSurviveTheirLayout : Prop :=
  (∀ r : StatusRecord, r.inRange = true →
      decodeStatus (encodeStatus r) = some r ∧ (encodeStatus r).length = 10)
    ∧ (∀ c : ClaimFields, 20 ≤ c.crankLimit → c.crankLimit ≤ 250 → 1 ≤ c.attempt → c.attempt ≤ 5 →
        decodeClaim (encodeClaim c) = some c)
    ∧ ∀ o : ReleaseOutcome, decodeRelease [byteOf o.code] = some o

namespace Sys2Proof.Machine

/-- The fields of a STATUS lie in the ranges of R49, at the places of R187. -/
abbrev StatusFields (d : List Byte) : Prop :=
  dataByte d 1 / 16 ≤ 13 ∧ dataByte d 1 % 16 ≤ 8 ∧ dataByte d 2 / 16 ≤ 8
    ∧ (dataByte d 2 % 16 ≤ 8 ∨ dataByte d 2 % 16 = 15)
    ∧ dataWord d 3 % 2048 ≤ 2000 ∧ dataWord d 5 % 16384 ≤ 15625
    ∧ (dataByte d 8 % 64 ≤ 12 ∨ 16 ≤ dataByte d 8 % 64 ∧ dataByte d 8 % 64 ≤ 36)

end Sys2Proof.Machine

/-- R45 to R51: a frame is good exactly when none of the grounds of R48 holds: its kind is defined, its length and its source are
those of its kind, the check is the computed one, every end-field bit is released, and the fields of a CLAIM, RELEASE or STATUS lie
in their ranges. What a station numbered 1..7 puts on the line is a good frame for those that receive it: its STATUS whenever its
values lie in the ranges that the part keeps, its CLAIM whenever CRANK_TIME and attempt number do, its RELEASE always, its REPLY with
at most ten data bytes. -/
def Obligations.OwnFramesAreGoodFrames : Prop :=
  (∀ f : RawFrame, goodFrame f = true ↔
    f.data.length = f.length.toNat ∧ f.check = crc (coveredBits f) ∧ f.endField = 127
      ∧ (f.kind = 0 ∧ f.length = 2 ∧ f.source ≠ 0
            ∧ (20 ≤ dataByte f.data 1 ∧ dataByte f.data 1 ≤ 250)
            ∧ (1 ≤ dataByte f.data 2 ∧ dataByte f.data 2 ≤ 5)
        ∨ f.kind = 1 ∧ f.length = 1 ∧ f.source ≠ 0
            ∧ (1 ≤ dataByte f.data 1 ∧ dataByte f.data 1 ≤ 3)
        ∨ f.kind = 2 ∧ f.length = 10 ∧ f.source ≠ 0 ∧ StatusFields f.data
        ∨ f.kind = 3 ∧ f.length = 3 ∧ f.source = 0
        ∨ f.kind = 4 ∧ (2 ≤ f.length.toNat ∧ f.length.toNat ≤ 12) ∧ f.source ≠ 0))
  ∧ ∀ s : State, 1 ≤ s.load.station → s.load.station ≤ 7 →
      (NotchLaw s → ConditionLaw s → s.mon.capacity ≤ 2000 → s.load.hours ≤ 999999 →
          s.cab.demand ≤ 8 → s.params.crankTime ≤ 250 → goodFrame (s.frameFor .status) = true)
      ∧ (∀ c : ClaimFields, s.link.claimSlot = .claimPending c → 20 ≤ c.crankLimit →
          c.crankLimit ≤ 250 → 1 ≤ c.attempt → c.attempt ≤ 5 →
          goodFrame (s.frameFor .claim) = true)
      ∧ (∀ o : ReleaseOutcome, s.link.claimSlot = .releasePending o →
          goodFrame (s.frameFor .release) = true)
      ∧ ∀ q : Reply, s.link.replySlot = some q → q.data.length ≤ 10 →
          goodFrame (s.frameFor .reply) = true

/-- R46: the check tells a frame from every frame that differs from it in one bit: bits that differ in exactly one place never have
the same check. -/
def Obligations.CheckTellsOneBitErrors : Prop :=
  ∀ (before after : List Bool) (b : Bool),
    crc (before ++ b :: after) ≠ crc (before ++ (!b) :: after)

namespace Sys2Proof.Machine

/-- The order of the condition classes, the strongest first (R161). -/
def CondClass.rank : CondClass → Nat
  | .shutdown => 0 | .stop => 1 | .unload => 2 | .derate => 3 | .inhibitStart => 4 | .alarm => 5

/-- A member stands before another by class strength, then by lowest code (R161, R186). -/
abbrev Member.standsBefore (a b : Member) : Prop :=
  a.cls.rank < b.cls.rank ∨ a.cls = b.cls ∧ a.code ≤ b.code

/-- The data of READ_SELF by R188's table. -/
abbrev ReadsSelf (s : State) (d : List Byte) : Prop :=
  dataByte d 1 = s.seq.state.code * 16 + s.stepper.notch
    ∧ dataByte d 2 = s.alloc.results.target * 16 + s.cab.demand
    ∧ dataWord d 3 / 16384 = (match s.cab.source with
        | .localLines => 0 | .held => 1 | .peers => 2 | .default => 3)
    ∧ dataWord d 3 / 8192 % 2 = bit s.seq.resumed ∧ dataWord d 3 / 4096 % 2 = bit s.view.everSeen
    ∧ dataWord d 3 / 2048 % 2 = bit s.cab.batteryNeed ∧ dataWord d 3 % 2048 = s.alloc.results.share
    ∧ dataWord d 5 / 8192 = s.seq.attempts
    ∧ dataWord d 5 / 4096 % 2 = (match s.cab.mode with | .service => 1 | .layover => 0)
    ∧ dataWord d 5 / 2048 % 2 = bit s.view.alone ∧ dataWord d 5 % 2048 = s.mon.capacity
    ∧ dataWord d 7 / 32768 = bit s.cab.coldRun ∧ dataWord d 7 % 512 = s.mon.derate
    ∧ dataWord d 9 = s.claim.heat

/-- The time since an entry's source was last heard, in ms (R84). -/
def PeerEntry.silence (e : PeerEntry) : Nat :=
  match e.age with
  | .stopped => 0
  | .running left => 1000 - left
  | .expired => 1000

/-- The data of READ_PEER by R188's table: the record in the STATUS layout (R187), or zeros. -/
abbrev ReadsPeer (e : PeerEntry) (d : List Byte) : Prop :=
  dataWord d 5 / 16384 = (match e.presence with | .absent => 0 | .present => 1 | .lost => 2)
    ∧ dataByte d 10 = bit e.record.isSome * 128 + e.silence / 10
    ∧ (∀ r, e.record = some r → r.inRange = true →
        dataByte d 1 = r.state.code * 16 + r.notch ∧ dataByte d 2 = r.target * 16 + r.demand
          ∧ dataWord d 3 = r.capacity ∧ dataWord d 5 % 16384 = r.bucket
          ∧ dataByte d 7 = bit r.eligible * 128 + bit r.claimHeld * 64 + bit r.alone * 32
              + bit r.batteryNeed * 16 + bit r.coldRun * 8 + bit r.alarmActive * 4
              + bit r.runSeen * 2
          ∧ dataByte d 8 = r.summary ∧ dataByte d 9 = r.claimRemaining)
    ∧ (e.record = none →
        d.take 4 = [0, 0, 0, 0] ∧ dataWord d 5 % 16384 = 0 ∧ (d.drop 6).take 3 = [0, 0, 0])

/-- The data of READ_FAULT_RECORD by R188's table. -/
abbrev ReadsRecord (record : Option FaultRecord) (d : List Byte) : Prop :=
  (record = none → d = [0, 0, 0, 0, 0, 0, 0])
    ∧ ∀ r, record = some r → r.cause ≤ 36 → r.speed ≤ 3000 → r.notch ≤ 8 → r.hours ≤ 999999 →
        dataByte d 1 = r.cause ∧ dataByte d 2 = r.state.code * 16 + r.notch ∧ dataWord d 3 = r.speed
          ∧ dataByte d 5 * 65536 + dataWord d 6 = r.hours

/-- The data of READ_HOURS by R188's table. -/
abbrev ReadsHours (s : State) (d : List Byte) : Prop :=
  dataByte d 1 * 65536 + dataWord d 2 = s.load.hours ∧ dataByte d 4 = s.ret.minutes
    ∧ dataByte d 5 * 65536 + dataWord d 6 = s.ret.shadow
    ∧ dataByte d 8 = (match s.load.startRecord.kind with | .core => 128 | .powerOn => 0)
        + bit s.load.startRecord.wasRunning * 64
    ∧ dataWord d 9 = s.load.hours / 64

/-- The data of READ_INPUTS 0 by R188's table; before a throttle code is qualified its four bits are the model's choice (log 31). -/
abbrev ReadsCab (s : State) (d : List Byte) : Prop :=
  dataByte d 1 = bit s.cab.run.sampled * 128 + bit s.cab.estop.sampled * 64
      + bit s.cab.faultReset.sampled * 32 + bit s.cab.isolate.sampled * 16
      + (s.cab.sampledCode % 2) * 8 + (s.cab.sampledCode / 2 % 2) * 4
      + (s.cab.sampledCode / 4 % 2) * 2 + s.cab.sampledCode / 8 % 2
    ∧ dataByte d 2 = bit s.cab.run.qualified * 128 + bit s.cab.estop.qualified * 64
        + bit s.cab.faultReset.qualified * 32 + bit s.cab.isolate.qualified * 16
        + bit s.cab.run.qualifiedYet * 8 + bit s.cab.estop.qualifiedYet * 4
        + bit s.cab.faultReset.qualifiedYet * 2 + bit s.cab.isolate.qualifiedYet
    ∧ (s.cab.qualifiedCode = none → dataByte d 3 / 128 = 0)
    ∧ (∀ c, s.cab.qualifiedCode = some c → c ≤ 15 → dataByte d 3 = 128 + c)
    ∧ ∀ k : Fin 12, dataWord d 4 / 2 ^ k.val % 2 = bit s.mon.inputs[k].closed
        ∧ dataWord d 6 / 2 ^ k.val % 2 = bit s.mon.inputs[k].active

/-- The data of READ_INPUTS 1 by R188's table. -/
abbrev ReadsAnalog (s : State) (d : List Byte) : Prop :=
  dataWord d 1 = bit s.mon.coolant.fault * 32768 + s.mon.coolant.raw
    ∧ dataWord d 3 = bit s.mon.oil.fault * 32768 + s.mon.oil.raw
    ∧ dataWord d 5 = bit s.mon.battery.fault * 32768 + s.mon.battery.raw
    ∧ (dataByte d 7 : Int) = s.mon.coolant.value + 40
    ∧ ((dataByte d 8 * 65536 + dataWord d 9) / 1024 : Nat) = s.mon.oil.value
    ∧ ((dataByte d 8 * 65536 + dataWord d 9) % 1024 : Nat) = s.mon.battery.value

/-- The proof state's number in R188's table. -/
def ProofState.number : ProofState → Nat
  | .agree => 0 | .proving => 1 | .disagree => 2

/-- The data of READ_INPUTS 2 by R188's table. -/
abbrev ReadsOutputs (s : State) (d : List Byte) : Prop :=
  dataWord d 1 = s.mon.speed
    ∧ dataByte d 3 = bit s.out.crank * 16 + bit s.ret.fuelLatch * 8 + bit s.out.prelube * 4
        + bit s.out.loadPermit * 2 + bit s.out.alarm
    ∧ dataByte d 4 = bit s.out.crankProving.feedback.sampled * 64
        + bit s.out.fuelProving.feedback.sampled * 32 + bit s.out.prelubeProving.feedback.sampled * 16
        + bit s.out.crankProving.feedback.qualified * 4 + bit s.out.fuelProving.feedback.qualified * 2
        + bit s.out.prelubeProving.feedback.qualified
    ∧ dataByte d 5 = s.out.crankProving.proof.number * 16 + s.out.fuelProving.proof.number * 4
        + s.out.prelubeProving.proof.number

/-- The data of READ_INPUTS 3 by R188's table. -/
abbrev ReadsGovernor (s : State) (d : List Byte) : Prop :=
  d.take 4 = [s.port.report.signature, s.port.report.state, s.port.report.faultCode,
      s.port.report.fuelDemand]
    ∧ dataByte d 5 = bit s.port.governorFault * 128 + s.port.badReads * 16 + s.port.goodReads

/-- The values that the replies carry lie in the ranges that the rules give them. -/
abbrev State.reportable (s : State) : Prop :=
  s.stepper.notch ≤ 8 ∧ s.alloc.results.target ≤ 8 ∧ s.cab.demand ≤ 8
    ∧ s.alloc.results.share ≤ 2000 ∧ s.seq.attempts ≤ 5 ∧ s.mon.capacity ≤ 2000
    ∧ s.mon.derate ≤ 256 ∧ s.claim.heat ≤ 65535 ∧ s.load.hours ≤ 999999 ∧ s.ret.minutes ≤ 59
    ∧ s.ret.shadow ≤ 999999 ∧ s.mon.speed ≤ 3000 ∧ s.port.badReads ≤ 2 ∧ s.port.goodReads ≤ 2
    ∧ s.mon.coolant.raw ≤ 1023 ∧ s.mon.oil.raw ≤ 1023 ∧ s.mon.battery.raw ≤ 1023
    ∧ (-40 ≤ s.mon.coolant.value ∧ s.mon.coolant.value ≤ 150)
    ∧ (0 ≤ s.mon.oil.value ∧ s.mon.oil.value ≤ 1000)
    ∧ (0 ≤ s.mon.battery.value ∧ s.mon.battery.value ≤ 1000)

/-- A cause that a stop can have (R165): a latched member of class SHUTDOWN or STOP. -/
abbrev Member.latchedCause (m : Member) : Prop :=
  m.latched = true ∧ (m.cls = .shutdown ∨ m.cls = .stop)

end Sys2Proof.Machine

/-- R51, R161, R186, R188: every reply fits the ten data bytes of a REPLY; the replies to the six requests have the lengths of 11.3,
and their data read by R188's table give the values that stand; a refused request has no data. READ_CONDITIONS gives the first ten of
a list that holds exactly the members of the condition set, by class strength and then by lowest code, and the fault summary is the
first of that list. R165: the cause code of the fault record is that of the latched member of class SHUTDOWN or STOP with the greatest
active time, equal times going by class strength and then lowest code; without such a member it is the fault summary. -/
def Obligations.RepliesHaveTheirLengthsAndOrder : Prop :=
  (∀ (s : State) (q : Request),
    let reply := s.replyTo q
    let n := q.argument.toNat
    reply.code = q.code ∧ reply.data.length ≤ 10
      ∧ (q.code = 1 → reply.result = 0 ∧ reply.data.length = 10)
      ∧ (q.code = 2 → 1 ≤ n → n ≤ 7 → reply.result = 0 ∧ reply.data.length = 10)
      ∧ (q.code = 2 → n = 0 ∨ 8 ≤ n → reply.result = 2 ∧ reply.data = [])
      ∧ (q.code = 3 → reply.result = 0 ∧ reply.data.length = min 10 s.mon.conditions.length)
      ∧ (q.code = 4 → reply.result = 0 ∧ reply.data.length = 7)
      ∧ (q.code = 5 → reply.result = 0 ∧ reply.data.length = 10)
      ∧ (q.code = 6 → n = 0 → reply.result = 0 ∧ reply.data.length = 7)
      ∧ (q.code = 6 → n = 1 → reply.result = 0 ∧ reply.data.length = 10)
      ∧ (q.code = 6 → n = 2 ∨ n = 3 → reply.result = 0 ∧ reply.data.length = 5)
      ∧ (q.code = 6 → 4 ≤ n → reply.result = 2 ∧ reply.data = [])
      ∧ (q.code.toNat = 0 ∨ 7 ≤ q.code.toNat → reply.result = 1 ∧ reply.data = [])
      ∧ (s.reportable →
          (q.code = 1 → ReadsSelf s reply.data)
            ∧ (∀ i : Fin 7, q.code = 2 → n = i.val + 1 → ReadsPeer (s.view.entry i) reply.data)
            ∧ (q.code = 4 → ReadsRecord s.ret.record reply.data)
            ∧ (q.code = 5 → ReadsHours s reply.data)
            ∧ (q.code = 6 → n = 0 → ReadsCab s reply.data)
            ∧ (q.code = 6 → n = 1 → ReadsAnalog s reply.data)
            ∧ (q.code = 6 → n = 2 → ReadsOutputs s reply.data)
            ∧ (q.code = 6 → n = 3 → ReadsGovernor s reply.data)))
  ∧ (∀ (s : State) (q : Request), q.code = 3 → ∃ l : List Member,
      l.Perm s.mon.conditions ∧ l.Pairwise Member.standsBefore
        ∧ (s.replyTo q).data = (l.take 10).map (fun m => byteOf m.code)
        ∧ faultSummary s.mon.conditions = (l.head?.map (·.code)).getD 0)
  ∧ ∀ l : List Member,
      ((∀ m ∈ l, ¬ m.latchedCause) → recordCause l = faultSummary l)
        ∧ ((∃ m ∈ l, m.latchedCause) →
            ∃ m ∈ l, m.latchedCause ∧ recordCause l = m.code
              ∧ ∀ x ∈ l, x.latchedCause →
                  x.activeMs < m.activeMs ∨ x.activeMs = m.activeMs ∧ m.standsBefore x)

/-- R37, R83: the peer majority is the lowest of the notches with the greatest count, and none when no count is above zero. -/
def Obligations.MajorityIsTheLowestOfTheMostFrequent : Prop :=
  ∀ tally : List Nat,
    ((∀ n ∈ tally, n = 0) → majority tally = none)
      ∧ ((∃ n ∈ tally, 0 < n) → ∃ e, majority tally = some e ∧ e < tally.length
          ∧ (∀ n ∈ tally, n ≤ tally.getD e 0)
          ∧ ∀ k, k < e → tally.getD k 0 < tally.getD e 0)

/-! ## The arithmetic of a pass -/

/-- R92: this station is eligible when its state, its ESTOP line and its condition set allow it; the same test gives the flag of the
STATUS record and, at a pass start, the one of the self entry, which the pass publishes as self eligible. -/
def Obligations.EligibilityIsTheTestOfFiveConditions : Prop :=
  ∀ s : State,
    (s.eligible = true ↔
      s.seq.state ∉ [.init, .isolated, .stopping, .faulted] ∧ s.cab.estop.qualified = false
        ∧ (∀ m ∈ s.mon.conditions, m.cls ≠ .stop ∧ m.cls ≠ .shutdown ∧ m.cls ≠ .unload)
        ∧ (s.seq.state = .stopped → ∀ m ∈ s.mon.conditions, m.cls ≠ .inhibitStart)
        ∧ ∀ m ∈ s.mon.conditions, m.code ≠ 34)
    ∧ s.selfRecord.eligible = s.eligible
    ∧ (s.eligible = true → s.seq.state.rankClass.isSome = true)
    ∧ ∀ me, s.alloc.snapshot.self = some me → s.passResults.selfEligible = me.eligible

/-- R93, R94: E holds the station at a number exactly when the record that the pass reads there (the snapshot's at the own number, a
PRESENT peer's) is flagged eligible and its engine state has a class; it stands in E with its class, bucket and capacity; E is
sorted strictly by class, then hours bucket, then station number; it holds at most seven stations. -/
def Obligations.RankingSortsTheEligibleStations : Prop :=
  ∀ s : State,
    s.ranking.Pairwise Ranked.precedes ∧ s.ranking.length ≤ 7
      ∧ ∀ x : Ranked, x ∈ s.ranking ↔
          ∃ (i : Fin 7) (r : StatusRecord),
            s.passRecord i = some r ∧ r.eligible = true ∧ r.state.rankClass = some x.cls
              ∧ x.number = i.val + 1 ∧ x.bucket = r.bucket ∧ x.capacity = r.capacity
              ∧ x.online = (r.state == .online) ∧ x.batteryNeed = r.batteryNeed

/-- R95: in SERVICE the demand power is NPT of the demand notch, 0 at notch 0, and the margined demand adds MARGIN percent rounded up;
in LAYOVER both are 0. With NPT at most 20000 and MARGIN at most 50, D is at most 20000 and D_m at most 30000; with MARGIN 0 they
are equal. -/
def Obligations.DemandPowerComesFromTheNotch : Prop :=
  ∀ (p : Params) (notch : Nat),
    demandPower p .layover notch = 0 ∧ demandPower p .service 0 = 0
      ∧ (1 ≤ notch → demandPower p .service notch = p.npt.getD (notch - 1) 0)
      ∧ marginedDemand p 0 = 0
      ∧ (∀ d, (marginedDemand p d - d) * 100 < d * p.margin + 100
          ∧ d * p.margin ≤ (marginedDemand p d - d) * 100 ∧ d ≤ marginedDemand p d)
      ∧ (∀ d, p.margin = 0 → marginedDemand p d = d)
      ∧ ((∀ x ∈ p.npt, x ≤ 20000) → p.margin ≤ 50 →
          demandPower p .service notch ≤ 20000
            ∧ marginedDemand p (demandPower p .service notch) ≤ 30000)

/-- R96: in SERVICE the needed count is the greater of n_dem and min(MINRUN, |E|), where n_dem is 0 for D_m = 0, else the smallest
k ≥ 1 whose first k stations together have at least D_m, else |E|; a peer counts with the capacity of its record, this station
with the one of the snapshot. -/
def Obligations.NeededCountInServiceCoversTheDemand : Prop :=
  (∀ (p : Params) (d : Nat) (e : List Ranked), ∃ n : Nat,
    neededCount p .service d e = max n (min p.minRunEngines e.length)
      ∧ n ≤ e.length
      ∧ (marginedDemand p d = 0 → n = 0)
      ∧ (0 < marginedDemand p d → 0 < e.length → 1 ≤ n)
      ∧ (∀ k, 1 ≤ k → k < n → ((e.take k).map (·.capacity)).sum < marginedDemand p d)
      ∧ (marginedDemand p d ≤ ((e.take n).map (·.capacity)).sum ∨ n = e.length))
  ∧ ∀ (s : State) (x : Ranked), x ∈ s.ranking →
      ∃ i : Fin 7, x.number = i.val + 1
        ∧ (s.load.station = i.val + 1 →
            ∃ me, s.alloc.snapshot.self = some me ∧ x.capacity = me.capacity)
        ∧ (s.load.station ≠ i.val + 1 →
            ∃ r, (s.view.entry i).record = some r ∧ x.capacity = r.capacity)

/-- R97: in LAYOVER the needed count is min(1, |E|) when a station of E has its battery-need flag set and 0 otherwise, whatever
MINRUN; the flag is a peer's record's or the self entry's. A pass confirms a cold run exactly when it runs in LAYOVER, this
station is in E and the self entry's cold-run flag is set, whatever the station's rank. -/
def Obligations.LayoverServesBatteryAndColdRun : Prop :=
  ∀ (p : Params) (d : Nat) (e : List Ranked) (s : State),
    ((∃ x ∈ e, x.batteryNeed = true) → neededCount p .layover d e = min 1 e.length)
      ∧ ((∀ x ∈ e, x.batteryNeed = false) → neededCount p .layover d e = 0)
      ∧ (s.passResults.coldRunConfirmed = true ↔
          s.alloc.snapshot.mode = .layover
            ∧ (∃ me, s.alloc.snapshot.self = some me ∧ me.coldRun = true)
            ∧ ∃ x ∈ s.ranking, x.number = s.load.station)
      ∧ ∀ x ∈ s.ranking, ∃ i : Fin 7, x.number = i.val + 1
          ∧ (s.load.station = i.val + 1 →
              ∃ me, s.alloc.snapshot.self = some me ∧ x.batteryNeed = me.batteryNeed)
          ∧ (s.load.station ≠ i.val + 1 →
              ∃ r, (s.view.entry i).record = some r ∧ x.batteryNeed = r.batteryNeed)

/-- R98: this station is ranked in when it is in E and its rank is at most n; it has a run basis when it is ranked in or a cold run is
confirmed; n never exceeds |E|, and a station is ranked in only when it is itself eligible; in SERVICE its cold-run flag is clear
(R41, as the law of the Cab Line Unit). -/
def Obligations.RankedInMeansWithinTheNeededCount : Prop :=
  ∀ (s : State) (me : StatusRecord),
    s.alloc.snapshot.self = some me → 1 ≤ s.load.station → s.load.station ≤ 7 →
      (s.passResults.rankedIn = true ↔
        ∃ x ∈ s.ranking.take (neededCount s.params s.alloc.snapshot.mode
            (demandPower s.params s.alloc.snapshot.mode s.alloc.snapshot.demand) s.ranking),
          x.number = s.load.station)
      ∧ neededCount s.params s.alloc.snapshot.mode
          (demandPower s.params s.alloc.snapshot.mode s.alloc.snapshot.demand) s.ranking
            ≤ s.ranking.length
      ∧ (s.passResults.rankedIn = true → me.eligible = true)
      ∧ (s.passResults.runBasis = true ↔
          s.passResults.rankedIn = true ∨ s.passResults.coldRunConfirmed = true)
      ∧ (LayoverLaw s → s.cab.mode = .service → s.cab.coldRun = false)

/-- R99, R100, R101: S_load is the sum of C over the ONLINE stations within the needed count; a station that is not ranked in, or not
ONLINE, has share 0; one that is has the share of the first case that holds, with S_frozen for S_load while ALONE; the share never
exceeds C. -/
def Obligations.ShareIsTheFractionOfTheDemand : Prop :=
  ∀ (s : State) (me : StatusRecord),
    s.alloc.snapshot.self = some me →
      let snap := s.alloc.snapshot
      let d := demandPower s.params snap.mode snap.demand
      let r := s.passResults
      r.sLoad = onlineCapacity (s.ranking.take (neededCount s.params snap.mode d s.ranking))
        ∧ (r.rankedIn = false ∨ me.state ≠ .online → r.share = 0)
        ∧ (r.rankedIn = true → me.state = .online →
            (d = 0 → r.share = 0)
              ∧ (0 < d → snap.alone = false → r.sLoad ≤ d → r.share = me.capacity)
              ∧ (0 < d → snap.alone = false → d < r.sLoad →
                  r.share = (d * me.capacity + (r.sLoad - 1)) / r.sLoad)
              ∧ (0 < d → snap.alone = true → snap.sFrozen ≤ d → r.share = me.capacity)
              ∧ (0 < d → snap.alone = true → d < snap.sFrozen →
                  r.share
                    = min me.capacity ((d * me.capacity + (snap.sFrozen - 1)) / snap.sFrozen)))
        ∧ r.share ≤ me.capacity

/-- R100: when every ONLINE station ranked in takes its share of the same S_load > D, the shares together cover D, and with m
stations exceed it by at most m − 1 kW. -/
def Obligations.SharesTogetherCoverTheDemand : Prop :=
  ∀ (capacities : List Nat) (d : Nat),
    0 < d → d < capacities.sum →
      d ≤ (capacities.map fun c => shareOf d c capacities.sum 0 false).sum
        ∧ (capacities.map fun c => shareOf d c capacities.sum 0 false).sum
            ≤ d + (capacities.length - 1)

/-- R103: the uncapped target is 0 for share 0, else the lowest notch e in 1..8 whose power step reaches the share, else 8; where the
steps do not decrease, every higher notch carries the share too. R104: the cap is the highest notch whose power step lies within
C, 0 when there is none; the published target is the lower of uncapped target and cap, and 0 when the snapshot's state is not
ONLINE, an UNLOAD condition is in the snapshot or the station is not ranked in. -/
def Obligations.TargetNotchIsTheLowestThatCarriesAndIsCapped : Prop :=
  (∀ (steps : List Nat) (share : Nat), steps.length = 8 →
    (share = 0 → uncappedTarget steps share = 0)
      ∧ (0 < share → 1 ≤ uncappedTarget steps share ∧ uncappedTarget steps share ≤ 8)
      ∧ (0 < share → (∃ x ∈ steps, share ≤ x) →
          share ≤ steps.getD (uncappedTarget steps share - 1) 0
            ∧ ∀ e, 1 ≤ e → e < uncappedTarget steps share → steps.getD (e - 1) 0 < share)
      ∧ (0 < share → (∀ x ∈ steps, x < share) → uncappedTarget steps share = 8)
      ∧ (0 < share → (∃ x ∈ steps, share ≤ x) → steps.Pairwise (· ≤ ·) →
          ∀ e, uncappedTarget steps share ≤ e → e ≤ 8 → share ≤ steps.getD (e - 1) 0))
  ∧ (∀ (steps : List Nat) (c : Nat), steps.length = 8 →
      notchCap steps c ≤ 8
        ∧ (1 ≤ notchCap steps c → steps.getD (notchCap steps c - 1) 0 ≤ c)
        ∧ ∀ e, notchCap steps c < e → e ≤ 8 → c < steps.getD (e - 1) 0)
    ∧ ∀ (s : State) (me : StatusRecord),
        s.alloc.snapshot.self = some me → s.alloc.powerSteps.length = 8 →
          s.passResults.target ≤ 8
            ∧ (me.state ≠ .online ∨ s.alloc.snapshot.unload = true ∨ s.passResults.rankedIn = false →
                s.passResults.target = 0)
            ∧ (me.state = .online → s.alloc.snapshot.unload = false →
                s.passResults.rankedIn = true →
                s.passResults.target
                  = min (uncappedTarget s.alloc.powerSteps s.passResults.share)
                      (notchCap s.alloc.powerSteps me.capacity))

namespace Sys2Proof.Machine

/-- A stored value forced into a range (R177). -/
abbrev within (lo hi x : Nat) : Nat := min hi (max lo x)

/-- A list whose entries are raised in turn (R178, steps 1 to 3): the first to `lo`, each other to its predecessor. -/
abbrev RaisedInTurn (lo : Nat) (stored : Nat → Nat) (l : List Nat) : Prop :=
  l.length = 8 ∧ l.Pairwise (· ≤ ·) ∧ l.getD 0 0 = max lo (stored 0)
    ∧ ∀ k, 1 ≤ k → k < 8 → l.getD k 0 = max (l.getD (k - 1) 0) (stored k)

end Sys2Proof.Machine

/-- R102, R177, R178, R189: whatever bytes an image holds, each parameter is the field at its place in the image (R189), clamped to its
range (R177) and corrected (R178), NPT, ENT_SPEED and ENT_FRAC rising in turn; the results lie in R177's ranges; a routing entry and
the hours come from their places too. The power steps are floor(R × ENT_FRAC / 256), eight of them, do not decrease, and the last is at
most R. -/
def Obligations.LoadedParametersAreClampedAndOrdered : Prop :=
  ∀ image : List Byte,
    let p := paramsOf image
    let b (a : Nat) : Nat := (image.getD a 0).toNat
    let w (a : Nat) : Nat := b a * 256 + b (a + 1)
    let speed (k : Nat) : Nat :=
      if k % 2 = 0 then b (19 + 3 * (k / 2)) * 16 + b (20 + 3 * (k / 2)) / 16
      else b (20 + 3 * (k / 2)) % 16 * 256 + b (21 + 3 * (k / 2))
    (p.ratedPower = within 100 2000 (w 1) ∧ p.idleSpeed = within 400 1000 (w 39)
      ∧ p.fireSpeed = within 100 400 (w 41) ∧ p.teeth = within 30 240 (b 45)
      ∧ p.margin = min 50 (b 46) ∧ p.minRunEngines = min 7 (b 47) ∧ p.prelubeTime = min 120 (b 48)
      ∧ p.prelubePressure = within 10 300 (w 49) ∧ p.crankTime = within 20 250 (b 51)
      ∧ p.restTime = within 5 120 (b 52) ∧ (p.prelubeRequired = true ↔ 128 ≤ b 53)
      ∧ p.maxAttempts = within 1 5 (b 53 % 128) ∧ p.recoveryTime = within 2 60 (b 54)
      ∧ p.runupTime = within 5 30 (b 55) ∧ p.oilGrace = within 5 30 (b 56)
      ∧ p.oilMinRun = within 50 400 (w 57) ∧ p.warmMin = min 600 (w 59)
      ∧ p.tWarm = within 20 80 (b 63) ∧ p.dwellUp = within 5 200 (b 64)
      ∧ p.dwellDown = within 2 100 (b 65) ∧ p.stopDelay = within 10 900 (w 66)
      ∧ p.minRun = within 30 1800 (w 68) ∧ p.cooldown = min 600 (w 70)
      ∧ p.stopLimit = within 10 60 (b 72) ∧ p.tDerate = within 70 115 (b 73)
      ∧ p.layoverCheck = within 5 60 (b 75) ∧ p.tCold = min 40 (b 76)
      ∧ p.vLow = min 999 (b 78 * 16 + b 79 / 16) ∧ p.heatInc = within 1 4095 (w 81)
      ∧ p.heatDecay = within 1 255 (b 83) ∧ p.heatOk = min 65534 (w 84))
    ∧ (p.overspeed = max (within 1000 2600 (w 43)) (p.entSpeed.getD 7 0 + 50)
      ∧ p.tTrip = max (within 75 125 (b 74)) (p.tDerate + 5)
      ∧ p.warmMax = max (min 1800 (w 61)) p.warmMin
      ∧ p.tWarmStop = max (within 10 80 (b 77)) (p.tCold + 10)
      ∧ p.vOk = max (within 1 1000 (b 79 % 16 * 256 + b 80)) (p.vLow + 1)
      ∧ p.heatTrip = max (within 1 65535 (w 86)) (p.heatOk + 1))
    ∧ RaisedInTurn 0 (fun k => min 20000 (w (3 + 2 * k))) p.npt
    ∧ RaisedInTurn p.idleSpeed (fun k => min 2100 (speed k)) p.entSpeed
    ∧ RaisedInTurn 1 (fun k => b (31 + k) + 1) p.entFrac
    ∧ ((∀ x ∈ p.npt, x ≤ 20000) ∧ (∀ x ∈ p.entSpeed, p.idleSpeed ≤ x ∧ x ≤ 2100)
      ∧ (∀ x ∈ p.entFrac, 1 ≤ x ∧ x ≤ 256) ∧ 1000 ≤ p.overspeed ∧ p.overspeed ≤ 2600
      ∧ p.warmMax ≤ 1800 ∧ 75 ≤ p.tTrip ∧ p.tTrip ≤ 125 ∧ 10 ≤ p.tWarmStop ∧ p.tWarmStop ≤ 80
      ∧ 1 ≤ p.vOk ∧ p.vOk ≤ 1000 ∧ 1 ≤ p.heatTrip ∧ p.heatTrip ≤ 65535)
    ∧ (∀ k : Fin 12, (routingOf image)[k] =
        { enable := decide (128 ≤ b (88 + 3 * k.val))
          activeOpen := decide (64 ≤ b (88 + 3 * k.val) % 128)
          latch := decide (32 ≤ b (88 + 3 * k.val) % 64)
          startMask := decide (16 ≤ b (88 + 3 * k.val) % 32)
          cls := [CondClass.alarm, .derate, .unload, .inhibitStart, .stop].getD
            (b (88 + 3 * k.val) % 8) .shutdown
          qualifyTime := min 100 (b (89 + 3 * k.val))
          derate := min 256 (b (90 + 3 * k.val) + 64) })
    ∧ hoursOf image = min 999999 (w 124 * 65536 + w 126)
    ∧ powerStepsOf p = p.entFrac.map (fun e => p.ratedPower * e / 256)
    ∧ (powerStepsOf p).length = 8 ∧ (powerStepsOf p).Pairwise (· ≤ ·)
    ∧ ∀ x ∈ powerStepsOf p, x ≤ p.ratedPower

/-! ## Resets and the load -/

/-- R182, R183 and the reset values that the chapters give with their state: both resets set the core state to its reset values,
with the station number and link-rate code that the straps read (R174) and CONFIG_READ granted (R175, R137); they differ in the
Retained Store alone, which a power-on reset clears and a core reset keeps. The queue stands (log 29). -/
def Obligations.ResetsSetTheCoreStateAndTreatTheRetainedStore : Prop :=
  ∀ (p : Straps) (s : State),
    (∃ t, exec (.powerOnReset p) s = .next t ∧ CoreAtReset p t ∧ t.load.resetKind = .powerOn
        ∧ t.ret = ⟨false, 0, 0, none, false⟩ ∧ t.pending = s.pending)
      ∧ ∃ t, exec (.coreReset p) s = .next t ∧ CoreAtReset p t ∧ t.load.resetKind = .core
          ∧ t.ret = s.ret ∧ t.pending = s.pending

/-- R135 to R140, R175: a completion of the transaction in flight frees the port and lets the arbiter go on; a CONFIG_READ hands its
eight bytes with their number to the image and adds one to the count; a SETPOINT_WRITE restarts the refresh timer while a setpoint
stands; a HOURS_WRITE does nothing more. The refresh expiry marks SETPOINT_WRITE, the governor status expiry marks STATUS_READ and
restarts with 200 ms. Nothing but port and Loader changes. What a shorter write leaves in the buffer is the model's choice (log 21). -/
def Obligations.PortCompletionsAndTimersDriveTheArbiter : Prop :=
  ∀ (s : State) (n k : Nat) (b1 b2 b3 b4 b5 b6 b7 b8 : Byte),
    (s.port.inFlight = some (.configRead n) → s.load.progress = .reading k →
        ∃ t, exec (.configReadCompletion [b1, b2, b3, b4, b5, b6, b7, b8]) s = .next t
          ∧ t = { s with
              port := t.port
              load := { s.load with
                progress := .reading (k + 1)
                image := s.load.image.take (8 * (n - 1)) ++ [b1, b2, b3, b4, b5, b6, b7, b8]
                  ++ s.load.image.drop (8 * n) } }
          ∧ Granted s { s.port with inFlight := none, buffer := [b1, b2, b3, b4, b5, b6, b7, b8] }
              t.port)
      ∧ (s.port.inFlight = some .setpointWrite →
          ∃ t, exec .setpointWriteCompletion s = .next t ∧ t = { s with port := t.port }
            ∧ Granted s
                { s.port with
                  inFlight := none
                  refresh := if s.stepper.setpoint = none then s.port.refresh else .running 1000 }
                t.port)
      ∧ (s.port.inFlight = some .hoursWrite →
          ∃ t, exec .hoursWriteCompletion s = .next t ∧ t = { s with port := t.port }
            ∧ Granted s { s.port with inFlight := none } t.port)
      ∧ (s.port.refresh.isRunning = true →
        ∃ t, exec .setpointRefreshExpiry s = .next t ∧ t = { s with port := t.port }
          ∧ Granted s { s.port with refresh := .expired, pendSetpointWrite := true } t.port)
      ∧ (s.port.statusTimer.isRunning = true →
          ∃ t, exec .governorStatusTimerExpiry s = .next t ∧ t = { s with port := t.port }
            ∧ Granted s { s.port with statusTimer := .running 200, pendStatusRead := true } t.port)

/-- R142, R143: a STATUS_READ is kept as the governor report and judged by signature 0xA5 and state 0; the counts go by the table;
the third bad read in a row enters FAULT and GOVERNOR_FAULT (33, UNLOAD, not latched) joins, the third good one leaves FAULT and it
leaves; both are a trigger, and ALARM follows. What the four bytes leave of the buffer is the model's choice (log 21). -/
def Obligations.GovernorReadsAreJudged : Prop :=
  ∀ (s : State) (signature state fault fuel : Byte),
    s.port.inFlight = some .statusRead →
      let report : GovernorReport := ⟨signature, state, fault, fuel⟩
      let good : Bool := signature == 0xA5 && state == 0
      let kept : Port := { s.port with
        inFlight := none, report := report
        buffer := [signature, state, fault, fuel] ++ s.port.buffer.drop 4 }
      (s.port.governorFault = false → good = true →
          ∃ t, exec (.statusReadCompletion signature state fault fuel) s = .next t
            ∧ t = { s with port := t.port } ∧ Granted s { kept with badReads := 0 } t.port)
        ∧ (s.port.governorFault = false → good = false → s.port.badReads < 2 →
            ∃ t, exec (.statusReadCompletion signature state fault fuel) s = .next t
              ∧ t = { s with port := t.port }
              ∧ Granted s { kept with badReads := s.port.badReads + 1 } t.port)
        ∧ (s.port.governorFault = false → good = false → 2 ≤ s.port.badReads →
            hasCode s.mon.conditions 33 = false →
            ∃ t, exec (.statusReadCompletion signature state fault fuel) s = .next t
              ∧ Granted s { kept with governorFault := true, badReads := 0, goodReads := 0 } t.port
              ∧ ⟨33, .unload, false, true, 0⟩ ∈ t.mon.conditions ∧ ConditionsBut [33] s t
              ∧ t = { s with
                  port := t.port, mon := { s.mon with conditions := t.mon.conditions }
                  out := { s.out with alarm := true }
                  link := { s.link with statusMarked := t.link.statusMarked }
                  alloc := s.withTrigger.alloc })
        ∧ (s.port.governorFault = true → good = false →
            ∃ t, exec (.statusReadCompletion signature state fault fuel) s = .next t
              ∧ t = { s with port := t.port } ∧ Granted s { kept with goodReads := 0 } t.port)
        ∧ (s.port.governorFault = true → good = true → s.port.goodReads < 2 →
            ∃ t, exec (.statusReadCompletion signature state fault fuel) s = .next t
              ∧ t = { s with port := t.port }
              ∧ Granted s { kept with goodReads := s.port.goodReads + 1 } t.port)
        ∧ (s.port.governorFault = true → good = true → 2 ≤ s.port.goodReads →
            hasCode s.mon.conditions 33 = true →
            (∀ m ∈ s.mon.conditions, m.code = 33 → m.latched = false ∧ m.cls = .unload) →
            ∃ t, exec (.statusReadCompletion signature state fault fuel) s = .next t
              ∧ Granted s { kept with governorFault := false, badReads := 0, goodReads := 0 } t.port
              ∧ hasCode t.mon.conditions 33 = false ∧ ConditionsBut [33] s t
              ∧ t = { s with
                  port := t.port, mon := { s.mon with conditions := t.mon.conditions }
                  out := { s.out with alarm := !t.mon.conditions.isEmpty }
                  link := { s.link with statusMarked := t.link.statusMarked }
                  alloc := s.withTrigger.alloc })

namespace Sys2Proof.Machine

/-- The hours after the load (R180, R182), by the kind of the reset and the marker: those stored in the image, at most 999999, and after
a core reset the shadow when it is greater; with a marker fault the shadow, which a power-on reset has cleared. -/
def State.hoursAfterLoad (s : State) : Nat :=
  let stored := min 999999 (imgWord s.load.image 124 * 65536 + imgWord s.load.image 126)
  match s.load.resetKind, imgByte s.load.image 0 == 0x4B with
  | .powerOn, true => stored
  | .core, true => max stored s.ret.shadow
  | .powerOn, false => 0
  | .core, false => s.ret.shadow

end Sys2Proof.Machine

/-- R52, R60, R87, R110, R141, R151, R152, R155, R176 to R180, R182: the completion of the load, in INIT before the first speed value (a
command of its own, log 22; one after the first speed value ends INIT besides, as the next statement says). The corrected parameters,
the power steps and, with a good marker, the routing table are set; hours, shadow and start record by the kind of reset and the marker;
F and C are computed; a station numbered 1..7 enables its transmitter and starts the heartbeat with 25 ms × number, but not with
ADDRESS_CONFLICT in the set (the model's reading, log 19); recovery, listen, layover and governor timers start, and those of the inputs
that become unmasked, but none for qualify time 0 (the model's reading, log 20); an HOURS_WRITE that is granted leaves the rest of the
port buffer as it stood (the model's choice, log 21); CONFIG_FAULT joins exactly with a marker fault or number 0. The engine state and
its outputs stand. -/
def Obligations.LoadCompletionHandsTheConfigurationOn : Prop :=
  ∀ s : State,
    s.load.progress = .reading 16 → s.seq.state = .init → s.mon.speedYet = false →
      s.alloc.phase = .waitLoad → s.link.txEnabled = false → hasCode s.mon.conditions 35 = false →
      let image := s.load.image
      let good : Bool := imgByte image 0 == 0x4B
      let stored := min 999999 (imgWord image 124 * 65536 + imgWord image 126)
      let hours := s.hoursAfterLoad
      ∃ t, exec .configLoadCompletion s = .next t
        ∧ t.params = paramsOf image ∧ t.alloc.powerSteps = powerStepsOf (paramsOf image)
        ∧ t.mon.routing = (if good then routingOf image else s.mon.routing)
        ∧ t.load = { s.load with
            progress := .done, markerFault := !good, hours := hours
            startRecord := ⟨s.load.resetKind, s.ret.wasRunning⟩ }
        ∧ t.ret = { s.ret with shadow := hours }
        ∧ (hasCode t.mon.conditions 35 = true ↔ good = false ∨ s.load.station = 0)
        ∧ ConditionsBut [35] s t
        ∧ (good = false ∨ s.load.station = 0 →
            ⟨35, .shutdown, true, true, 0⟩ ∈ t.mon.conditions ∧ t.out = { s.out with alarm := true })
        ∧ (good = true → s.load.station ≠ 0 → t.out = s.out)
        ∧ t.mon.derate = t.derateFactor
        ∧ t.mon.capacity = (paramsOf image).ratedPower * t.derateFactor / 256
        ∧ (∀ k : Fin 12, t.mon.inputs[k] =
            if t.mon.routing[k].enable && !t.mon.routing[k].startMask then
              { s.mon.inputs[k] with
                stability := if t.mon.routing[k].qualifyTime = 0 then .stopped
                  else .running (t.mon.routing[k].qualifyTime * 100) }
            else s.mon.inputs[k])
        ∧ t.mon = { s.mon with
            routing := t.mon.routing, derate := t.mon.derate, capacity := t.mon.capacity
            inputs := t.mon.inputs, conditions := t.mon.conditions }
        ∧ (s.load.station ≠ 0 → hasCode s.mon.conditions 34 = false →
            t.link = { s.link with
              txEnabled := true, heartbeat := .running (25 * s.load.station) })
        ∧ (s.load.station = 0 ∨ hasCode s.mon.conditions 34 = true → t.link = s.link)
        ∧ t.claim = { s.claim with recovery := .running ((paramsOf image).recoveryTime * 1000) }
        ∧ t.alloc = { s.alloc with
            powerSteps := t.alloc.powerSteps, phase := .listening, listen := .running 1200 }
        ∧ t.cab = (if s.cab.mode = .layover then
            { s.cab with layoverCheck := .running ((paramsOf image).layoverCheck * 60000) }
          else s.cab)
        ∧ (s.load.resetKind = .core → good = true → stored < hours →
            Granted t { s.port with pendHoursWrite := true, statusTimer := .running 200 } t.port)
        ∧ (s.load.resetKind = .powerOn ∨ good = false ∨ hours ≤ stored →
            t.port = { s.port with statusTimer := .running 200 })
        ∧ t.seq = s.seq ∧ t.stepper = s.stepper ∧ t.view = s.view ∧ t.mailbox = s.mailbox
        ∧ t.pending = s.pending

namespace Sys2Proof.Machine

/-- Where the end of INIT leads (R5), the first case that holds: `fault` says that CONFIG_FAULT is in the set, `latched` that a latched
stop cause is, `p` gives the parameters in force. -/
def InitEnds (fault latched : Bool) (speed : Nat) (p : Params) (s t : State) : Prop :=
  let led : EngineState :=
    if speed < 30 then (if latched then .faulted else if s.cab.isolate.qualified then .isolated else .stopped)
    else .stopping
  let off := t.standingCommands = ⟨false, false, false, false⟩
  (fault = true ∧ s.ret.fuelLatch = true
      ∨ fault = false ∧ s.ret.fuelLatch = true ∧ speed < p.idleSpeed / 2 →
      t.seq.state = led ∧ off ∧ t.seq.snapshot = ⟨.init, speed, s.stepper.notch⟩
        ∧ t.ret.wasRunning = false)
    ∧ (fault = true → s.ret.fuelLatch = false →
        t.seq.state = .faulted ∧ off ∧ t.seq.snapshot = ⟨.init, speed, s.stepper.notch⟩
          ∧ t.ret.record.map (·.state) = some .init)
    ∧ (fault = false → s.ret.fuelLatch = true → p.idleSpeed / 2 ≤ speed → NoStandingCause s →
        s.stepper.notch = 0 → s.alloc.results.target = 0 →
        t.seq.state = .online ∧ t.standingCommands = ⟨false, true, false, true⟩ ∧ t.stepper.notch = 0
          ∧ t.stepper.setpoint = some p.idleSpeed ∧ t.seq.resumed = true
          ∧ t.seq.minRun = .running (p.minRun * 1000) ∧ t.mon.runPhase = .grace
          ∧ t.mon.grace = .running (p.oilGrace * 1000) ∧ t.ret.wasRunning = true)
    ∧ (fault = false → s.ret.fuelLatch = false →
        t.seq.state = (if s.cab.isolate.qualified then .isolated else .stopped) ∧ off
          ∧ t.seq.attempts = 0 ∧ t.seq.stopReason = .none)

end Sys2Proof.Machine

/-- R5, R179: INIT ends at the first speed value after the load, or at the completion of the load when the first speed value has come
already; the first case that holds decides: CONFIG_FAULT with the FUEL latch on leads onto STOPPING, with the latch off to FAULTED;
without it, the latch on and the speed at half idle or more resumes in ONLINE at notch 0, below that leads onto STOPPING; else ISOLATED
or STOPPED by the ISOLATE line. Until both have come, INIT stands. A load that comes second hands its configuration on as one that
comes first does. -/
def Obligations.InitEndsByTheFirstCaseThatHolds : Prop :=
  (∀ (s : State) (pulses : Nat),
    s.seq.state = .init → s.loaded = true → ConditionLaw s →
      let speed := min 3000 (pulses * 600 / s.params.teeth)
      speed < s.params.overspeed → hasCode s.mon.conditions 22 = false →
      hasCode s.mon.conditions 26 = false →
        ∃ t, exec (.speedValue pulses) s = .next t
          ∧ InitEnds (hasCode s.mon.conditions 35) s.stopLatched speed s.params s t)
  ∧ (∀ s : State,
      s.seq.state = .init → s.load.progress = .reading 16 → s.mon.speedYet = true → ConditionLaw s →
        s.alloc.phase = .waitLoad → hasCode s.mon.conditions 35 = false →
        let image := s.load.image
        let p := paramsOf image
        let good : Bool := imgByte image 0 == 0x4B
        let fault := !good || s.load.station == 0
        let hours := s.hoursAfterLoad
        ∃ t, exec .configLoadCompletion s = .next t ∧ InitEnds fault (s.stopLatched || fault) s.mon.speed p s t
          ∧ t.params = p ∧ t.alloc.powerSteps = powerStepsOf p ∧ t.alloc.phase = .listening
          ∧ t.mon.routing = (if good then routingOf image else s.mon.routing)
          ∧ t.load = { s.load with
              progress := .done, markerFault := !good, hours := hours
              startRecord := ⟨s.load.resetKind, s.ret.wasRunning⟩ }
          ∧ t.ret.shadow = hours ∧ t.mon.derate = t.derateFactor
          ∧ t.mon.capacity = p.ratedPower * t.derateFactor / 256
          ∧ (fault = true → ⟨35, .shutdown, true, true, 0⟩ ∈ t.mon.conditions ∧ t.out.alarm = true)
          ∧ t.cab = (if s.cab.mode = .layover then
              { s.cab with layoverCheck := .running (p.layoverCheck * 60000) } else s.cab)
          ∧ t.alloc.listen = .running 1200 ∧ t.port.statusTimer = .running 200
          ∧ t.claim.recovery = .running (p.recoveryTime * 1000)
          ∧ (s.load.station ≠ 0 → hasCode s.mon.conditions 34 = false →
              t.link.txEnabled = true ∧ t.link.heartbeat = .running (25 * s.load.station)))
  ∧ ∀ (s : State) (pulses : Nat), s.seq.state = .init → s.loaded = false →
        ∃ t, exec (.speedValue pulses) s = .next t ∧ t.seq = s.seq ∧ t.mon.speedYet = true

/-! ## Cab lines, demand, layover -/

namespace Sys2Proof

/-- The asserted or active level of one discrete line in a sample (R28): RUN and FAULT_RESET with the wire energised, ESTOP with the
wire not energised, ISOLATE with the switch not closed. -/
def CabLevels.level (l : CabLevels) : CabLine → Bool
  | .run => l.run
  | .estop => !l.estop
  | .faultReset => l.faultReset
  | .isolate => !l.isolate

end Sys2Proof

namespace Sys2Proof.Machine

/-- A sampled input after a sample (R29, R168): a changed level, and the first, restarts the stability timer. -/
abbrev Sampled (stable : Nat) (level : Bool) (p q : QualifiedInput) : Prop :=
  (p.sampledYet = true ∧ p.sampled = level → q = p)
    ∧ (p.sampledYet = false ∨ p.sampled ≠ level →
        q = { p with sampled := level, sampledYet := true, stability := .running stable })

/-- A sampled input whose stability timer has expired, its sampled level qualified. -/
def QualifiedInput.nowQualified (q : QualifiedInput) : QualifiedInput :=
  ⟨q.sampled, q.sampledYet, .expired, q.sampled, true⟩

end Sys2Proof.Machine

/-- R28, R29, R34: a sample of the eight cab inputs goes line by line, each pin taken to its asserted level (ESTOP asserted without
energy, ISOLATE active with the switch open), to the four stability timers of 50 ms and, as one code T1 + 2 T2 + 4 T3 + 8 T4 of the
energised wires, to the code's timer of 100 ms; nothing else changes. An expiry that finds the level of a qualified line
already qualified has no effect but on its timer. -/
def Obligations.CabSamplesRestartTheirTimers : Prop :=
  ∀ (s : State) (l : CabLevels) (line : CabLine),
    (∃ t, exec (.cabLineSample l) s = .next t
      ∧ t = { s with cab := { s.cab with
          run := t.cab.run, estop := t.cab.estop, faultReset := t.cab.faultReset
          isolate := t.cab.isolate, sampledCode := t.cab.sampledCode, codeSampledYet := true
          codeStability := t.cab.codeStability } }
      ∧ (∀ x : CabLine, Sampled 50 (l.level x) (s.cab.line x) (t.cab.line x))
      ∧ t.cab.sampledCode = bit l.t1 + 2 * bit l.t2 + 4 * bit l.t3 + 8 * bit l.t4
      ∧ t.cab.codeStability =
          (if s.cab.codeSampledYet = true ∧ s.cab.sampledCode = t.cab.sampledCode then
            s.cab.codeStability
          else .running 100))
    ∧ ((s.cab.line line).stability.isRunning = true → (s.cab.line line).qualifiedYet = true →
        (s.cab.line line).sampled = (s.cab.line line).qualified →
        ∃ t, exec (.cabLineQualification line) s = .next t
          ∧ t = { s with cab := s.cab.setLine line { s.cab.line line with stability := .expired } })

/-- R30, R39, R41, R105: a qualification of RUN sets the mode. When the mode changes there is a trigger and a mark; to SERVICE the
layover timer stops and both need flags clear; to LAYOVER the layover timer starts once the load has completed, and the stop-delay
timer stops. A qualification that leaves the mode as it is hands nothing on. R40, R42: a layover check restarts its timer with
LAYOVER_CHECK and sets cold run for a coolant value below T_COLD, battery need for a battery value below V_LOW, each unless its
channel is in sensor fault; a flag newly set marks STATUS. -/
def Obligations.ModeFollowsRunAndLayoverIsChecked : Prop :=
  ∀ s : State,
    let q := s.cab.run
    let cab := { s.cab with run := q.nowQualified }
    (q.stability.isRunning = true → q.qualifiedYet = false ∨ q.sampled ≠ q.qualified →
      (q.sampled = true → s.cab.mode = .layover →
          ∃ t, exec (.cabLineQualification .run) s = .next t
            ∧ t = { s with
                cab := { cab with
                  mode := .service, layoverCheck := .stopped, coldRun := false, batteryNeed := false }
                link := s.withMark.link, alloc := s.withTrigger.alloc })
      ∧ (q.sampled = false → s.cab.mode = .service →
          ∃ t, exec (.cabLineQualification .run) s = .next t
            ∧ t = { s with
                cab := { cab with
                  mode := .layover
                  layoverCheck := if s.loaded = true then .running (s.params.layoverCheck * 60000)
                    else s.cab.layoverCheck }
                link := s.withMark.link
                alloc := { s.withTrigger.alloc with stopDelay := .stopped } })
      ∧ (q.sampled = true → s.cab.mode = .service →
          ∃ t, exec (.cabLineQualification .run) s = .next t ∧ t = { s with cab := cab })
      ∧ (q.sampled = false → s.cab.mode = .layover →
          ∃ t, exec (.cabLineQualification .run) s = .next t ∧ t = { s with cab := cab }))
    ∧ (s.cab.layoverCheck.isRunning = true →
        ∃ t, exec .layoverCheckExpiry s = .next t
          ∧ (t.cab.coldRun = true ↔
              s.cab.coldRun = true
                ∨ s.mon.coolant.fault = false ∧ s.mon.coolant.value < s.params.tCold)
          ∧ (t.cab.batteryNeed = true ↔
              s.cab.batteryNeed = true
                ∨ s.mon.battery.fault = false ∧ s.mon.battery.value < s.params.vLow)
          ∧ t = { s with
              cab := { s.cab with
                layoverCheck := .running (s.params.layoverCheck * 60000)
                coldRun := t.cab.coldRun, batteryNeed := t.cab.batteryNeed }
              link := (s.withMarkIf (t.cab.coldRun != s.cab.coldRun
                || t.cab.batteryNeed != s.cab.batteryNeed)).link })

/-- R4, R14, R22, R31: a qualification of ESTOP is a trigger and a mark in either level, but for a first one released; asserted, in a
state from PRELUBE to COOLDOWN, it leads to STOPPING, from CLAIM_SETTLE and CRANKING with the claim released as ABANDONED, from
CLAIM_WAIT with the need withdrawn; in the other states the engine stands. -/
def Obligations.EstopStopsTheEngine : Prop :=
  ∀ s : State,
    let q := s.cab.estop
    let r : State := { s with cab := { s.cab with estop := q.nowQualified } }
    q.stability.isRunning = true → q.qualifiedYet = false ∨ q.sampled ≠ q.qualified →
      ConditionLaw s →
      (q.sampled = false → q.qualifiedYet = false →
          ∃ t, exec (.cabLineQualification .estop) s = .next t ∧ t = r)
      ∧ (q.sampled = false ∧ q.qualifiedYet = true
            ∨ q.sampled = true ∧ s.seq.state ∈ [.init, .isolated, .stopped, .stopping, .faulted] →
          ∃ t, exec (.cabLineQualification .estop) s = .next t
            ∧ t = { r with link := s.withMark.link, alloc := s.withTrigger.alloc })
      ∧ (q.sampled = true → s.seq.state.active = true →
          ∃ t, exec (.cabLineQualification .estop) s = .next t
            ∧ Stopped s.seq.state s.stopLatched r t ∧ TransitionFrame [] r t
            ∧ (s.seq.state ∉ [.claimWait, .claimSettle, .cranking] →
                t.claim = s.claim ∧ t.link.claimSlot = s.link.claimSlot)
            ∧ (s.seq.state = .claimSettle ∨ s.seq.state = .cranking →
                s.claim.phase = .settling ∨ s.claim.phase = .cranking →
                t.claim = s.claim.givenUp s.params
                  ∧ t.link.claimSlot = s.slotReleasing .abandoned)
            ∧ (s.seq.state = .claimWait → s.claim.phase = .wanted →
                t.claim = { s.claim with phase := .idle }
                  ∧ t.link.claimSlot = s.link.claimSlot)
            ∧ (s.seq.state = .claimWait → s.claim.phase = .offered →
                (∀ c, s.link.claimSlot = .claimPending c →
                    t.claim = { s.claim with phase := .idle } ∧ t.link.claimSlot = .empty)
                ∧ ∀ c h w, s.link.claimSlot = .claimSending c h w →
                    t.claim = { s.claim with phase := .lapsed, needStands := false }
                      ∧ t.link.claimSlot = .claimSending c h true))

/-- R6, R9, R11, R14, R18, R19, R20, R33, R122: ISOLATE qualified active takes STOPPED, PRELUBE, CLAIM_WAIT and CLAIM_SETTLE to ISOLATED,
CRANKING to STOPPING, RUNUP and WARMUP to COOLDOWN and ONLINE to UNLOADING with reason ISOLATE (at notch 0 on to COOLDOWN, and with
COOLDOWN 0 to STOPPING), and sets that reason in UNLOADING and COOLDOWN; a need in CLAIM_WAIT is withdrawn, and a claim held in
CLAIM_SETTLE or CRANKING released as ABANDONED; qualified inactive it takes ISOLATED to STOPPED. In the other states, and at a first
qualification of the inactive level, nothing follows. That no step is taken at the UNLOADING entry itself is the model's reading of R129
against R130's words (log 11). -/
def Obligations.IsolateLeadsOutOfService : Prop :=
  ∀ s : State,
    let q := s.cab.isolate
    let r : State := { s with cab := { s.cab with isolate := q.nowQualified } }
    q.stability.isRunning = true → q.qualifiedYet = false ∨ q.sampled ≠ q.qualified →
      ConditionLaw s →
      (q.sampled = true → s.seq.state ∈ [.stopped, .prelube, .claimWait, .claimSettle] →
          ∃ t, exec (.cabLineQualification .isolate) s = .next t
            ∧ Entered .isolated r t ∧ TransitionFrame [] r t ∧ t.ret.record = s.ret.record
            ∧ t.seq.attempts = 0 ∧ t.seq.stopReason = .none ∧ t.seq.rest = s.seq.rest
            ∧ (s.seq.state = .stopped ∨ s.seq.state = .prelube → ClaimKept s t)
            ∧ (s.seq.state = .claimWait → s.claim.phase = .wanted →
                t.claim = { s.claim with phase := .idle } ∧ t.link.claimSlot = s.link.claimSlot)
            ∧ (∀ c, s.seq.state = .claimWait → s.claim.phase = .offered →
                s.link.claimSlot = .claimPending c →
                t.claim = { s.claim with phase := .idle } ∧ t.link.claimSlot = .empty)
            ∧ (s.seq.state = .claimSettle → s.claim.phase = .settling →
                t.claim = s.claim.givenUp s.params ∧ t.link.claimSlot = s.slotReleasing .abandoned))
      ∧ (q.sampled = true → s.seq.state = .cranking →
          ∃ t, exec (.cabLineQualification .isolate) s = .next t
            ∧ Stopped .cranking s.stopLatched r t ∧ TransitionFrame [] r t
            ∧ (s.claim.phase = .cranking →
                t.claim = s.claim.givenUp s.params ∧ t.link.claimSlot = s.slotReleasing .abandoned))
      ∧ (q.sampled = true → s.seq.state = .runup ∨ s.seq.state = .warmup →
          s.cab.estop.qualified = false → (∀ m ∈ s.mon.conditions, m.cls ≠ .shutdown) →
          (s.params.cooldown ≠ 0 →
              ∃ t, exec (.cabLineQualification .isolate) s = .next t
                ∧ Entered .cooldown r t ∧ TransitionFrame [] r t ∧ t.claim = s.claim
                ∧ RecordsKept { r with seq := { s.seq with stopReason := .isolate } } t
                ∧ t.ret.record = s.ret.record)
            ∧ (s.params.cooldown = 0 →
                ∃ t, exec (.cabLineQualification .isolate) s = .next t
                  ∧ Stopped .cooldown s.stopLatched r t ∧ TransitionFrame [] r t))
      ∧ (q.sampled = true → s.seq.state = .online →
          s.cab.estop.qualified = false → (∀ m ∈ s.mon.conditions, m.cls ≠ .shutdown) →
          s.params.dwellDown ≠ 0 →
          (s.stepper.notch ≠ 0 →
              ∃ t, exec (.cabLineQualification .isolate) s = .next t
                ∧ Entered .unloading r t ∧ TransitionFrame [] r t ∧ t.claim = s.claim
                ∧ RecordsKept { r with seq := { s.seq with stopReason := .isolate } } t
                ∧ t.stepper.notch = s.stepper.notch)
            ∧ (s.stepper.notch = 0 → s.params.cooldown ≠ 0 →
                ∃ t, exec (.cabLineQualification .isolate) s = .next t
                  ∧ Entered .cooldown r t ∧ TransitionFrame [] r t ∧ t.claim = s.claim
                  ∧ t.seq.stopReason = .isolate ∧ t.stepper.notch = 0)
            ∧ (s.stepper.notch = 0 → s.params.cooldown = 0 →
                ∃ t, exec (.cabLineQualification .isolate) s = .next t
                  ∧ Stopped .cooldown s.stopLatched r t ∧ TransitionFrame [] r t
                  ∧ t.claim = s.claim))
      ∧ (q.sampled = true → s.seq.state = .unloading ∨ s.seq.state = .cooldown →
          ∃ t, exec (.cabLineQualification .isolate) s = .next t
            ∧ t = { r with seq := { s.seq with stopReason := .isolate } })
      ∧ (q.sampled = true → s.seq.state ∈ [.init, .isolated, .stopping, .faulted] →
          ∃ t, exec (.cabLineQualification .isolate) s = .next t ∧ t = r)
      ∧ (q.sampled = false → q.qualifiedYet = true → s.seq.state = .isolated →
          ∃ t, exec (.cabLineQualification .isolate) s = .next t
            ∧ Entered .stopped r t ∧ TransitionFrame [] r t
            ∧ t.seq.attempts = 0 ∧ t.seq.stopReason = .none ∧ t.seq.rest = s.seq.rest)
      ∧ (q.sampled = false → q.qualifiedYet = false ∨ s.seq.state ≠ .isolated →
          ∃ t, exec (.cabLineQualification .isolate) s = .next t ∧ t = r)

/-- R25, R32, R160: FAULT_RESET acts at the qualification of its asserted level: every latched member whose cause has gone leaves, but
ADDRESS_CONFLICT and CONFIG_FAULT; then FAULTED ends when no latched SHUTDOWN or STOP member and neither of those two codes is left
and the speed is below 30 rpm. Released, it hands nothing on. -/
def Obligations.FaultResetClearsAndEndsFaulted : Prop :=
  ∀ s : State,
    let q := s.cab.faultReset
    let r : State := { s with cab := { s.cab with faultReset := q.nowQualified } }
    let stay := s.mon.conditions.filter fun m =>
      !(m.latched && !m.cause && m.code != 34 && m.code != 35)
    q.stability.isRunning = true → q.qualifiedYet = false ∨ q.sampled ≠ q.qualified →
      ConditionLaw s →
      (q.sampled = false → ∃ t, exec (.cabLineQualification .faultReset) s = .next t ∧ t = r)
      ∧ (q.sampled = true →
          s.seq.state ≠ .faulted ∨ 30 ≤ s.mon.speed
            ∨ stay.any (fun m => m.stopCause || m.code == 34 || m.code == 35) = true →
          ∃ t, exec (.cabLineQualification .faultReset) s = .next t
            ∧ t.mon.conditions = stay
            ∧ t = { r with
                mon := { s.mon with
                  conditions := stay, derate := t.mon.derate, capacity := t.mon.capacity }
                out := { s.out with
                  alarm := if stay = s.mon.conditions then s.out.alarm else !stay.isEmpty }
                link := { s.link with statusMarked := t.link.statusMarked }
                alloc := { s.alloc with reEvaluate := t.alloc.reEvaluate } })
      ∧ (q.sampled = true → s.seq.state = .faulted → s.mon.speed < 30 →
          stay.any (fun m => m.stopCause || m.code == 34 || m.code == 35) = false →
          ∃ t, exec (.cabLineQualification .faultReset) s = .next t
            ∧ Entered (if s.cab.isolate.qualified then .isolated else .stopped) r t
            ∧ t.cab = r.cab ∧ BlocksKept r t ∧ t.seq.attempts = 0 ∧ t.seq.stopReason = .none
            ∧ t.seq.rest = s.seq.rest ∧ t.ret.record = s.ret.record
            ∧ (∀ m ∈ stay, m.code ∉ entryCodes → m ∈ t.mon.conditions)
            ∧ ∀ m ∈ t.mon.conditions, m.code ∉ entryCodes → m ∈ stay)

/-- R34 to R38: the qualification of a new code 0..8 takes it as the demand with source LOCAL and stops the invalid-code timer; of a
code 9..15 it enters INVALID_HOLD from VALID (HELD) or UNQUALIFIED (DEFAULT) with the timer at 2 s, and changes nothing more in
INVALID_HOLD and INVALID_PEERS; the timer's expiry enters INVALID_PEERS with the peer majority, or 0 with DEFAULT. A changed demand
is a trigger, a changed STATUS demand field a mark. -/
def Obligations.DemandFollowsTheThrottleCode : Prop :=
  ∀ s : State,
    let cab := { s.cab with codeStability := Timer.expired, qualifiedCode := some s.cab.sampledCode }
    (s.cab.codeStability.isRunning = true → s.cab.qualifiedCode = some s.cab.sampledCode →
        ∃ t, exec .throttleCodeQualification s = .next t ∧ t = { s with cab := cab })
      ∧ (s.cab.codeStability.isRunning = true → s.cab.qualifiedCode ≠ some s.cab.sampledCode →
          s.cab.sampledCode ≤ 8 →
          ∃ t, exec .throttleCodeQualification s = .next t
            ∧ t = { s with
                cab := { cab with
                  decoder := .valid, demand := s.cab.sampledCode, source := .localLines
                  lastValid := some s.cab.sampledCode, invalidCode := .stopped }
                alloc := (s.withTriggerIf (s.cab.sampledCode != s.cab.demand)).alloc
                link := (s.withMarkIf (s.cab.sampledCode != s.cab.demandField)).link })
      ∧ (s.cab.codeStability.isRunning = true → s.cab.qualifiedCode ≠ some s.cab.sampledCode →
          8 < s.cab.sampledCode → s.cab.decoder = .valid →
          ∃ t, exec .throttleCodeQualification s = .next t
            ∧ t = { s with cab := { cab with
                decoder := .invalidHold, source := .held, invalidCode := .running 2000 } })
      ∧ (s.cab.codeStability.isRunning = true → s.cab.qualifiedCode ≠ some s.cab.sampledCode →
          8 < s.cab.sampledCode → s.cab.decoder = .unqualified → s.cab.source = .default →
          ∃ t, exec .throttleCodeQualification s = .next t
            ∧ t = { s with cab := { cab with
                decoder := .invalidHold, invalidCode := .running 2000 } })
      ∧ (s.cab.codeStability.isRunning = true → s.cab.qualifiedCode ≠ some s.cab.sampledCode →
          8 < s.cab.sampledCode → s.cab.decoder = .invalidHold ∨ s.cab.decoder = .invalidPeers →
          ∃ t, exec .throttleCodeQualification s = .next t ∧ t = { s with cab := cab })
      ∧ (s.cab.invalidCode.isRunning = true → s.cab.decoder = .invalidHold →
          let demand := (majority s.view.tally).getD 0
          ∃ t, exec .invalidCodeTimerExpiry s = .next t
            ∧ t = { s with
                cab := { s.cab with
                  invalidCode := .expired, decoder := .invalidPeers, demand := demand
                  source := if majority s.view.tally = none then .default else .peers }
                alloc := (s.withTriggerIf (demand != s.cab.demand)).alloc
                link := (s.withMarkIf (s.cab.demandField != 15)).link })

/-! ## The set link -/

namespace Sys2Proof.Machine

/-- The frame that the station sends (R45, R46, R53): kind, own source, data with their length, the check, a released end field. -/
def State.ownFrame (s : State) (kind : TxKind) (data : List Byte) : RawFrame :=
  buildFrame kind.code s.load.station data

/-- The Link Controller when a frame's start bit is driven. -/
abbrev LinkUnit.starting (l : LinkUnit) (kind : TxKind) (f : RawFrame) : LinkUnit :=
  { l with line := .inFrame, sending := some ⟨kind, f⟩ }

/-- The slots of the Link Controller hold nothing, and none is to be emptied (R52). -/
abbrev LinkUnit.cleared (l : LinkUnit) : LinkUnit :=
  { l with claimSlot := .empty, statusMarked := false, replySlot := none, disablePending := false }

/-- The Link Controller when a frame has completed (R44, R56, R57), but for its slots and timers. -/
abbrev LinkUnit.sent (l : LinkUnit) : LinkUnit :=
  { l with
    sending := none, bitErrors := 0, linkFault := false, granted := false
    holdOff := if l.linkFault then .stopped else l.holdOff
    line := .settling, releasedBits := 7 }

/-- The station when a frame has completed, but for its slots and timers: at the exit from LINK_FAULT its condition leaves, here the
only member of the set, with ALARM and a mark (R56, R80, R162). -/
def State.completes (s : State) : State :=
  if s.link.linkFault then
    { s with
      link := { s.link.sent with statusMarked := s.link.statusMarked || s.link.txEnabled }
      mon := { s.mon with conditions := [] }, out := { s.out with alarm := false } }
  else { s with link := s.link.sent }

/-- The frame processor takes up the head of a post list that is not empty (R65, R86): no frame is being applied, no pass is in flight,
and no pass is due. -/
def State.takesUp (s : State) (draining : Bool) : Bool :=
  s.alloc.phase != .inPass
    && !(s.alloc.phase == .ready && s.alloc.reEvaluate && !s.link.headTaken && !draining)

/-- A frame that has not ended: the station sends it, receives it into a buffer, or receives it into nothing (R53, R63). -/
abbrev LinkUnit.carriesFrame (l : LinkUnit) : Prop :=
  l.sending ≠ none ∨ l.filling ≠ none ∨ l.intoNothing = true

/-- The Link Controller with a buffer taken for the frame on the line, unless one is taken already (R63). -/
def LinkUnit.receiving (l : LinkUnit) : LinkUnit :=
  match l.filling, l.intoNothing, l.freeList with
  | none, false, [] => { l with intoNothing := true }
  | none, false, b :: rest => { l with filling := some b, freeList := rest }
  | _, _, _ => l

/-- The line and the pool after a bit error (R44, R55, R63): in the start bit no frame is on the line; after the priority field the
rest is received; in the end field the count of released bits starts again. -/
def LinkUnit.struck (l : LinkUnit) : BitErrorPlace → LinkUnit
  | .startBit => { l with line := .settling, releasedBits := 0 }
  | .priorityField => l
  | .afterPriority => l.receiving
  | .inEndField => { l.receiving with line := .settling, releasedBits := 0 }

end Sys2Proof.Machine

/-- R44, R53, R56, R58, R59, R63: in SETTLING each released bit time adds one to the count, and at nine the line is IDLE; a driven bit
sets the count back to 0; at an IDLE line it starts a frame. The end field of a frame on the line makes it SETTLING and counts from 0,
at most to seven before the frame ends (that LINE_IDLE brings these bits too, and none that cannot be read: log 2, log 9). The end of
the priority field takes a buffer, or receives into nothing; with the line IDLE, nothing in transmission, the transmitter enabled and an
attempt allowed, FRAME_START sends the waiting CLAIM or RELEASE, else a marked STATUS whose spacing has expired and whose first
heartbeat has come, built from the values that stand, else the REPLY; without a candidate nothing happens (log 2). R179: before the
first heartbeat since the load STATUS is no candidate, whatever marks it (that this bounds R53's words is the model's reading, log 33).
That the start bit takes the claim slot from CLAIM_PENDING is its reading of R58's table (log 34). -/
def Obligations.FramesAreStartedByPriority : Prop :=
  ∀ s : State,
    (∀ n : Nat,
      (s.link.line = .settling → ¬ s.link.carriesFrame →
        (s.link.releasedBits + n < 9 →
            ∃ t, exec (.lineIdle n) s = .next t
              ∧ t = { s with link := { s.link with releasedBits := s.link.releasedBits + n } })
          ∧ (9 ≤ s.link.releasedBits + n →
              ∃ t, exec (.lineIdle n) s = .next t
                ∧ t = { s with link := { s.link with line := .idle, releasedBits := 9 } }))
      ∧ (s.link.line = .settling → s.link.carriesFrame →
          (s.link.releasedBits + n ≤ 7 →
              ∃ t, exec (.lineIdle n) s = .next t
                ∧ t = { s with link := { s.link with releasedBits := s.link.releasedBits + n } })
            ∧ (7 < s.link.releasedBits + n → ∃ t, exec (.lineIdle n) s = .next t ∧ t = s))
      ∧ (s.link.line = .inFrame → s.link.carriesFrame → n ≤ 7 →
          ∃ t, exec (.lineIdle n) s = .next t
            ∧ t = { s with link := { s.link with line := .settling, releasedBits := n } })
      ∧ (s.link.line = .idle ∨ s.link.line = .inFrame ∧ (¬ s.link.carriesFrame ∨ 7 < n) →
          ∃ t, exec (.lineIdle n) s = .next t ∧ t = s))
    ∧ (s.link.line = .idle →
        ∃ t, exec .startBitRead s = .next t ∧ t = { s with link := { s.link with line := .inFrame } })
    ∧ (s.link.line = .settling →
        ∃ t, exec .startBitRead s = .next t ∧ t = { s with link := { s.link with releasedBits := 0 } })
    ∧ (s.link.line = .inFrame → ∃ t, exec .startBitRead s = .next t ∧ t = s)
    ∧ (s.link.line = .inFrame → s.link.sending = none →
        ∃ t, exec .endOfPriorityField s = .next t ∧ t = { s with link := s.link.receiving })
    ∧ (s.link.line = .idle → s.link.sending = none → s.link.txEnabled = true →
        s.link.linkFault = false ∨ s.link.granted = true →
        (∀ c, s.link.claimSlot = .claimPending c →
            ∃ t, exec .frameStart s = .next t
              ∧ t = { s with link :=
                { s.link.starting .claim (s.ownFrame .claim [byteOf c.crankLimit, byteOf c.attempt]) with
                  claimSlot := .claimSending c none false } })
        ∧ (∀ o, s.link.claimSlot = .releasePending o →
            ∃ t, exec .frameStart s = .next t
              ∧ t = { s with link :=
                { s.link.starting .release (s.ownFrame .release [byteOf o.code]) with
                  claimSlot := .releaseSending o } })
        ∧ (s.link.claimSlot.isPending = false → s.link.statusMarked = true →
            s.link.spacing = .expired → s.link.firstHeartbeat = true →
            ∃ t, exec .frameStart s = .next t
              ∧ t = { s with link :=
                { s.link.starting .status (s.ownFrame .status (encodeStatus s.selfRecord)) with
                  statusMarked := false } })
        ∧ (s.link.claimSlot.isPending = false →
            s.link.statusMarked = false ∨ s.link.spacing ≠ .expired ∨ s.link.firstHeartbeat = false →
            (∀ q, s.link.replySlot = some q →
                ∃ t, exec .frameStart s = .next t
                  ∧ t = { s with link :=
                    s.link.starting .reply (s.ownFrame .reply (q.code :: q.result :: q.data)) })
              ∧ (s.link.replySlot = none → ∃ t, exec .frameStart s = .next t ∧ t = s)))

/-- R52, R54, R55, R56, R58, R59, R79: at a lost arbitration and at a bit error nothing is sending any more and the frame waits
again, for STATUS by its restored mark (a transmitter disabled meanwhile empties the slots); a lost arbitration leaves count and
grant; a bit error counts one up to 8; the eighth in a row enters LINK_FAULT with hold-off 1 s, LINK_FAULT (36, ALARM, not latched)
joining and the station ALONE; in LINK_FAULT the grant is spent and the hold-off restarts, and its expiry grants one attempt. What
line and pool do goes by the place of the error (log 10). R119: a CLAIM that fails in either way with its withdrawal held leaves an
empty slot, and the claim goes from LAPSED to WANTED when the need stands, to IDLE when not; with the entry into ALONE a start in
CLAIM_WAIT is cancelled, so that the need does not stand (R9). -/
def Obligations.FailedFramesWaitAgainAndAreCounted : Prop :=
  ∀ (s : State) (tx : Transmission) (place : BitErrorPlace),
    let slots : LinkUnit := { s.link with
      sending := none
      claimSlot := s.link.claimSlot.failed
      statusMarked := s.link.statusMarked || tx.kind == .status }
    let failed : LinkUnit := if s.link.disablePending then slots.cleared else slots
    let l := s.link.struck place
    (∀ c, s.link.sending = some ⟨.claim, tx.frame⟩ → s.link.claimSlot = .claimSending c none true →
        s.claim.phase = .lapsed → s.link.disablePending = false →
        ∃ t, exec .arbitrationLoss s = .next t
          ∧ t = { s with
              link := { s.link with sending := none, claimSlot := .empty }
              claim := { s.claim with phase := if s.claim.needStands then .wanted else .idle } })
    ∧ (∀ c, s.link.sending = some ⟨.claim, tx.frame⟩ → s.link.claimSlot = .claimSending c none true →
        s.claim.phase = .lapsed → s.link.disablePending = false →
        ∃ t, exec (.bitError place) s = .next t
          ∧ t.link.claimSlot = .empty ∧ t.link.sending = none
          ∧ t.link.bitErrors = min 8 (s.link.bitErrors + 1)
          ∧ t.link.linkFault = (s.link.linkFault || decide (8 ≤ s.link.bitErrors + 1))
          ∧ (s.link.linkFault = true ∨ s.link.bitErrors + 1 < 8 →
              t = { s with
                link := { l with
                  sending := none, claimSlot := .empty, bitErrors := min 8 (s.link.bitErrors + 1)
                  granted := s.link.granted && !s.link.linkFault
                  holdOff := if s.link.linkFault then .running 1000 else s.link.holdOff }
                claim := { s.claim with phase := if s.claim.needStands then .wanted else .idle } })
          ∧ (s.link.linkFault = false → 8 ≤ s.link.bitErrors + 1 →
              t.link.granted = false ∧ t.link.holdOff = .running 1000 ∧ t.view.alone = true
                ∧ t.claim = { s.claim with
                    phase := if s.claim.needStands = true
                        ∧ (s.seq.state ≠ .claimWait ∨ s.view.alone = true) then .wanted else .idle }))
    ∧ (s.link.sending = some tx → s.claim.phase ≠ .lapsed → s.link.slotSends = true →
      (∃ t, exec .arbitrationLoss s = .next t ∧ t = { s with link := failed })
      ∧ (∃ t, exec (.bitError place) s = .next t
          ∧ t.link.sending = none ∧ t.link.replySlot = failed.replySlot
          ∧ (s.link.linkFault = true ∨ s.link.bitErrors + 1 < 8 ∨ s.seq.state ≠ .claimWait →
              t.link.claimSlot = failed.claimSlot)
          ∧ (failed.statusMarked = true → t.link.statusMarked = true)
          ∧ t.link.bitErrors = min 8 (s.link.bitErrors + 1)
          ∧ t.link.linkFault = (s.link.linkFault || decide (8 ≤ s.link.bitErrors + 1))
          ∧ t.link.line = l.line ∧ t.link.releasedBits = l.releasedBits
          ∧ t.link.filling = l.filling ∧ t.link.freeList = l.freeList
          ∧ t.link.intoNothing = l.intoNothing
          ∧ (s.link.linkFault = false → s.link.bitErrors + 1 < 8 →
              t = { s with link := t.link } ∧ t.link.granted = s.link.granted
                ∧ t.link.holdOff = s.link.holdOff)
          ∧ (s.link.linkFault = true →
              t = { s with link := t.link } ∧ t.link.granted = false
                ∧ t.link.holdOff = .running 1000)
          ∧ (s.link.linkFault = false → 8 ≤ s.link.bitErrors + 1 →
              t.link.granted = false ∧ t.link.holdOff = .running 1000 ∧ t.view.alone = true
                ∧ (s.view.alone = false → t.view.sFrozen = s.alloc.results.sLoad)
                ∧ (hasCode s.mon.conditions 36 = false →
                    ⟨36, .alarm, false, true, 0⟩ ∈ t.mon.conditions ∧ t.out.alarm = true)
                ∧ (s.seq.state ≠ .prelube → s.seq.state ≠ .claimWait →
                    t.seq = s.seq ∧ t.stepper = s.stepper ∧ t.claim = s.claim ∧ t.ret = s.ret
                      ∧ t.alloc = s.alloc ∧ t.port = s.port ∧ ConditionsBut [36] s t)
                ∧ (s.view.alone = false → s.seq.state = .prelube ∨ s.seq.state = .claimWait →
                    t.seq.state = (if s.cab.isolate.qualified then .isolated else .stopped)))))
    ∧ (s.link.holdOff.isRunning = true →
        ∃ t, exec .holdOffExpiry s = .next t
          ∧ t = { s with link := { s.link with holdOff := .expired, granted := true } })

/-- R44, R52, R56 to R61, R80, R119, R185: a completion clears the error count, frees the frame's slot and counts the end field's seven
released bits. A STATUS restarts spacing (50 ms) and heartbeat (250 ms); a REPLY frees its slot for the request that waits; a RELEASE
lets the offer be examined; an own CLAIM that is OFFERED takes the claim, settle timer 400 ms, and CLAIM_WAIT goes on to CLAIM_SETTLE;
one that LAPSED is answered with RELEASE ABANDONED and recovery. A completion of any kind in LINK_FAULT ends it: LINK_FAULT (36) leaves
the set unless it is latched, the count and the grant are cleared, and a station that never heard a peer is no longer ALONE, while the
view of one that has heard a peer stands; how the hold-off timer then stands is the model's choice (log 32). With the transmitter
disabled meanwhile the slots are emptied, and nothing is reported but a STATUS to its spacing timer (log 19). -/
def Obligations.CompletionsFreeTheirSlots : Prop :=
  ∀ (s : State) (tx : Transmission),
    let l := s.link.sent
    let r := s.completes
    s.link.sending = some tx →
      (s.link.disablePending = false →
        s.link.linkFault = false
          ∨ s.view.everSeen = true
            ∧ (∃ cause ms, s.mon.conditions = [⟨36, .alarm, false, cause, ms⟩]) →
        (tx.kind = .status →
            ∃ t, exec .transmissionCompletion s = .next t
              ∧ t = { r with link := { r.link with
                  spacing := .running 50
                  heartbeat := if s.link.txEnabled then .running 250 else s.link.heartbeat } })
        ∧ (tx.kind = .reply → s.mailbox = none →
            ∃ t, exec .transmissionCompletion s = .next t
              ∧ t = { r with link := { r.link with replySlot := none } })
        ∧ (∀ q : Request, tx.kind = .reply → s.mailbox = some q → s.link.txEnabled = true →
            ∃ t, exec .transmissionCompletion s = .next t
              ∧ t = { r with link := { r.link with replySlot := some (r.replyTo q) }, mailbox := none })
        ∧ (∀ o, tx.kind = .release → s.link.txEnabled = true → s.link.claimSlot = .releaseSending o →
            ∃ t, exec .transmissionCompletion s = .next t
              ∧ Examined { r with link := { r.link with claimSlot := .empty } } t)
        ∧ (∀ c, tx.kind = .claim → s.link.txEnabled = true →
            s.link.claimSlot = .claimSending c none true → s.claim.phase = .lapsed →
            ∃ t, exec .transmissionCompletion s = .next t
              ∧ t = { r with
                  link := { r.link with claimSlot := .releasePending .abandoned }
                  claim := { s.claim with
                    phase := if s.claim.needStands then .wanted else .idle
                    recovery := .running (s.params.recoveryTime * 1000) } })
        ∧ (∀ c, tx.kind = .claim → s.link.txEnabled = true →
            s.link.claimSlot = .claimSending c none false → s.claim.phase = .offered →
            s.seq.state = .claimWait → NoStandingCause s →
            let q : State := { r with link := { r.link with claimSlot := .empty } }
            ∃ t, exec .transmissionCompletion s = .next t
              ∧ Entered .claimSettle q t ∧ TransitionFrame [] q t ∧ RecordsKept q t
              ∧ t.link = { r.link with claimSlot := .empty, statusMarked := true }
              ∧ t.claim = { s.claim with
                  holder := .self, settle := .running 400, clock := .running 0
                  phase := .settling }))
      ∧ (s.link.linkFault = true →
          ∃ t, exec .transmissionCompletion s = .next t
            ∧ t.view = (if s.view.everSeen then s.view else { s.view with alone := false })
            ∧ t.link.linkFault = false ∧ t.link.holdOff = .stopped ∧ t.link.bitErrors = 0
            ∧ t.link.granted = false ∧ t.link.sending = none ∧ t.link.line = .settling
            ∧ t.link.releasedBits = 7
            ∧ ((∀ m ∈ s.mon.conditions, m.code = 36 → m.latched = false) →
                hasCode t.mon.conditions 36 = false)
            ∧ ConditionsBut (36 :: entryCodes) s t
            ∧ (tx.kind ≠ .claim → t.seq = s.seq ∧ t.stepper = s.stepper ∧ t.ret = s.ret
                ∧ ConditionsBut [36] s t)
            ∧ (tx.kind = .status → t.link.spacing = .running 50
                ∧ (t.claim = s.claim
                  ∨ s.view.everSeen = false ∧ s.claim.phase = .wanted
                    ∧ t.claim = { s.claim with phase := .offered }))
            ∧ (tx.kind = .reply → s.mailbox = none → t.link.replySlot = none))
      ∧ (s.link.disablePending = true → s.link.txEnabled = false → s.link.linkFault = false →
          s.mailbox = none →
          ∃ t, exec .transmissionCompletion s = .next t
            ∧ t = { s with link := { l.cleared with
                spacing := if tx.kind = .status then .running 50 else s.link.spacing } })

/-- R48, R58, R63, R64, R118: the frame on the line ends in the buffer that it filled, which joins the post list when the frame is good
and the free list when it is not; the released end bits are counted; a good CLAIM of another station withdraws the own CLAIM that waits,
and its Claim Unit goes back to WANTED with the foreign-claim mark. A frame received into nothing leaves no trace. R60, R61: the
heartbeat expiry marks STATUS and, the first one, lets STATUS be sent from then on (R179, log 33), the spacing expiry lets it go. R65,
R66: at the end of an application the buffer returns to the free list, and the drain ends with its last frame. R65, R86: a good frame at
its arrival, and the next one at an application's end, is taken up when no frame is being applied, no pass is in flight and none is due;
PASS_START then has to wait for it (log 4). -/
def Obligations.FramesGoThroughThePool : Prop :=
  ∀ (s : State) (f : RawFrame) (b : Fin 8),
    let l : LinkUnit := { s.link with
      line := .settling, releasedBits := trailingReleased f.endField, filling := none
      buffers := s.link.buffers.set b f }
    (s.link.filling = some b → goodFrame f = false →
        ∃ t, exec (.frameArrival f) s = .next t
          ∧ t = { s with link := { l with freeList := s.link.freeList ++ [b] } })
    ∧ (s.link.filling = some b → goodFrame f = true →
        f.kind ≠ 0 ∨ f.source.toNat = s.load.station
          ∨ (∀ c, s.link.claimSlot ≠ .claimPending c) →
        ∃ t, exec (.frameArrival f) s = .next t
          ∧ t = { s with link := { l with
              postList := s.link.postList ++ [b]
              headTaken := s.link.applying.isNone && s.takesUp s.link.draining } })
    ∧ (∀ c, s.link.filling = some b → goodFrame f = true → f.kind = 0 →
        f.source.toNat ≠ s.load.station → s.link.claimSlot = .claimPending c →
        s.claim.phase = .offered →
        ∃ t, exec (.frameArrival f) s = .next t
          ∧ t = { s with
              link := { l with
                postList := s.link.postList ++ [b], claimSlot := .empty
                headTaken := s.link.applying.isNone && s.takesUp s.link.draining }
              claim := { s.claim with phase := .wanted, foreignMark := true } })
    ∧ (s.link.filling = none → s.link.intoNothing = true →
        ∃ t, exec (.frameArrival f) s = .next t
          ∧ t = { s with link := { s.link with
              line := .settling, releasedBits := trailingReleased f.endField
              intoNothing := false } })
    ∧ (goodFrame f = true → trailingReleased f.endField = 7)
    ∧ (s.link.heartbeat.isRunning = true →
        ∃ t, exec .heartbeatExpiry s = .next t
          ∧ t = { s with link := { s.withMark.link with
              heartbeat := .expired, firstHeartbeat := true } })
    ∧ (s.link.spacing.isRunning = true →
        ∃ t, exec .spacingTimerExpiry s = .next t
          ∧ t = { s with link := { s.link with spacing := .expired } })
    ∧ (s.link.applying = some b →
        let draining := s.link.draining && s.link.drainLeft != 0
        ∃ t, exec .applicationEnd s = .next t
          ∧ t = { s with link := { s.link with
              applying := none, freeList := s.link.freeList ++ [b], draining := draining
              headTaken := !s.link.postList.isEmpty && s.takesUp draining } })
    ∧ (s.link.headTaken = true →
        (∃ t, exec .passStart s = .next t ∧ t = s)
          ∧ (TakenLaw s → ∃ p ps, s.link.postList = p :: ps
              ∧ ∃ t, exec .frameApplication s = .next t ∧ t.link.applying = some p
                ∧ t.link.postList = ps ∧ t.link.headTaken = false))

/-- R184 to R186: a request asked of this station, as a command (log 18) or in a REQUEST frame that names it, is taken when the
station number is not 0, the transmitter is enabled and the mailbox is EMPTY; with the reply slot free it is answered at once from
the values that stand, and with the slot in use it waits in the mailbox; otherwise it is discarded without trace. -/
def Obligations.RequestsAreTakenOrDiscarded : Prop :=
  ∀ (s : State) (argument code : Byte) (c : Instr) (q : Request),
    (c, q) ∈ [(.readSelf argument, ⟨1, argument⟩), (.readPeer argument, ⟨2, argument⟩),
        (.readConditions argument, ⟨3, argument⟩), (.readFaultRecord argument, ⟨4, argument⟩),
        (.readHours argument, ⟨5, argument⟩), (.readInputs argument, ⟨6, argument⟩),
        (.badCode code argument, ⟨code, argument⟩)] →
      (s.load.station ≠ 0 → s.link.txEnabled = true → s.mailbox = none →
          s.link.replySlot = none →
          ∃ t, exec c s = .next t
            ∧ t = { s with link := { s.link with replySlot := some (s.replyTo q) } })
      ∧ (s.load.station ≠ 0 → s.link.txEnabled = true → s.mailbox = none →
          s.link.replySlot ≠ none →
          ∃ t, exec c s = .next t ∧ t = { s with mailbox := some q })
      ∧ (s.load.station = 0 ∨ s.link.txEnabled = false ∨ s.mailbox ≠ none →
          ∃ t, exec c s = .next t ∧ t = s)
      ∧ ∀ (b : Fin 8) (rest : List (Fin 8)),
          s.frameDue = true → s.link.postList = b :: rest →
          (s.link.buffers[b]).source = 0 → (s.link.buffers[b]).data.length = 3 →
          let data := (s.link.buffers[b]).data
          let l : LinkUnit := { s.link with
            applying := some b, postList := rest, drainLeft := s.link.drainLeft - 1
            headTaken := false }
          (dataByte data 1 = s.load.station → s.load.station ≠ 0 → s.link.txEnabled = true →
              s.mailbox = none → s.link.replySlot = none →
              ∃ t, exec .frameApplication s = .next t
                ∧ t = { s with link := { l with
                    replySlot := some (s.replyTo ⟨data.getD 1 0, data.getD 2 0⟩) } })
            ∧ (dataByte data 1 ≠ s.load.station →
                ∃ t, exec .frameApplication s = .next t ∧ t = { s with link := l })

/-! ## The view of the consist and the claims of the peers -/

namespace Sys2Proof.Machine

/-- The station when the frame processor has taken the head of the post list (R65, R66). -/
abbrev State.taking (s : State) (b : Fin 8) (rest : List (Fin 8)) : State :=
  { s with link := { s.link with
      applying := some b, postList := rest, drainLeft := s.link.drainLeft - 1
      headTaken := false } }

/-- An entry whose source was heard (R68, R69, R70): PRESENT, its age restarted with 1000 ms. -/
abbrev PeerEntry.heard (e : PeerEntry) : PeerEntry :=
  { e with
    presence := .present, age := .running 1000, changed := e.changed || e.presence != .present }

/-- The change test of R71, apart from the presence. -/
def PeerEntry.differsFrom (e : PeerEntry) (r : StatusRecord) : Bool :=
  match e.record with
  | none => true
  | some o =>
    o.state.rankClass != r.state.rankClass || o.eligible != r.eligible || o.capacity != r.capacity
      || o.bucket != r.bucket

/-- The tally counts, for each notch, the peers that are PRESENT with a record whose demand field is that notch (R83). -/
def State.tallyCounts (t : State) : Prop :=
  ∀ e, e ≤ 8 →
    t.view.tally.getD e 0 = (List.finRange 7).countP fun j =>
      decide (t.load.station ≠ j.val + 1) && (t.view.entry j).presence == .present
        && ((t.view.entry j).record.map (·.demand) == some e)

/-- The peer table is the same but for one entry. -/
abbrev OtherEntriesKept (i : Fin 7) (s t : State) : Prop :=
  ∀ j : Fin 7, j ≠ i → t.view.entry j = s.view.entry j

/-- The record and the own claim after a peer's claim with a lease (R111, R113, R118, R121), the own claim not in SETTLING. -/
def ClaimRecorded (n lease : Nat) (s t : State) : Prop :=
  match s.claim.holder with
  | .none =>
    t.claim.holder = .peer n ∧ t.claim.lease = .running lease
      ∧ t.claim.recovery = s.claim.recovery
      ∧ (s.claim.phase ≠ .offered →
          t.claim.phase = s.claim.phase ∧ t.link.claimSlot = s.link.claimSlot)
      ∧ (s.claim.phase = .offered →
          (∀ c, s.link.claimSlot = .claimPending c →
              t.claim.phase = .wanted ∧ t.link.claimSlot = .empty)
          ∧ ∀ c h w, s.link.claimSlot = .claimSending c h w →
              t.claim.phase = .lapsed ∧ t.claim.needStands = true
                ∧ t.link.claimSlot = .claimSending c h true)
  | .peer y =>
    (n ≤ y → t.claim.holder = .peer n ∧ t.claim.lease = .running lease)
      ∧ (y < n → t.claim.holder = .peer y ∧ t.claim.lease = s.claim.lease)
      ∧ t.claim.phase = s.claim.phase ∧ t.claim.recovery = s.claim.recovery
      ∧ t.link.claimSlot = s.link.claimSlot
  | .self =>
    t.claim.holder = .self ∧ t.claim.lease = s.claim.lease ∧ t.claim.phase = s.claim.phase
      ∧ t.claim.recovery = s.claim.recovery ∧ t.link.claimSlot = s.link.claimSlot
      ∧ (s.link.txEnabled = true → t.link.statusMarked = true)

/-- The own claim lost to a lower station while it settles (R11, R121): the peer is recorded, RELEASE ABANDONED is offered, and the
Sequencer waits for the claim again. -/
def ConflictLost (n lease : Nat) (s t : State) : Prop :=
  t.seq.state = .claimWait ∧ t.seq.attempts = s.seq.attempts
    ∧ t.standingCommands = ⟨false, false, true, false⟩
    ∧ t.claim.holder = .peer n ∧ t.claim.lease = .running lease ∧ t.claim.phase = .wanted
    ∧ t.claim.settle = .stopped ∧ t.claim.clock = .stopped
    ∧ t.claim.attempt = s.seq.attempts + 1 ∧ t.claim.recovery = s.claim.recovery
    ∧ t.link.claimSlot = s.slotReleasing .abandoned
    ∧ (s.link.txEnabled = true → t.link.statusMarked = true)

end Sys2Proof.Machine

/-- R68 to R71, R73, R74, R80, R83: an applied STATUS of a peer makes its entry PRESENT, restarts its age, replaces its record, sets the
changed mark by the change test (then a pass is called for), ends ALONE while the link is NORMAL and brings the tally up to date; a
REPLY makes it PRESENT and no more. No other entry changes. -/
def Obligations.PeerFramesUpdateTheTable : Prop :=
  ∀ (s : State) (b : Fin 8) (rest : List (Fin 8)) (i : Fin 7),
    let f := s.link.buffers[b]
    let e := s.view.entry i
    let q := s.taking b rest
    let heard := e.presence != .present
    s.frameDue = true → s.link.postList = b :: rest → f.source.toNat = i.val + 1 →
      s.load.station ≠ i.val + 1 →
      (∀ r, f.kind = 2 → decodeStatus f.data = some r →
          ∃ t, exec .frameApplication s = .next t
            ∧ t.view.entry i = { e.heard with
                record := some r, changed := e.changed || heard || e.differsFrom r }
            ∧ OtherEntriesKept i s t ∧ t.view.everSeen = true ∧ t.tallyCounts
            ∧ t.view.alone = (s.view.alone && s.link.linkFault)
            ∧ t.view.sFrozen = s.view.sFrozen
            ∧ (r.claimHeld = false → s.claim.holder ≠ .peer (i.val + 1) →
                s.claim.phase ≠ .wanted → s.cab.decoder ≠ .invalidPeers →
                t = { q with
                  view := t.view, alloc := (s.withTriggerIf (heard || e.differsFrom r)).alloc
                  link := { q.link with
                    statusMarked := s.link.statusMarked
                      || (s.view.alone && !s.link.linkFault && s.link.txEnabled) } })
            ∧ (s.cab.decoder = .invalidPeers → t.view.tally ≠ s.view.tally →
                t.cab.demand = (majority t.view.tally).getD 0
                  ∧ t.cab.source = (if majority t.view.tally = none then .default else .peers)))
      ∧ (f.kind = 4 → e.presence = .present →
          ∃ t, exec .frameApplication s = .next t
            ∧ t.view.entry i = { e with age := .running 1000 }
            ∧ OtherEntriesKept i s t ∧ t.view.tally = s.view.tally ∧ t.view.alone = s.view.alone
            ∧ t = { q with view := { s.view with peers := t.view.peers, everSeen := true } })
      ∧ (f.kind = 4 → e.presence ≠ .present →
          ∃ t, exec .frameApplication s = .next t
            ∧ t.view.entry i = e.heard ∧ OtherEntriesKept i s t ∧ t.tallyCounts
            ∧ t.view.everSeen = true ∧ t.view.alone = s.view.alone
            ∧ (s.cab.decoder ≠ .invalidPeers →
                t = { q with view := t.view, alloc := s.withTrigger.alloc }))

/-- R52, R70, R76, R77, R122, R124, R184: a good frame with the station's own number raises ADDRESS_CONFLICT (34, STOP, latched) and
disables the transmitter before the condition acts on the engine: the heartbeat stops, the mailbox and, with no frame in transmission,
the slots are emptied; an OFFERED or LAPSED claim ends without a record, at the joining also while a frame is in transmission (the
model's reading, log 19). An ONLINE engine goes to UNLOADING with reason CONDITION, one at notch 0 on to COOLDOWN, and one in RUNUP or
WARMUP to COOLDOWN, each on to STOPPING with COOLDOWN 0; UNLOADING and COOLDOWN go on with that reason; a start in PRELUBE, CLAIM_WAIT
or CLAIM_SETTLE is cancelled, a claim that settles being given up with its RELEASE refused; where R4 gives the condition no effect the
engine stands. The table is not touched. A second such frame adds nothing. That no step is taken at the UNLOADING entry itself, so that
notch 1 with its dwell time elapsed is no exception, is the model's reading of R129 against R130's words (log 11). -/
def Obligations.OwnNumberHeardDisablesTheTransmitter : Prop :=
  ∀ (s : State) (b : Fin 8) (rest : List (Fin 8)),
    let q := s.taking b rest
    let silent : LinkUnit := { q.link with txEnabled := false, heartbeat := .stopped }
    let off : LinkUnit :=
      if s.link.sending.isSome then { silent with disablePending := true } else silent.cleared
    s.frameDue = true → s.link.postList = b :: rest →
      (s.link.buffers[b]).source.toNat = s.load.station → s.load.station ≠ 0 →
      (s.seq.state ∈ [.init, .isolated, .stopped, .cranking, .stopping, .faulted] →
          hasCode s.mon.conditions 34 = false →
          ∃ t, exec .frameApplication s = .next t
            ∧ t = { q with
                mon := { s.mon with conditions := t.mon.conditions }
                out := { s.out with alarm := true }, alloc := s.withTrigger.alloc, mailbox := none
                claim := { s.claim with
                  phase := match s.claim.phase with
                    | .offered => .wanted
                    | .lapsed => if s.claim.needStands then .wanted else .idle
                    | p => p }
                link := off }
            ∧ ⟨34, .stop, true, true, 0⟩ ∈ t.mon.conditions ∧ ConditionsBut [34] s t)
      ∧ (s.seq.state = .online → s.stepper.notch ≠ 0 → s.params.dwellDown ≠ 0 →
          s.cab.estop.qualified = false → (∀ m ∈ s.mon.conditions, m.cls ≠ .shutdown) →
          hasCode s.mon.conditions 34 = false →
          ∃ t, exec .frameApplication s = .next t
            ∧ t.seq.state = .unloading ∧ t.seq.stopReason = .condition
            ∧ t.standingCommands = ⟨false, true, false, false⟩
            ∧ ⟨34, .stop, true, true, 0⟩ ∈ t.mon.conditions ∧ t.out.alarm = true
            ∧ t.link = off ∧ t.mailbox = none ∧ t.view = s.view)
      ∧ (s.seq.state ∈ [.runup, .warmup] ∨ s.seq.state = .online ∧ s.stepper.notch = 0 →
          s.cab.estop.qualified = false → (∀ m ∈ s.mon.conditions, m.cls ≠ .shutdown) →
          hasCode s.mon.conditions 34 = false →
          ∃ t, exec .frameApplication s = .next t
            ∧ ⟨34, .stop, true, true, 0⟩ ∈ t.mon.conditions ∧ t.out.alarm = true
            ∧ t.link = off ∧ t.mailbox = none ∧ t.view = s.view
            ∧ (s.params.cooldown ≠ 0 →
                t.seq.state = .cooldown ∧ t.seq.stopReason = .condition
                  ∧ t.standingCommands = ⟨false, true, false, false⟩)
            ∧ (s.params.cooldown = 0 → ConditionLaw s →
                Stopped .cooldown true { q with link := off } t ∧ t.standingCommands = ⟨false, false, false, false⟩))
      ∧ (s.seq.state ∈ [.unloading, .cooldown] → s.cab.estop.qualified = false →
          (∀ m ∈ s.mon.conditions, m.cls ≠ .shutdown) → hasCode s.mon.conditions 34 = false →
          ∃ t, exec .frameApplication s = .next t
            ∧ t.seq = { s.seq with stopReason := .condition } ∧ t.stepper = s.stepper
            ∧ t.ret = s.ret ∧ t.standingCommands = s.standingCommands
            ∧ ⟨34, .stop, true, true, 0⟩ ∈ t.mon.conditions ∧ ConditionsBut [34] s t
            ∧ t.out.alarm = true ∧ t.link = off ∧ t.mailbox = none ∧ t.view = s.view)
      ∧ (s.seq.state ∈ [.prelube, .claimWait, .claimSettle] → hasCode s.mon.conditions 34 = false →
          ∃ t, exec .frameApplication s = .next t
            ∧ t.seq.state = (if s.cab.isolate.qualified then .isolated else .stopped)
            ∧ t.seq.attempts = 0 ∧ t.standingCommands = ⟨false, false, false, false⟩
            ∧ ⟨34, .stop, true, true, 0⟩ ∈ t.mon.conditions ∧ t.out.alarm = true
            ∧ t.link = off ∧ t.mailbox = none ∧ t.view = s.view
            ∧ (s.seq.state = .claimSettle → s.claim.phase = .settling →
                t.claim = s.claim.givenUp s.params)
            ∧ (s.seq.state = .claimWait →
                s.claim.phase = .offered ∨ s.claim.phase = .wanted
                  ∨ s.claim.phase = .lapsed →
                t.claim = { s.claim with phase := .idle }))
      ∧ (hasCode s.mon.conditions 34 = true → s.link.txEnabled = false → s.link.disablePending = false →
          s.link.sending = none → s.link.claimSlot = .empty → s.link.statusMarked = false →
          s.link.replySlot = none → s.link.heartbeat = .stopped → s.mailbox = none →
          s.claim.phase ≠ .offered → s.claim.phase ≠ .lapsed →
          ∃ t, exec .frameApplication s = .next t
            ∧ t = { q with mon := { s.mon with
                conditions := s.mon.conditions.map fun m =>
                  if m.code = 34 then { m with cause := true } else m } })

/-- R68, R69, R74, R79, R83: the expiry of an entry's age timer is held while a pass is in flight; else the entry becomes LOST with its
changed mark, the tally follows and a pass is called for. When that leaves no peer PRESENT and a peer was ever seen, the station
enters ALONE with S_load frozen, and a start in PRELUBE or CLAIM_WAIT is cancelled (R9). -/
def Obligations.AgedPeersAreLost : Prop :=
  ∀ (s : State) (i : Fin 7),
    let e := s.view.entry i
    let last := s.view.everSeen = true ∧ ∀ j : Fin 7, j ≠ i → s.load.station ≠ j.val + 1 →
      (s.view.entry j).presence ≠ .present
    e.age.isRunning = true →
      (s.alloc.phase = .inPass →
          ∃ t, exec (.ageExpiry (i.val + 1)) s = .next t
            ∧ t.view.entry i = { e with age := .expired, heldExpiry := true }
            ∧ OtherEntriesKept i s t ∧ t = { s with view := { s.view with peers := t.view.peers } })
      ∧ (s.alloc.phase ≠ .inPass →
          ∃ t, exec (.ageExpiry (i.val + 1)) s = .next t
            ∧ t.view.entry i = { e with
                presence := .lost, age := .expired, heldExpiry := false, changed := true }
            ∧ OtherEntriesKept i s t ∧ t.tallyCounts
            ∧ (s.alloc.phase = .ready → t.alloc.reEvaluate = true)
            ∧ (¬ last → t.view.alone = s.view.alone ∧ t.view.sFrozen = s.view.sFrozen)
            ∧ (last → t.view.alone = true
                ∧ t.view.sFrozen = if s.view.alone then s.view.sFrozen else s.alloc.results.sLoad)
            ∧ (s.view.alone = false → last →
                s.seq.state = .prelube ∨ s.seq.state = .claimWait →
                t.seq.state = (if s.cab.isolate.qualified then .isolated else .stopped))
            ∧ (s.seq.state ≠ .prelube → s.seq.state ≠ .claimWait → s.cab.decoder ≠ .invalidPeers →
                t = { s with
                  view := t.view, alloc := s.withTrigger.alloc
                  link := { s.link with statusMarked := t.link.statusMarked } }))

/-- R70, R72, R111 to R113, R118, R121: a CLAIM of a peer, and a STATUS with its claim flag set, are recorded by the holder found: none
takes the peer (an own CLAIM in the slot is withdrawn), a lower or the same number takes over, a higher one does not; held by self
it is kept and STATUS marked, but in SETTLING a lower station takes it and the start waits again. A RELEASE, or a STATUS without
the flag, ends the claim of the recorded holder and starts recovery; while ALONE such a STATUS also ends ALONE, and a WANTED claim may
then be offered (R117), so that case is left to R80. A CLAIM or RELEASE calls for a pass whatever it changes (the model's reading of R72
against R86's table, log 15). -/
def Obligations.PeerClaimsAreRecorded : Prop :=
  ∀ (s : State) (b : Fin 8) (rest : List (Fin 8)) (i : Fin 7),
    let f := s.link.buffers[b]
    let n := i.val + 1
    s.frameDue = true → s.link.postList = b :: rest → f.source.toNat = n → s.load.station ≠ n →
      (∀ c, f.kind = 0 → decodeClaim f.data = some c →
          ∃ t, exec .frameApplication s = .next t
            ∧ t.view.entry i = (s.view.entry i).heard ∧ OtherEntriesKept i s t ∧ t.tallyCounts
            ∧ t.claim.foreignMark = false
            ∧ (s.alloc.phase = .ready → t.alloc.reEvaluate = true)
            ∧ (s.claim.phase ≠ .settling ∨ s.claim.holder ≠ .self ∨ s.load.station ≤ n →
                ClaimRecorded n (400 + c.crankLimit * 100 + 1000) s t
                  ∧ t.seq = s.seq ∧ t.stepper = s.stepper ∧ t.out = s.out ∧ t.ret = s.ret)
            ∧ (s.claim.phase = .settling → s.claim.holder = .self → n < s.load.station →
                s.seq.state = .claimSettle → NoStandingCause s →
                ConflictLost n (400 + c.crankLimit * 100 + 1000) s t))
      ∧ (∀ r, f.kind = 2 → decodeStatus f.data = some r → r.claimHeld = true →
          s.view.alone = false →
          ∃ t, exec .frameApplication s = .next t
            ∧ t.claim.foreignMark = s.claim.foreignMark
            ∧ (s.claim.phase ≠ .settling ∨ s.claim.holder ≠ .self ∨ s.load.station ≤ n →
                ClaimRecorded n (r.claimRemaining * 100 + 1000) s t
                  ∧ t.seq = s.seq ∧ t.stepper = s.stepper ∧ t.out = s.out ∧ t.ret = s.ret)
            ∧ (s.claim.phase = .settling → s.claim.holder = .self → n < s.load.station →
                s.seq.state = .claimSettle → NoStandingCause s →
                ConflictLost n (r.claimRemaining * 100 + 1000) s t))
      ∧ (f.kind = 1 →
          ∃ t, exec .frameApplication s = .next t
            ∧ t.view.entry i = (s.view.entry i).heard ∧ OtherEntriesKept i s t ∧ t.tallyCounts
            ∧ (s.alloc.phase = .ready → t.alloc.reEvaluate = true) ∧ t.seq = s.seq
            ∧ t.claim = (if s.claim.holder = .peer n then
                { s.claim with
                  holder := .none, lease := .stopped
                  recovery := .running (s.params.recoveryTime * 1000) }
              else s.claim))
      ∧ (∀ r, f.kind = 2 → decodeStatus f.data = some r → r.claimHeld = false →
          s.view.alone = false ∨ s.link.linkFault = true ∨ s.claim.phase ≠ .wanted →
          ∃ t, exec .frameApplication s = .next t ∧ t.seq = s.seq
            ∧ t.claim = (if s.claim.holder = .peer n then
                { s.claim with
                  holder := .none, lease := .stopped
                  recovery := .running (s.params.recoveryTime * 1000) }
              else s.claim))

/-! ## Passes -/

namespace Sys2Proof.Machine

/-- The stop-delay timer after a pass end with results `r` (R105). -/
def State.delayAfter (s : State) (r : PassResults) : Timer :=
  if r.rankedIn = false ∧ r.mode = .service ∧ s.cab.mode = .service
      ∧ s.seq.state.rankClass = some 0 then
    if s.alloc.stopDelay = .stopped then .running (s.params.stopDelay * 1000)
    else s.alloc.stopDelay
  else .stopped

/-- The station when a pass has been published and the drain begins, before the Sequencer and the Stepper act on it (R66, R91). -/
def State.published (s : State) : State :=
  { s with
    alloc := { s.alloc with
      results := s.passResults, stopDelay := s.delayAfter s.passResults, phase := .ready }
    link := { (s.withMarkIf (s.passResults.target != s.alloc.results.target)).link with
      draining := !s.link.postList.isEmpty, drainLeft := s.link.postList.length } }

/-- The conditions of the allocation stop (R17). -/
def State.stopsByAllocation (s : State) : Prop :=
  s.seq.state = .online ∧ s.seq.minRun = .expired ∧ s.alloc.results.rankedIn = false
    ∧ (s.cab.mode = .service → s.alloc.stopDelay = .expired ∧ s.view.alone = false)
    ∧ (s.cab.mode = .layover → s.alloc.results.coldRunConfirmed = false)

/-- An examination of R17: an allocation stop with load to shed enters UNLOADING, and where R17 does not hold nothing happens. -/
def StopExamined (s t : State) : Prop :=
  (¬ s.stopsByAllocation → t = s)
    ∧ (s.stopsByAllocation → NoStandingCause s → s.params.dwellDown ≠ 0 → s.stepper.notch ≠ 0 →
        Entered .unloading s t ∧ TransitionFrame [] s t ∧ ClaimKept s t
          ∧ RecordsKept { s with seq := { s.seq with stopReason := .allocation } } t
          ∧ t.stepper.notch = s.stepper.notch)
    ∧ (s.stopsByAllocation → NoStandingCause s → s.stepper.notch = 0 → s.params.cooldown ≠ 0 →
        Entered .cooldown s t ∧ TransitionFrame [] s t ∧ ClaimKept s t
          ∧ RecordsKept { s with seq := { s.seq with stopReason := .allocation } } t)
    ∧ (s.stopsByAllocation → NoStandingCause s → s.stepper.notch = 0 → s.params.cooldown = 0 →
        ConditionLaw s →
        Stopped .cooldown s.stopLatched s t ∧ TransitionFrame [] s t)

/-- One step of the notch to `n` in ONLINE or UNLOADING (R127, R130, R133, R134). -/
def StepTo (n : Nat) (s t : State) : Prop :=
  let rpm := if n = 0 then s.params.idleSpeed else s.params.entSpeed.getD (n - 1) 0
  t = { s with
    stepper := ⟨n, ⟨true, 0, false, false⟩, some rpm⟩, link := s.withMark.link, port := t.port }
  ∧ (s.stepper.setpoint = some rpm → t.port = s.port)
  ∧ (s.stepper.setpoint ≠ some rpm →
      Granted t { s.port with pendSetpointWrite := true } t.port)

/-- An examination of R130 by the dwell count as it stands; the last step of UNLOADING leads to COOLDOWN (R19). -/
def StepExamined (s t : State) : Prop :=
  let target := if s.seq.state = .online then s.alloc.results.target else 0
  let up := s.seq.state.steps = true ∧ s.stepper.notch < target
    ∧ s.params.dwellUp * 100 ≤ s.stepper.dwell.count
  let down := s.seq.state.steps = true ∧ target < s.stepper.notch
    ∧ s.params.dwellDown * 100 ≤ s.stepper.dwell.count
  (up → StepTo (s.stepper.notch + 1) s t)
    ∧ (down → s.seq.state = .online ∨ s.stepper.notch ≠ 1 → StepTo (s.stepper.notch - 1) s t)
    ∧ (down → s.seq.state = .unloading → s.stepper.notch = 1 → NoStandingCause s →
        s.params.cooldown ≠ 0 →
        Entered .cooldown s t ∧ TransitionFrame [] s t ∧ RecordsKept s t ∧ ClaimKept s t
          ∧ t.stepper.notch = 0)
    ∧ (¬ up → ¬ down → t = s)

/-- No age expiry is held by the view (R69). -/
abbrev State.nothingHeld (s : State) : Prop := ∀ i : Fin 7, (s.view.entry i).heldExpiry = false

end Sys2Proof.Machine

/-- R66, R69, R75, R85 to R91, R105: the listen expiry makes the Allocator READY with a pass called for; the evaluation expiry calls
for one. A pass that is due starts: re-evaluate flag clear, evaluation timer 200 ms, the self entry built, the snapshot taken, all
changed marks cleared; one that is not due does not, as while a frame is taken up to be applied (R86; log 2, log 4). At its end the
results are published as one set, the stop-delay timer follows them, a new target is a mark, the Allocator is READY and the drain of
the post list begins; in the states where a pass end is no event for the engine nothing else changes. -/
def Obligations.PassesTakeASnapshotAndPublish : Prop :=
  ∀ s : State,
    (s.alloc.listen.isRunning = true →
        ∃ t, exec .listenTimerExpiry s = .next t
          ∧ t = { s with alloc := { s.alloc with
              listen := .expired, phase := .ready, reEvaluate := true } })
    ∧ (s.alloc.evaluation.isRunning = true →
        ∃ t, exec .evaluationTimerExpiry s = .next t
          ∧ t = { s with alloc := { s.withTrigger.alloc with evaluation := .expired } })
    ∧ (s.alloc.phase = .ready → s.alloc.reEvaluate = true → s.link.applying = none →
        s.link.headTaken = false → s.link.draining = false →
        ∃ t, exec .passStart s = .next t
          ∧ t = { s with
              view := { s.view with peers := t.view.peers }
              alloc := { s.alloc with
                phase := .inPass, reEvaluate := false, evaluation := .running 200
                snapshot := {
                  demand := s.cab.demand, mode := s.cab.mode
                  self := if 1 ≤ s.load.station ∧ s.load.station ≤ 7 then some s.selfRecord else none
                  derate := s.mon.derate, unload := s.mon.conditions.any fun m => m.cls == .unload
                  alone := s.view.alone, sFrozen := s.view.sFrozen } } }
          ∧ (∀ i : Fin 7, s.load.station = i.val + 1 →
              t.view.entry i = { s.view.entry i with
                presence := .present, record := some s.selfRecord, changed := false })
          ∧ ∀ i : Fin 7, s.load.station ≠ i.val + 1 →
              t.view.entry i = { s.view.entry i with changed := false })
    ∧ (s.alloc.phase ≠ .ready ∨ s.alloc.reEvaluate = false ∨ s.link.applying ≠ none
          ∨ s.link.headTaken = true ∨ s.link.draining = true →
        ∃ t, exec .passStart s = .next t ∧ t = s)
    ∧ (s.alloc.phase = .inPass → s.nothingHeld →
        s.seq.state ∈ [.init, .isolated, .cranking, .runup, .warmup, .stopping, .faulted] →
        ∃ t, exec .passEnd s = .next t ∧ t = s.published)
    ∧ (s.alloc.phase = .inPass →
        ∃ t, exec .passEnd s = .next t
          ∧ t.alloc.results = s.passResults ∧ t.alloc.phase = .ready
          ∧ t.alloc.snapshot = s.alloc.snapshot
          ∧ t.link.draining = !s.link.postList.isEmpty
          ∧ t.link.drainLeft = s.link.postList.length ∧ t.link.postList = s.link.postList
          ∧ ∀ i : Fin 7, t.view.entry i = (if (s.view.entry i).heldExpiry = true then
              { s.view.entry i with presence := .lost, heldExpiry := false, changed := true }
            else s.view.entry i))

/-- R7 to R9, R11, R17, R19, R21, R128, R130: at a pass end a run basis starts an eligible STOPPED engine that is not ALONE and has
no ESTOP, through PRELUBE or, with PRELUBE_TIME 0, in CLAIM_WAIT with the claim needed; the lack of one cancels a start; an ONLINE
engine takes the allocation stop of its mode when R17 holds, by the results just published; UNLOADING and COOLDOWN return to ONLINE
on a run basis with reason ALLOCATION. Where none of this gives a transition the notch is examined: in ONLINE it moves one step
toward the published target, and in UNLOADING toward 0, when its dwell time has elapsed; else nothing but the publication changes.
That no step is taken at the UNLOADING entry itself is the model's reading of R129 against R130's words (log 11), and what a
SETPOINT_WRITE leaves in the port buffer its choice (log 21). -/
def Obligations.PassEndsStartAndStopTheEngine : Prop :=
  ∀ s : State,
    let r := s.passResults
    let basis := r.rankedIn || r.coldRunConfirmed
    let q := s.published
    s.alloc.phase = .inPass → s.nothingHeld →
      (s.seq.state = .stopped → basis = true → r.selfEligible = true → s.view.alone = false →
          NoStandingCause s →
          (s.params.prelubeTime ≠ 0 →
              ∃ t, exec .passEnd s = .next t ∧ Entered .prelube q t ∧ TransitionFrame [] q t
                ∧ RecordsKept q t ∧ ClaimKept q t)
            ∧ (s.params.prelubeTime = 0 → s.claim.phase = .idle →
                ∃ t, exec .passEnd s = .next t ∧ Entered .claimWait q t ∧ TransitionFrame [] q t
                  ∧ RecordsKept q t ∧ t.claim.attempt = s.seq.attempts + 1
                  ∧ (t.claim.phase = .wanted ∨ t.claim.phase = .offered)))
      ∧ (s.seq.state = .stopped →
          basis = false ∨ r.selfEligible = false ∨ s.view.alone = true
            ∨ s.cab.estop.qualified = true →
          ∃ t, exec .passEnd s = .next t ∧ t = q)
      ∧ (s.seq.state ∈ [.prelube, .claimWait, .claimSettle] →
          (basis = true → ∃ t, exec .passEnd s = .next t ∧ t = q)
            ∧ (basis = false →
                ∃ t, exec .passEnd s = .next t
                  ∧ Entered (if s.cab.isolate.qualified then .isolated else .stopped) q t
                  ∧ TransitionFrame [] q t ∧ t.seq.attempts = 0 ∧ t.seq.stopReason = .none
                  ∧ t.seq.rest = s.seq.rest
                  ∧ (s.seq.state = .claimSettle → s.claim.phase = .settling →
                      t.claim = s.claim.givenUp s.params
                        ∧ t.link.claimSlot = s.slotReleasing .abandoned)))
      ∧ (s.seq.state = .unloading ∨ s.seq.state = .cooldown → s.params.dwellUp ≠ 0 →
          s.params.dwellDown ≠ 0 →
          (basis = true → s.seq.stopReason = .allocation → NoStandingCause s →
              ∃ t, exec .passEnd s = .next t ∧ Entered .online q t ∧ TransitionFrame [] q t
                ∧ RecordsKept { q with seq := { s.seq with stopReason := .none } } t
                ∧ t.stepper.notch = s.stepper.notch ∧ ClaimKept q t)
            ∧ (basis = false ∨ s.seq.stopReason ≠ .allocation →
                ∃ t, exec .passEnd s = .next t ∧ StepExamined q t))
      ∧ (s.seq.state = .online →
          ∃ t, exec .passEnd s = .next t
            ∧ (q.stopsByAllocation → StopExamined q t)
            ∧ (¬ q.stopsByAllocation → StepExamined q t))

/-! ## The engine's sequence and the notch -/

namespace Sys2Proof.Machine

/-- A failed crank attempt (R10, R13, R26): the count grows and the claim is released as FAILED; below MAX_ATTEMPTS the rest timer runs
and the start waits for the claim again; else FAIL_TO_START joins and the engine stops. -/
def AttemptFailed (s t : State) : Prop :=
  (s.seq.attempts + 1 < s.params.maxAttempts → NoStandingCause s →
      Entered .claimWait s t ∧ TransitionFrame [] s t
        ∧ RecordsKept { s with seq := { s.seq with
            attempts := s.seq.attempts + 1, rest := .running (s.params.restTime * 1000) } } t
        ∧ t.claim = { s.claim.givenUp s.params with phase := .wanted, attempt := s.seq.attempts + 2 }
        ∧ t.link.claimSlot = s.slotReleasing .failed)
    ∧ (s.params.maxAttempts ≤ s.seq.attempts + 1 → hasCode s.mon.conditions 24 = false →
        Stopped .cranking true s t ∧ TransitionFrame [24] s t
          ∧ t.seq.attempts = s.seq.attempts + 1 ∧ t.seq.rest = s.seq.rest
          ∧ ⟨24, .shutdown, true, false, 0⟩ ∈ t.mon.conditions ∧ t.out.alarm = true
          ∧ t.claim = s.claim.givenUp s.params ∧ t.link.claimSlot = s.slotReleasing .failed)

end Sys2Proof.Machine

/-- R8, R10 to R12, R24, R120, R122, R147, R165: with PRELUBE_REQUIRED off the end of PRELUBE_TIME goes on to CLAIM_WAIT and needs
the claim, with it on PRELUBE_FAIL joins and the station is FAULTED, its record taken in PRELUBE; the settle expiry starts the
cranking with the claim held; the fire-confirm expiry is the fire: the claim is released as FIRED, the count cleared, the
minimum-run and grace timers started, and RUNUP entered. A settle expiry that finds no settle timer running, or the own claim in another
phase than SETTLING, is none (log 2). -/
def Obligations.StartSequenceMovesOn : Prop :=
  ∀ s : State,
    (s.seq.state = .prelube → s.params.prelubeRequired = false → NoStandingCause s →
        s.claim.phase = .idle →
        ∃ t, exec .prelubeTimeExpiry s = .next t
          ∧ Entered .claimWait s t ∧ TransitionFrame [] s t ∧ RecordsKept s t
          ∧ t.claim = { s.claim with phase := t.claim.phase, attempt := s.seq.attempts + 1 }
          ∧ (t.claim.phase = .wanted ∨ t.claim.phase = .offered))
    ∧ (s.seq.state = .prelube → s.params.prelubeRequired = true → hasCode s.mon.conditions 27 = false →
        ∃ t, exec .prelubeTimeExpiry s = .next t
          ∧ Entered .faulted s t ∧ TransitionFrame [27] s t ∧ ClaimKept s t
          ∧ t.seq.snapshot = ⟨.prelube, s.mon.speed, s.stepper.notch⟩
          ∧ t.seq.attempts = s.seq.attempts ∧ t.seq.stopReason = .none
          ∧ t.ret.record = some ⟨recordCause t.mon.conditions, .prelube, s.mon.speed,
              s.stepper.notch, s.load.hours⟩
          ∧ ⟨27, .stop, true, false, 0⟩ ∈ t.mon.conditions ∧ t.out.alarm = true)
    ∧ (s.claim.settle.isRunning = true → s.claim.phase = .settling → s.seq.state = .claimSettle →
        s.cab.estop.qualified = false → s.cab.isolate.qualified = false → (∀ m ∈ s.mon.conditions, m.cls ≠ .shutdown) →
        ∃ t, exec .settleExpiry s = .next t
          ∧ Entered .cranking s t ∧ TransitionFrame [] s t ∧ RecordsKept s t
          ∧ t.claim = { s.claim with settle := .expired, phase := .cranking }
          ∧ t.link.claimSlot = s.link.claimSlot)
    ∧ (s.claim.settle.isRunning = false ∨ s.claim.phase ≠ .settling →
        ∃ t, exec .settleExpiry s = .next t ∧ t = s)
    ∧ (s.seq.state = .cranking → s.seq.fireConfirm.isRunning = true → s.claim.phase = .cranking →
        NoStandingCause s →
        ∃ t, exec .fireConfirmExpiry s = .next t
          ∧ Entered .runup s t ∧ TransitionFrame [] s t
          ∧ RecordsKept { s with seq := { s.seq with
              attempts := 0, minRun := .running (s.params.minRun * 1000) } } t
          ∧ t.claim = s.claim.givenUp s.params ∧ t.link.claimSlot = s.slotReleasing .fired
          ∧ t.mon.runPhase = .grace ∧ t.mon.grace = .running (s.params.oilGrace * 1000)
          ∧ t.ret.wasRunning = true)

/-- R13, R26, R27: a crank attempt fails at CRANK_TIME, at a heat update that brings the heat to HEAT_TRIP, and when CRANK_OPEN joins
because CRANK was not proved on within the proving time. -/
def Obligations.CrankAttemptsFailThreeWays : Prop :=
  ∀ s : State, s.seq.state = .cranking → s.claim.phase = .cranking →
    (∃ t, exec .crankTimeExpiry s = .next t ∧ AttemptFailed s t)
    ∧ (let heat := min 65535 (s.claim.heat - s.claim.heat * s.params.heatDecay / 4096
        + if s.out.crank then s.params.heatInc else 0)
      s.claim.heatTimer.isRunning = true → s.params.heatTrip ≤ heat →
        ∃ t, exec .heatUpdate s = .next t
          ∧ AttemptFailed
              { s with claim := { s.claim with heat := heat, heatTimer := .running 100 } } t)
    ∧ (s.out.crankProving.timer.isRunning = true → s.out.crank = true →
        s.out.crankProving.feedback.matchesCommand true = false →
        hasCode s.mon.conditions 28 = false →
        ∃ t, exec (.provingTimerExpiry .crank) s = .next t
          ∧ AttemptFailed
              { s with out := { s.out with
                  crankProving := { s.out.crankProving with proof := .disagree, timer := .expired } } }
              t)

/-- R1, R15, R16, R20, R22 to R24: RUNUP_TIME raises RUNUP_FAIL and stops the engine; WARM_MIN with a warm engine, and WARM_MAX,
enter ONLINE; the end of COOLDOWN enters STOPPING; STOP_LIMIT raises FAIL_TO_STOP and enters FAULTED with the record of the stop
snapshot. A limit has no effect outside its own state (log 2). -/
def Obligations.RunningSequenceMovesOn : Prop :=
  ∀ s : State,
    (s.seq.state = .runup → hasCode s.mon.conditions 25 = false →
        ∃ t, exec .runupTimeExpiry s = .next t
          ∧ Stopped .runup true s t ∧ TransitionFrame [25] s t ∧ ClaimKept s t
          ∧ ⟨25, .shutdown, true, false, 0⟩ ∈ t.mon.conditions ∧ t.out.alarm = true)
    ∧ (s.seq.state = .warmup →
        let elapsed := max s.seq.stateTimer (s.params.warmMin * 1000)
        ((s.params.tWarm : Int) ≤ s.mon.coolant.value ∨ s.params.warmMax * 1000 ≤ elapsed →
            NoStandingCause s → s.allocationStop = false → s.params.dwellUp ≠ 0 →
            s.params.dwellDown ≠ 0 →
            ∃ t, exec .warmMinExpiry s = .next t
              ∧ Entered .online s t ∧ TransitionFrame [] s t ∧ RecordsKept s t ∧ ClaimKept s t
              ∧ t.stepper.notch = s.stepper.notch)
          ∧ (s.mon.coolant.value < s.params.tWarm → elapsed < s.params.warmMax * 1000 →
              ∃ t, exec .warmMinExpiry s = .next t
                ∧ t = { s with seq := { s.seq with stateTimer := elapsed } })
          ∧ (s.params.warmMin ≤ s.params.warmMax → NoStandingCause s → s.allocationStop = false →
              s.params.dwellUp ≠ 0 → s.params.dwellDown ≠ 0 →
              ∃ t, exec .warmMaxExpiry s = .next t
                ∧ Entered .online s t ∧ TransitionFrame [] s t ∧ RecordsKept s t ∧ ClaimKept s t
                ∧ t.stepper.notch = s.stepper.notch))
    ∧ (s.seq.state = .cooldown → ConditionLaw s →
        ∃ t, exec .cooldownExpiry s = .next t
          ∧ Stopped .cooldown s.stopLatched s t ∧ TransitionFrame [] s t ∧ ClaimKept s t)
    ∧ (s.seq.state = .stopping → hasCode s.mon.conditions 26 = false →
        ∃ t, exec .stopLimitExpiry s = .next t
          ∧ Entered .faulted s t ∧ TransitionFrame [26] s t ∧ ClaimKept s t
          ∧ RecordsKept { s with seq := { s.seq with stopReason := .none } } t
          ∧ t.ret.record = some ⟨recordCause t.mon.conditions, s.seq.snapshot.state,
              s.seq.snapshot.speed, s.seq.snapshot.notch, s.load.hours⟩
          ∧ ⟨26, .shutdown, true, true, 0⟩ ∈ t.mon.conditions ∧ t.out.alarm = true)
    ∧ ∀ p ∈ [(Instr.prelubeTimeExpiry, EngineState.prelube), (.crankTimeExpiry, .cranking),
          (.fireConfirmExpiry, .cranking), (.runupTimeExpiry, .runup), (.warmMinExpiry, .warmup),
          (.warmMaxExpiry, .warmup), (.cooldownExpiry, .cooldown), (.stopLimitExpiry, .stopping)],
        s.seq.state ≠ p.2 → ∃ t, exec p.1 s = .next t ∧ t = s

/-- R17, R19, R105, R127 to R130, R133, R134: the expiries of the minimum-run and the stop-delay timer let the allocation stop be
examined; the dwell events let the notch take one step toward the effective target, with its setpoint and mark, and the step to 0 in
UNLOADING leads to COOLDOWN. R131: a dwell event that finds the count below its dwell time, because the timer was restarted, is none,
nor is one already given since the last restart, or one with the dwell timer stopped (log 2). That no step is taken at the UNLOADING
entry itself is the model's reading of R129 against R130's words (log 11); what a SETPOINT_WRITE leaves in the port buffer is its
choice (log 21). -/
def Obligations.OnlineEngineStepsAndStops : Prop :=
  ∀ s : State,
    (s.seq.minRun.isRunning = true →
        ∃ t, exec .minRunExpiry s = .next t
          ∧ StopExamined { s with seq := { s.seq with minRun := .expired } } t)
    ∧ (s.alloc.stopDelay.isRunning = true →
        ∃ t, exec .stopDelayExpiry s = .next t
          ∧ StopExamined { s with alloc := { s.alloc with stopDelay := .expired } } t)
    ∧ (s.stepper.dwell.running = true → s.stepper.dwell.upGiven = false →
        s.params.dwellUp * 100 ≤ s.stepper.dwell.count →
        ∃ t, exec .upDwellEvent s = .next t
          ∧ StepExamined { s with stepper := { s.stepper with
              dwell := { s.stepper.dwell with upGiven := true } } } t)
    ∧ (s.stepper.dwell.running = true → s.stepper.dwell.downGiven = false →
        s.params.dwellDown * 100 ≤ s.stepper.dwell.count →
        ∃ t, exec .downDwellEvent s = .next t
          ∧ StepExamined { s with stepper := { s.stepper with
              dwell := { s.stepper.dwell with downGiven := true } } } t)
    ∧ (s.stepper.dwell.running = false ∨ s.stepper.dwell.upGiven = true
          ∨ s.stepper.dwell.count < s.params.dwellUp * 100 →
        ∃ t, exec .upDwellEvent s = .next t ∧ t = s)
    ∧ (s.stepper.dwell.running = false ∨ s.stepper.dwell.downGiven = true
          ∨ s.stepper.dwell.count < s.params.dwellDown * 100 →
        ∃ t, exec .downDwellEvent s = .next t ∧ t = s)

/-- R114, R115, R117, R125: the lease expiry ends the holder's claim and starts recovery; the expiries of the recovery and the rest
timer, and every heat update in WANTED, let the offer be examined; a heat update computes H − floor(H × HEAT_DECAY / 4096) + I, I
being HEAT_INC while CRANK is commanded on, held at 65535, and restarts the heat timer; below HEAT_TRIP, or outside CRANKING, it
does no more. -/
def Obligations.ClaimTimersEndAndOffer : Prop :=
  ∀ s : State,
    (s.claim.lease.isRunning = true →
        ∃ t, exec .leaseExpiry s = .next t
          ∧ t = { s with claim := { s.claim with
              holder := .none, lease := .stopped
              recovery := .running (s.params.recoveryTime * 1000) } })
    ∧ (s.claim.recovery.isRunning = true →
        ∃ t, exec .recoveryTimerExpiry s = .next t
          ∧ Examined { s with claim := { s.claim with recovery := .expired } } t)
    ∧ (s.seq.rest.isRunning = true →
        ∃ t, exec .restTimerExpiry s = .next t
          ∧ Examined { s with seq := { s.seq with rest := .expired } } t)
    ∧ (let heat := min 65535 (s.claim.heat - s.claim.heat * s.params.heatDecay / 4096
        + if s.out.crank then s.params.heatInc else 0)
      let r : State := { s with claim := { s.claim with heat := heat, heatTimer := .running 100 } }
      s.claim.heatTimer.isRunning = true →
        (s.claim.phase = .wanted → ∃ t, exec .heatUpdate s = .next t ∧ Examined r t)
          ∧ (s.claim.phase ≠ .wanted →
              s.claim.phase ≠ .cranking ∨ s.seq.state ≠ .cranking ∨ heat < s.params.heatTrip →
              ∃ t, exec .heatUpdate s = .next t ∧ t = r))

/-! ## Measurements, protection, feedback -/

namespace Sys2Proof.Machine

/-- A code that was not in the set has joined it with its class and latch flag, its cause present, active for no time yet, and
ALARM is on (R158, R163); the rest of the set stands. -/
abbrev Joined (m : Member) (s t : State) : Prop :=
  m ∈ t.mon.conditions ∧ ConditionsBut [m.code] s t ∧ t.out = { s.out with alarm := true }

/-- A window that takes one more sample (R145): it holds at most four. -/
def windowWith (w : List Int) (x : Int) : List Int :=
  (if w.length < 4 then w else w.drop (w.length - 3)) ++ [x]

/-- The sample of a raw reading (R144): coolant −40 °C to 150 °C, the two others 0 to 1000. -/
def sampleOf : Channel → Nat → Int
  | .coolant, raw => -40 + ((raw - 64) * 190 / 896 : Nat)
  | .oil, raw | .battery, raw => ((raw - 64) * 1000 / 896 : Nat)

/-- A channel after one sample, by the four rows of R145. -/
def ChannelSampled (c : Channel) (raw : Nat) (a b : AnalogChannel) : Prop :=
  let w := windowWith a.window (sampleOf c raw)
  (raw < 64 ∨ 960 < raw → b = { a with raw := raw, window := [], fault := true })
    ∧ (64 ≤ raw → raw ≤ 960 → a.fault = false ∨ 4 ≤ w.length →
        b = ⟨raw, w, w.sum / w.length, false⟩)
    ∧ (64 ≤ raw → raw ≤ 960 → a.fault = true → w.length < 4 →
        b = { a with raw := raw, window := w })

/-- The station with the state of one protective input replaced. -/
abbrev State.withInput (s : State) (k : Fin 12) (i : ProtectiveInput) : State :=
  { s with mon := { s.mon with inputs := s.mon.inputs.set k i } }

/-- Input Dk is masked (R155): not enabled, or start-masked outside RUN. -/
abbrev State.inputMasked (s : State) (k : Fin 12) : Prop :=
  s.mon.routing[k].enable = false
    ∨ s.mon.routing[k].startMask = true ∧ s.mon.runPhase ≠ .run

/-- The stability timer that an entry starts (R155). -/
abbrev RoutingEntry.starts (e : RoutingEntry) : Timer :=
  if e.qualifyTime = 0 then .stopped else .running (e.qualifyTime * 100)

/-- An input at a sample that compares nothing (R155): the first sample and a changed level restart the timer of an unmasked input. -/
def InputSampled (s t : State) (k : Fin 12) (closed : Bool) : Prop :=
  let i := s.mon.inputs[k]
  t.mon.inputs[k] =
    ⟨closed, true,
      if (i.sampledYet = true ∧ i.closed = closed) ∨ s.inputMasked k then i.stability
      else s.mon.routing[k].starts,
      i.active⟩

/-- The mismatch code of an output for a command (R170). -/
def codeOfMismatch : ProvedOutput → Bool → Nat
  | .crank, true => 28
  | .crank, false => 29
  | .fuel, true => 30
  | .fuel, false => 31
  | .prelube, _ => 32

end Sys2Proof.Machine

/-- R8, R16, R41, R144, R145, R150 to R153: a sample outside the band empties the window and sets the sensor fault, whose code joins; one
inside joins the window, and the value is the mean, but for a faulty channel until it holds four. No other channel changes. A
battery value at V_OK clears battery need; an oil value ends PRELUBE at PRELUBE_PRESSURE and, in RUN, raises LOW_OIL below
OIL_MIN_RUN, which stops the engine; a coolant value renews F and C, clears cold run at T_WARM_STOP, raises OVERTEMP at T_TRIP and
lets a warm engine go ONLINE. -/
def Obligations.AnalogSamplesFillTheirWindows : Prop :=
  ∀ (s : State) (c : Channel) (raw : Nat),
    ∃ t, exec (.analogSample c raw) s = .next t
      ∧ ChannelSampled c raw (s.mon.channel c) (t.mon.channel c)
      ∧ (∀ d : Channel, d ≠ c → t.mon.channel d = s.mon.channel d)
      ∧ (let r : State := { s with mon := s.mon.setChannel c (t.mon.channel c) }
        let v := (t.mon.channel c).value
        let code := match c with | .coolant => 16 | .oil => 17 | .battery => 18
        ((s.mon.channel c).fault = false → raw < 64 ∨ 960 < raw → hasCode s.mon.conditions code = false →
            ⟨code, .alarm, false, true, 0⟩ ∈ t.mon.conditions ∧ t.out.alarm = true
              ∧ (c = .coolant → t.cab.coldRun = false)
              ∧ (c = .battery → t.cab.batteryNeed = false))
        ∧ ((s.mon.channel c).fault = true → (t.mon.channel c).fault = false →
            (∀ m ∈ s.mon.conditions, m.code = code → m.latched = false) →
            hasCode t.mon.conditions code = false)
        ∧ ((t.mon.channel c).fault = (s.mon.channel c).fault →
            (c = .battery →
              t = { r with
                cab := { s.cab with
                  batteryNeed := s.cab.batteryNeed
                    && !(!s.mon.battery.fault && decide ((s.params.vOk : Int) ≤ v)) }
                link := (s.withMarkIf (s.cab.batteryNeed && !t.cab.batteryNeed)).link })
            ∧ (c = .oil → s.seq.state ≠ .prelube → s.mon.runPhase ≠ .run → t = r)
            ∧ (c = .oil → s.mon.runPhase = .run → s.seq.state ≠ .prelube →
                hasCode s.mon.conditions 21 = false → (s.params.oilMinRun : Int) ≤ v → t = r)
            ∧ (c = .oil → s.mon.runPhase = .run →
                s.seq.state ∈ [.runup, .warmup, .online, .unloading, .cooldown] →
                hasCode s.mon.conditions 21 = false → v < s.params.oilMinRun →
                Stopped s.seq.state true r t ∧ TransitionFrame [] r t
                  ∧ ⟨21, .shutdown, true, false, 0⟩ ∈ t.mon.conditions ∧ t.out.alarm = true)
            ∧ (c = .oil → s.seq.state = .prelube → s.mon.runPhase ≠ .run →
                (v < s.params.prelubePressure → t = r)
                  ∧ ((s.params.prelubePressure : Int) ≤ v → NoStandingCause s →
                      s.claim.phase = .idle →
                      Entered .claimWait r t ∧ TransitionFrame [] r t ∧ RecordsKept r t
                        ∧ t.claim.attempt = s.seq.attempts + 1))
            ∧ (c = .coolant → s.loaded = true → s.seq.state ≠ .warmup → v < s.params.tTrip →
                hasCode s.mon.conditions 19 = false → hasCode s.mon.conditions 20 = false →
                t.mon.derate = r.derateFactor
                  ∧ t.mon.capacity = s.params.ratedPower * r.derateFactor / 256
                  ∧ t = { r with
                      mon := { r.mon with derate := t.mon.derate, capacity := t.mon.capacity }
                      cab := { s.cab with
                        coldRun := s.cab.coldRun
                          && !(!s.mon.coolant.fault && decide ((s.params.tWarmStop : Int) ≤ v)) }
                      link := (s.withMarkIf ((s.cab.coldRun && !t.cab.coldRun)
                        || t.mon.capacity != s.mon.capacity)).link
                      alloc := (s.withTriggerIf (t.mon.derate != s.mon.derate
                        || t.mon.capacity != s.mon.capacity)).alloc })
            ∧ (c = .coolant → s.loaded = true → (s.params.tTrip : Int) ≤ v →
                hasCode s.mon.conditions 19 = false →
                ⟨19, .unload, false, true, 0⟩ ∈ t.mon.conditions ∧ t.out.alarm = true
                  ∧ ((s.params.tTrip : Int) + 5 ≤ v → hasCode s.mon.conditions 20 = false →
                      ⟨20, .shutdown, true, true, 0⟩ ∈ t.mon.conditions
                        ∧ (s.seq.state ∈ [.online, .unloading, .cooldown] →
                            t.seq.state = stoppingLeads true s)))
            ∧ (c = .coolant → s.seq.state = .warmup → s.loaded = true →
                v < s.params.tTrip → hasCode s.mon.conditions 19 = false →
                hasCode s.mon.conditions 20 = false →
                NoStandingCause s → s.allocationStop = false →
                t.seq.state = (if s.params.warmMin * 1000 ≤ s.seq.stateTimer
                    ∧ ((s.params.tWarm : Int) ≤ v ∨ s.params.warmMax * 1000 ≤ s.seq.stateTimer)
                  then .online else .warmup))))

/-- R5, R12, R15, R23, R26, R146 to R149, R181: a speed value is min(3000, floor(pulses × 600 / TEETH)); a running window, minute and
hour are counted from FIRE_SPEED on, an hour writing the shadow and marking HOURS_WRITE; OVERSPEED and STALL stop the engine; the
stall timer runs below half idle; CRANKING confirms the fire, RUNUP goes on to WARMUP at 90 % of idle, STOPPING ends below 30 rpm,
and FAIL_TO_STOP keeps its cause from 30 rpm on. The overspeed test comes before the Sequencer takes the value, so the snapshot holds
the state before it: the model's order of the users of one value (log 14). At the end of OIL_GRACE the run phase is RUN, the start-masked
inputs are unmasked, with no timer for qualify time 0 (the model's reading, log 20), and low oil is tested. -/
def Obligations.SpeedValuesCountAndProtect : Prop :=
  ∀ (s : State) (pulses : Nat),
    let speed := min 3000 (pulses * 600 / s.params.teeth)
    let r : State := { s with mon := { s.mon with speed := speed, speedYet := true } }
    let counts := s.loaded = true ∧ s.params.fireSpeed ≤ speed
    let quiet := (s.loaded = true → speed < s.params.overspeed)
      ∧ hasCode s.mon.conditions 22 = false ∧ hasCode s.mon.conditions 26 = false
    (∃ t, exec (.speedValue pulses) s = .next t ∧ t.mon.speed = speed ∧ t.mon.speedYet = true
      ∧ (¬ counts → t.load = s.load ∧ t.ret.minutes = s.ret.minutes ∧ t.ret.shadow = s.ret.shadow)
      ∧ (counts → s.load.runningWindows + 1 < 600 →
          t.load = { s.load with runningWindows := s.load.runningWindows + 1 }
            ∧ t.ret.minutes = s.ret.minutes ∧ t.ret.shadow = s.ret.shadow)
      ∧ (counts → 600 ≤ s.load.runningWindows + 1 → s.ret.minutes + 1 < 60 →
          t.load = { s.load with runningWindows := 0 } ∧ t.ret.minutes = s.ret.minutes + 1
            ∧ t.ret.shadow = s.ret.shadow)
      ∧ (counts → 600 ≤ s.load.runningWindows + 1 → 60 ≤ s.ret.minutes + 1 →
          t.ret.minutes = 0
            ∧ (s.load.hours < 999999 →
                t.load = { s.load with runningWindows := 0, hours := s.load.hours + 1 }
                  ∧ t.ret.shadow = s.load.hours + 1
                  ∧ (s.load.markerFault = false →
                      t.port.pendHoursWrite = true ∨ t.port.inFlight = some .hoursWrite))
            ∧ (999999 ≤ s.load.hours →
                t.load = { s.load with runningWindows := 0 } ∧ t.ret.shadow = s.ret.shadow))
      ∧ (quiet → ¬ counts → s.seq.state ∈ [.isolated, .stopped, .prelube, .claimWait, .claimSettle,
            .warmup, .online, .unloading, .cooldown, .faulted] →
          t = { r with mon := { r.mon with
            stall := if s.params.idleSpeed / 2 ≤ speed then .stopped
              else if s.seq.state ∈ [.online, .unloading, .cooldown] ∧ s.mon.stall = .stopped then
                .running 2000
              else s.mon.stall } })
      ∧ (s.loaded = true → s.params.overspeed ≤ speed → hasCode s.mon.conditions 22 = false →
          hasCode s.mon.conditions 26 = false → s.seq.state.active = true →
          Stopped s.seq.state true r t ∧ ⟨22, .shutdown, true, true, 0⟩ ∈ t.mon.conditions
            ∧ t.out.alarm = true)
      ∧ (quiet → s.seq.state = .cranking →
          t.seq = { s.seq with
            fireConfirm :=
              if speed < s.params.fireSpeed then .stopped
              else if s.seq.fireConfirm = .stopped then .running 500 else s.seq.fireConfirm }
            ∧ t.stepper = s.stepper ∧ t.out = s.out ∧ t.claim = s.claim)
      ∧ (quiet → s.seq.state = .runup → speed * 10 < s.params.idleSpeed * 9 → t.seq = s.seq)
      ∧ (quiet → s.seq.state = .runup → s.params.idleSpeed * 9 ≤ speed * 10 → NoStandingCause s →
          s.params.warmMin ≠ 0 → Entered .warmup r t ∧ RecordsKept r t ∧ ClaimKept r t)
      ∧ (quiet → s.seq.state = .stopping → 30 ≤ speed → t.seq = s.seq)
      ∧ (quiet → s.seq.state = .stopping → speed < 30 →
          t.seq.state = (if s.stopLatched then .faulted
            else if s.cab.isolate.qualified then .isolated else .stopped))
      ∧ (s.loaded = true → speed < s.params.overspeed → s.seq.state = .faulted →
          (∀ m ∈ s.mon.conditions, m.code = 26 → m.latched = true) →
          ∀ m ∈ t.mon.conditions, m.code = 26 → m.cause = decide (30 ≤ speed)))
    ∧ (s.mon.stall.isRunning = true → hasCode s.mon.conditions 23 = false →
        s.seq.state ∈ [.online, .unloading, .cooldown] →
        ∃ t, exec .stallTimerExpiry s = .next t
          ∧ Stopped s.seq.state true { s with mon := { s.mon with stall := .expired } } t
          ∧ TransitionFrame [23] { s with mon := { s.mon with stall := .expired } } t
          ∧ ⟨23, .shutdown, true, false, 0⟩ ∈ t.mon.conditions ∧ t.out.alarm = true)
    ∧ (s.mon.grace.isRunning = true → hasCode s.mon.conditions 21 = false →
        let g : State := { s with mon := { s.mon with runPhase := .run, grace := .expired } }
        ((s.params.oilMinRun : Int) ≤ s.mon.oil.value →
            ∃ t, exec .graceTimerExpiry s = .next t
              ∧ t = { g with mon := { g.mon with inputs := t.mon.inputs } }
              ∧ ∀ k : Fin 12, t.mon.inputs[k] =
                  (if s.mon.routing[k].enable = true ∧ s.mon.routing[k].startMask = true then
                    { s.mon.inputs[k] with stability := s.mon.routing[k].starts }
                  else s.mon.inputs[k]))
          ∧ (s.mon.oil.value < s.params.oilMinRun →
              s.seq.state ∈ [.runup, .warmup, .online, .unloading, .cooldown] →
              ∃ t, exec .graceTimerExpiry s = .next t
                ∧ Stopped s.seq.state true g t ∧ TransitionFrame [] g t ∧ t.out.alarm = true
                ∧ ⟨21, .shutdown, true, false, 0⟩ ∈ t.mon.conditions))

/-- R18, R154 to R160: a sample restarts the timers of the unmasked inputs whose level changed; the expiry compares the level by the
polarity. An input newly ACTIVE joins the condition set with its class and latch flag: ALARM and UNLOAD leave the engine, DERATE renews
F and C, SHUTDOWN stops a running or starting engine, STOP unloads an ONLINE one that has a notch to shed, and STOP and INHIBIT_START
cancel a start (STOP in the other running states is stated for ADDRESS_CONFLICT). One newly INACTIVE clears the cause of a latched
member, and an unlatched member of class ALARM leaves. With qualify time 0 the sample itself compares; the first sample counts as a
change (log 28). That no step is taken at the UNLOADING entry itself, so that notch 1 with its dwell time elapsed is no exception, is
the model's reading of R129 against R130's words (log 11). -/
def Obligations.ProtectiveInputsJoinTheConditions : Prop :=
  ∀ (s : State) (k : Fin 12),
    let i := s.mon.inputs[k]
    let e := s.mon.routing[k]
    let active := i.closed != e.activeOpen
    let code := k.val + 1
    let r := s.withInput k { i with active := active, stability := .expired }
    let m : Member := ⟨code, e.cls, e.latch, true, 0⟩
    (i.stability.isRunning = true →
      (active = i.active →
          ∃ t, exec (.protectiveInputQualification code) s = .next t ∧ t = r)
      ∧ (active = true → i.active = false → hasCode s.mon.conditions code = false →
          ∃ t, exec (.protectiveInputQualification code) s = .next t
            ∧ (e.cls = .alarm ∨ e.cls = .unload → Joined m s t
                ∧ t = { r with
                    mon := { r.mon with conditions := t.mon.conditions }, out := t.out
                    link := { s.link with statusMarked := t.link.statusMarked }
                    alloc := (s.withTriggerIf (e.cls == .unload)).alloc })
            ∧ (e.cls = .derate → Joined m s t
                ∧ t = { r with
                    mon := { r.mon with
                      conditions := t.mon.conditions, derate := t.mon.derate
                      capacity := t.mon.capacity }
                    out := t.out, link := { s.link with statusMarked := t.link.statusMarked }
                    alloc := { s.alloc with reEvaluate := t.alloc.reEvaluate } }
                ∧ (s.loaded = true → t.mon.derate = t.derateFactor ∧ t.mon.derate ≤ e.derate
                    ∧ t.mon.capacity = s.params.ratedPower * t.mon.derate / 256))
            ∧ (e.cls = .shutdown → s.seq.state.active = true → ConditionLaw s →
                Stopped s.seq.state (s.stopLatched || e.latch) r t ∧ TransitionFrame [code] r t
                  ∧ (e.startMask = false → m ∈ t.mon.conditions ∧ t.out.alarm = true))
            ∧ (e.cls = .stop → s.seq.state = .online → s.stepper.notch ≠ 0 →
                s.params.dwellDown ≠ 0 → s.cab.estop.qualified = false →
                (∀ x ∈ s.mon.conditions, x.cls ≠ .shutdown) →
                Entered .unloading r t ∧ TransitionFrame [code] r t ∧ ClaimKept r t
                  ∧ RecordsKept { r with seq := { s.seq with stopReason := .condition } } t
                  ∧ m ∈ t.mon.conditions ∧ t.out.alarm = true)
            ∧ (e.cls = .stop ∨ e.cls = .inhibitStart →
                s.seq.state = .prelube ∨ s.seq.state = .claimWait ∨ s.seq.state = .claimSettle →
                Entered (if s.cab.isolate.qualified then .isolated else .stopped) r t
                  ∧ TransitionFrame [code] r t ∧ t.seq.attempts = 0))
      ∧ (active = false → i.active = true →
          (∀ x ∈ s.mon.conditions, x.code = code → x.latched = true) →
          ∃ t, exec (.protectiveInputQualification code) s = .next t
            ∧ t = { r with mon := { r.mon with
                conditions := s.mon.conditions.map fun x =>
                  if x.code = code then { x with cause := false } else x } })
      ∧ (active = false → i.active = true → hasCode s.mon.conditions code = true →
          (∀ x ∈ s.mon.conditions, x.code = code → x.latched = false ∧ x.cls = .alarm) →
          ∃ t, exec (.protectiveInputQualification code) s = .next t
            ∧ t = { r with
                mon := { r.mon with
                  conditions := s.mon.conditions.filter fun x => x.code != code }
                out := { s.out with alarm := !t.mon.conditions.isEmpty }
                link := { s.link with statusMarked := t.link.statusMarked } }))
    ∧ ∀ levels : Vector Bool 12,
        ((∀ j : Fin 12, s.inputMasked j ∨ s.mon.routing[j].qualifyTime ≠ 0) →
            ∃ t, exec (.protectiveInputSample levels) s = .next t
              ∧ t = { s with mon := { s.mon with inputs := t.mon.inputs } }
              ∧ ∀ j : Fin 12, InputSampled s t j levels[j])
          ∧ ((∀ j : Fin 12, j ≠ k → s.inputMasked j ∨ s.mon.routing[j].qualifyTime ≠ 0) →
              ¬ s.inputMasked k → e.qualifyTime = 0 → e.cls = .alarm →
              (levels[k] != e.activeOpen) = true → i.active = false →
              hasCode s.mon.conditions code = false →
              ∃ t, exec (.protectiveInputSample levels) s = .next t ∧ Joined m s t
                ∧ t.mon.inputs[k].active = true ∧ t.mon.inputs[k].closed = levels[k]
                ∧ t.seq = s.seq ∧ t.ret = s.ret ∧ t.stepper = s.stepper)

/-- R168 to R171: a sample restarts the stability timers (20 ms) of the feedbacks whose level changed; a qualified feedback that matches
the command gives AGREE and reports a standing mismatch gone, one that does not sends AGREE to PROVING for 300 ms; the end of the
proving time gives DISAGREE, and the mismatch code joins: the ALARM ones leave the engine (CRANK_OPEN outside CRANKING; inside, it fails
the crank attempt, which is a statement of its own), CRANK_WELDED stops it, FUEL_OPEN unloads an ONLINE one that has a notch to shed.
That no step is taken at the UNLOADING entry itself, so that notch 1 with its dwell time elapsed is no exception, is the model's reading
of R129 against R130's words (log 11). -/
def Obligations.FeedbackProvesTheOutputs : Prop :=
  ∀ (s : State) (o : ProvedOutput) (crank fuel prelube : Bool),
    let p := s.out.proving o
    let q := p.feedback
    let command := s.command o
    let settled : State := { s with out := (s.out.setProving o { p with feedback := q.nowQualified }) }
    let code := codeOfMismatch o command
    (∃ t, exec (.feedbackSample crank fuel prelube) s = .next t
      ∧ t = { s with out := { s.out with
          crankProving := { s.out.crankProving with feedback := t.out.crankProving.feedback }
          fuelProving := { s.out.fuelProving with feedback := t.out.fuelProving.feedback }
          prelubeProving := { s.out.prelubeProving with feedback := t.out.prelubeProving.feedback } } }
      ∧ Sampled 20 crank s.out.crankProving.feedback t.out.crankProving.feedback
      ∧ Sampled 20 fuel s.out.fuelProving.feedback t.out.fuelProving.feedback
      ∧ Sampled 20 prelube s.out.prelubeProving.feedback t.out.prelubeProving.feedback)
    ∧ (q.stability.isRunning = true →
        (q.qualifiedYet = true → q.sampled = q.qualified →
            ∃ t, exec (.feedbackQualification o) s = .next t
              ∧ t = { s with out :=
                  (s.out.setProving o { p with feedback := { q with stability := .expired } }) })
        ∧ (q.qualifiedYet = false ∨ q.sampled ≠ q.qualified →
            (q.sampled = command → p.proof ≠ .disagree →
                ∃ t, exec (.feedbackQualification o) s = .next t
                  ∧ t = { s with out := (s.out.setProving o ⟨q.nowQualified, .agree, .stopped⟩) })
            ∧ (q.sampled = command → p.proof = .disagree →
                ∃ t, exec (.feedbackQualification o) s = .next t
                  ∧ t.out.proving o = ⟨q.nowQualified, .agree, .stopped⟩
                  ∧ ConditionsBut [code] s t
                  ∧ (∀ m ∈ t.mon.conditions, m.code = code →
                      ∃ x ∈ s.mon.conditions, x.code = code ∧ m = { x with cause := false })
                  ∧ ((∀ m ∈ s.mon.conditions, m.code = code → m.latched = false) →
                      hasCode t.mon.conditions code = false)
                  ∧ t.seq = s.seq ∧ t.ret = s.ret ∧ t.stepper = s.stepper)
            ∧ (q.sampled ≠ command → p.proof = .agree →
                ∃ t, exec (.feedbackQualification o) s = .next t
                  ∧ t = { s with out := (s.out.setProving o ⟨q.nowQualified, .proving, .running 300⟩) })
            ∧ (q.sampled ≠ command → p.proof ≠ .agree →
                ∃ t, exec (.feedbackQualification o) s = .next t ∧ t = settled)))
    ∧ (p.timer.isRunning = true → hasCode s.mon.conditions code = false →
        let r : State := { s with
          out := (s.out.setProving o { p with proof := .disagree, timer := .expired }) }
        ∃ t, exec (.provingTimerExpiry o) s = .next t
          ∧ (code = 31 ∨ code = 32 ∨ code = 28 ∧ s.seq.state ≠ .cranking →
              Joined ⟨code, .alarm, decide (code = 31), true, 0⟩ r t
                ∧ t = { r with
                    mon := { s.mon with conditions := t.mon.conditions }, out := t.out
                    link := { s.link with statusMarked := t.link.statusMarked } })
          ∧ (code = 29 → s.seq.state.active = true →
              Stopped s.seq.state true r t ∧ TransitionFrame [29] r t
                ∧ (s.seq.state ≠ .cranking →
                    ⟨29, .shutdown, true, true, 0⟩ ∈ t.mon.conditions))
          ∧ (code = 30 → s.seq.state = .online → s.stepper.notch ≠ 0 → s.params.dwellDown ≠ 0 →
              s.cab.estop.qualified = false → (∀ m ∈ s.mon.conditions, m.cls ≠ .shutdown) →
              t.seq.state = .unloading ∧ t.seq.stopReason = .condition
                ∧ t.standingCommands = ⟨false, true, false, false⟩
                ∧ ⟨30, .stop, true, true, 0⟩ ∈ t.mon.conditions ∧ TransitionFrame [30] r t))
end

