-- ==== Sys2Proof/Laws/State.lean ====
section
/-! SUPPORT. Laws/State.lean: one lemma per block per replacement of a block, true by unfolding, so that no proof unfolds a
record update. -/

namespace Sys2Proof.Machine

@[simp] theorem setSeq_seq (s : State) (x : Sequencer) : (s.setSeq x).seq = x := rfl
@[simp] theorem setSeq_cab (s : State) (x : Sequencer) : (s.setSeq x).cab = s.cab := rfl
@[simp] theorem setSeq_link (s : State) (x : Sequencer) : (s.setSeq x).link = s.link := rfl
@[simp] theorem setSeq_view (s : State) (x : Sequencer) : (s.setSeq x).view = s.view := rfl
@[simp] theorem setSeq_alloc (s : State) (x : Sequencer) : (s.setSeq x).alloc = s.alloc := rfl
@[simp] theorem setSeq_claim (s : State) (x : Sequencer) : (s.setSeq x).claim = s.claim := rfl
@[simp] theorem setSeq_stepper (s : State) (x : Sequencer) : (s.setSeq x).stepper = s.stepper := rfl
@[simp] theorem setSeq_port (s : State) (x : Sequencer) : (s.setSeq x).port = s.port := rfl
@[simp] theorem setSeq_mon (s : State) (x : Sequencer) : (s.setSeq x).mon = s.mon := rfl
@[simp] theorem setSeq_out (s : State) (x : Sequencer) : (s.setSeq x).out = s.out := rfl
@[simp] theorem setSeq_ret (s : State) (x : Sequencer) : (s.setSeq x).ret = s.ret := rfl
@[simp] theorem setSeq_load (s : State) (x : Sequencer) : (s.setSeq x).load = s.load := rfl
@[simp] theorem setSeq_params (s : State) (x : Sequencer) : (s.setSeq x).params = s.params := rfl
@[simp] theorem setSeq_mailbox (s : State) (x : Sequencer) : (s.setSeq x).mailbox = s.mailbox := rfl
@[simp] theorem setSeq_pending (s : State) (x : Sequencer) : (s.setSeq x).pending = s.pending := rfl
@[simp] theorem setSeq_self (s : State) : s.setSeq s.seq = s := rfl
@[simp] theorem setSeq_setSeq (s : State) (x y : Sequencer) : (s.setSeq x).setSeq y = s.setSeq y := rfl

@[simp] theorem setCab_seq (s : State) (x : CabUnit) : (s.setCab x).seq = s.seq := rfl
@[simp] theorem setCab_cab (s : State) (x : CabUnit) : (s.setCab x).cab = x := rfl
@[simp] theorem setCab_link (s : State) (x : CabUnit) : (s.setCab x).link = s.link := rfl
@[simp] theorem setCab_view (s : State) (x : CabUnit) : (s.setCab x).view = s.view := rfl
@[simp] theorem setCab_alloc (s : State) (x : CabUnit) : (s.setCab x).alloc = s.alloc := rfl
@[simp] theorem setCab_claim (s : State) (x : CabUnit) : (s.setCab x).claim = s.claim := rfl
@[simp] theorem setCab_stepper (s : State) (x : CabUnit) : (s.setCab x).stepper = s.stepper := rfl
@[simp] theorem setCab_port (s : State) (x : CabUnit) : (s.setCab x).port = s.port := rfl
@[simp] theorem setCab_mon (s : State) (x : CabUnit) : (s.setCab x).mon = s.mon := rfl
@[simp] theorem setCab_out (s : State) (x : CabUnit) : (s.setCab x).out = s.out := rfl
@[simp] theorem setCab_ret (s : State) (x : CabUnit) : (s.setCab x).ret = s.ret := rfl
@[simp] theorem setCab_load (s : State) (x : CabUnit) : (s.setCab x).load = s.load := rfl
@[simp] theorem setCab_params (s : State) (x : CabUnit) : (s.setCab x).params = s.params := rfl
@[simp] theorem setCab_mailbox (s : State) (x : CabUnit) : (s.setCab x).mailbox = s.mailbox := rfl
@[simp] theorem setCab_pending (s : State) (x : CabUnit) : (s.setCab x).pending = s.pending := rfl
@[simp] theorem setCab_self (s : State) : s.setCab s.cab = s := rfl
@[simp] theorem setCab_setCab (s : State) (x y : CabUnit) : (s.setCab x).setCab y = s.setCab y := rfl

@[simp] theorem setLink_seq (s : State) (x : LinkUnit) : (s.setLink x).seq = s.seq := rfl
@[simp] theorem setLink_cab (s : State) (x : LinkUnit) : (s.setLink x).cab = s.cab := rfl
@[simp] theorem setLink_link (s : State) (x : LinkUnit) : (s.setLink x).link = x := rfl
@[simp] theorem setLink_view (s : State) (x : LinkUnit) : (s.setLink x).view = s.view := rfl
@[simp] theorem setLink_alloc (s : State) (x : LinkUnit) : (s.setLink x).alloc = s.alloc := rfl
@[simp] theorem setLink_claim (s : State) (x : LinkUnit) : (s.setLink x).claim = s.claim := rfl
@[simp] theorem setLink_stepper (s : State) (x : LinkUnit) : (s.setLink x).stepper = s.stepper := rfl
@[simp] theorem setLink_port (s : State) (x : LinkUnit) : (s.setLink x).port = s.port := rfl
@[simp] theorem setLink_mon (s : State) (x : LinkUnit) : (s.setLink x).mon = s.mon := rfl
@[simp] theorem setLink_out (s : State) (x : LinkUnit) : (s.setLink x).out = s.out := rfl
@[simp] theorem setLink_ret (s : State) (x : LinkUnit) : (s.setLink x).ret = s.ret := rfl
@[simp] theorem setLink_load (s : State) (x : LinkUnit) : (s.setLink x).load = s.load := rfl
@[simp] theorem setLink_params (s : State) (x : LinkUnit) : (s.setLink x).params = s.params := rfl
@[simp] theorem setLink_mailbox (s : State) (x : LinkUnit) : (s.setLink x).mailbox = s.mailbox := rfl
@[simp] theorem setLink_pending (s : State) (x : LinkUnit) : (s.setLink x).pending = s.pending := rfl
@[simp] theorem setLink_self (s : State) : s.setLink s.link = s := rfl
@[simp] theorem setLink_setLink (s : State) (x y : LinkUnit) : (s.setLink x).setLink y = s.setLink y := rfl

@[simp] theorem setView_seq (s : State) (x : ConsistView) : (s.setView x).seq = s.seq := rfl
@[simp] theorem setView_cab (s : State) (x : ConsistView) : (s.setView x).cab = s.cab := rfl
@[simp] theorem setView_link (s : State) (x : ConsistView) : (s.setView x).link = s.link := rfl
@[simp] theorem setView_view (s : State) (x : ConsistView) : (s.setView x).view = x := rfl
@[simp] theorem setView_alloc (s : State) (x : ConsistView) : (s.setView x).alloc = s.alloc := rfl
@[simp] theorem setView_claim (s : State) (x : ConsistView) : (s.setView x).claim = s.claim := rfl
@[simp] theorem setView_stepper (s : State) (x : ConsistView) : (s.setView x).stepper = s.stepper := rfl
@[simp] theorem setView_port (s : State) (x : ConsistView) : (s.setView x).port = s.port := rfl
@[simp] theorem setView_mon (s : State) (x : ConsistView) : (s.setView x).mon = s.mon := rfl
@[simp] theorem setView_out (s : State) (x : ConsistView) : (s.setView x).out = s.out := rfl
@[simp] theorem setView_ret (s : State) (x : ConsistView) : (s.setView x).ret = s.ret := rfl
@[simp] theorem setView_load (s : State) (x : ConsistView) : (s.setView x).load = s.load := rfl
@[simp] theorem setView_params (s : State) (x : ConsistView) : (s.setView x).params = s.params := rfl
@[simp] theorem setView_mailbox (s : State) (x : ConsistView) : (s.setView x).mailbox = s.mailbox := rfl
@[simp] theorem setView_pending (s : State) (x : ConsistView) : (s.setView x).pending = s.pending := rfl
@[simp] theorem setView_self (s : State) : s.setView s.view = s := rfl
@[simp] theorem setView_setView (s : State) (x y : ConsistView) : (s.setView x).setView y = s.setView y := rfl

@[simp] theorem setAlloc_seq (s : State) (x : Allocator) : (s.setAlloc x).seq = s.seq := rfl
@[simp] theorem setAlloc_cab (s : State) (x : Allocator) : (s.setAlloc x).cab = s.cab := rfl
@[simp] theorem setAlloc_link (s : State) (x : Allocator) : (s.setAlloc x).link = s.link := rfl
@[simp] theorem setAlloc_view (s : State) (x : Allocator) : (s.setAlloc x).view = s.view := rfl
@[simp] theorem setAlloc_alloc (s : State) (x : Allocator) : (s.setAlloc x).alloc = x := rfl
@[simp] theorem setAlloc_claim (s : State) (x : Allocator) : (s.setAlloc x).claim = s.claim := rfl
@[simp] theorem setAlloc_stepper (s : State) (x : Allocator) : (s.setAlloc x).stepper = s.stepper := rfl
@[simp] theorem setAlloc_port (s : State) (x : Allocator) : (s.setAlloc x).port = s.port := rfl
@[simp] theorem setAlloc_mon (s : State) (x : Allocator) : (s.setAlloc x).mon = s.mon := rfl
@[simp] theorem setAlloc_out (s : State) (x : Allocator) : (s.setAlloc x).out = s.out := rfl
@[simp] theorem setAlloc_ret (s : State) (x : Allocator) : (s.setAlloc x).ret = s.ret := rfl
@[simp] theorem setAlloc_load (s : State) (x : Allocator) : (s.setAlloc x).load = s.load := rfl
@[simp] theorem setAlloc_params (s : State) (x : Allocator) : (s.setAlloc x).params = s.params := rfl
@[simp] theorem setAlloc_mailbox (s : State) (x : Allocator) : (s.setAlloc x).mailbox = s.mailbox := rfl
@[simp] theorem setAlloc_pending (s : State) (x : Allocator) : (s.setAlloc x).pending = s.pending := rfl
@[simp] theorem setAlloc_self (s : State) : s.setAlloc s.alloc = s := rfl
@[simp] theorem setAlloc_setAlloc (s : State) (x y : Allocator) : (s.setAlloc x).setAlloc y = s.setAlloc y := rfl

@[simp] theorem setClaim_seq (s : State) (x : ClaimUnit) : (s.setClaim x).seq = s.seq := rfl
@[simp] theorem setClaim_cab (s : State) (x : ClaimUnit) : (s.setClaim x).cab = s.cab := rfl
@[simp] theorem setClaim_link (s : State) (x : ClaimUnit) : (s.setClaim x).link = s.link := rfl
@[simp] theorem setClaim_view (s : State) (x : ClaimUnit) : (s.setClaim x).view = s.view := rfl
@[simp] theorem setClaim_alloc (s : State) (x : ClaimUnit) : (s.setClaim x).alloc = s.alloc := rfl
@[simp] theorem setClaim_claim (s : State) (x : ClaimUnit) : (s.setClaim x).claim = x := rfl
@[simp] theorem setClaim_stepper (s : State) (x : ClaimUnit) : (s.setClaim x).stepper = s.stepper := rfl
@[simp] theorem setClaim_port (s : State) (x : ClaimUnit) : (s.setClaim x).port = s.port := rfl
@[simp] theorem setClaim_mon (s : State) (x : ClaimUnit) : (s.setClaim x).mon = s.mon := rfl
@[simp] theorem setClaim_out (s : State) (x : ClaimUnit) : (s.setClaim x).out = s.out := rfl
@[simp] theorem setClaim_ret (s : State) (x : ClaimUnit) : (s.setClaim x).ret = s.ret := rfl
@[simp] theorem setClaim_load (s : State) (x : ClaimUnit) : (s.setClaim x).load = s.load := rfl
@[simp] theorem setClaim_params (s : State) (x : ClaimUnit) : (s.setClaim x).params = s.params := rfl
@[simp] theorem setClaim_mailbox (s : State) (x : ClaimUnit) : (s.setClaim x).mailbox = s.mailbox := rfl
@[simp] theorem setClaim_pending (s : State) (x : ClaimUnit) : (s.setClaim x).pending = s.pending := rfl
@[simp] theorem setClaim_self (s : State) : s.setClaim s.claim = s := rfl
@[simp] theorem setClaim_setClaim (s : State) (x y : ClaimUnit) : (s.setClaim x).setClaim y = s.setClaim y := rfl

@[simp] theorem setStepper_seq (s : State) (x : Stepper) : (s.setStepper x).seq = s.seq := rfl
@[simp] theorem setStepper_cab (s : State) (x : Stepper) : (s.setStepper x).cab = s.cab := rfl
@[simp] theorem setStepper_link (s : State) (x : Stepper) : (s.setStepper x).link = s.link := rfl
@[simp] theorem setStepper_view (s : State) (x : Stepper) : (s.setStepper x).view = s.view := rfl
@[simp] theorem setStepper_alloc (s : State) (x : Stepper) : (s.setStepper x).alloc = s.alloc := rfl
@[simp] theorem setStepper_claim (s : State) (x : Stepper) : (s.setStepper x).claim = s.claim := rfl
@[simp] theorem setStepper_stepper (s : State) (x : Stepper) : (s.setStepper x).stepper = x := rfl
@[simp] theorem setStepper_port (s : State) (x : Stepper) : (s.setStepper x).port = s.port := rfl
@[simp] theorem setStepper_mon (s : State) (x : Stepper) : (s.setStepper x).mon = s.mon := rfl
@[simp] theorem setStepper_out (s : State) (x : Stepper) : (s.setStepper x).out = s.out := rfl
@[simp] theorem setStepper_ret (s : State) (x : Stepper) : (s.setStepper x).ret = s.ret := rfl
@[simp] theorem setStepper_load (s : State) (x : Stepper) : (s.setStepper x).load = s.load := rfl
@[simp] theorem setStepper_params (s : State) (x : Stepper) : (s.setStepper x).params = s.params := rfl
@[simp] theorem setStepper_mailbox (s : State) (x : Stepper) : (s.setStepper x).mailbox = s.mailbox := rfl
@[simp] theorem setStepper_pending (s : State) (x : Stepper) : (s.setStepper x).pending = s.pending := rfl
@[simp] theorem setStepper_self (s : State) : s.setStepper s.stepper = s := rfl
@[simp] theorem setStepper_setStepper (s : State) (x y : Stepper) : (s.setStepper x).setStepper y = s.setStepper y := rfl

@[simp] theorem setPort_seq (s : State) (x : Port) : (s.setPort x).seq = s.seq := rfl
@[simp] theorem setPort_cab (s : State) (x : Port) : (s.setPort x).cab = s.cab := rfl
@[simp] theorem setPort_link (s : State) (x : Port) : (s.setPort x).link = s.link := rfl
@[simp] theorem setPort_view (s : State) (x : Port) : (s.setPort x).view = s.view := rfl
@[simp] theorem setPort_alloc (s : State) (x : Port) : (s.setPort x).alloc = s.alloc := rfl
@[simp] theorem setPort_claim (s : State) (x : Port) : (s.setPort x).claim = s.claim := rfl
@[simp] theorem setPort_stepper (s : State) (x : Port) : (s.setPort x).stepper = s.stepper := rfl
@[simp] theorem setPort_port (s : State) (x : Port) : (s.setPort x).port = x := rfl
@[simp] theorem setPort_mon (s : State) (x : Port) : (s.setPort x).mon = s.mon := rfl
@[simp] theorem setPort_out (s : State) (x : Port) : (s.setPort x).out = s.out := rfl
@[simp] theorem setPort_ret (s : State) (x : Port) : (s.setPort x).ret = s.ret := rfl
@[simp] theorem setPort_load (s : State) (x : Port) : (s.setPort x).load = s.load := rfl
@[simp] theorem setPort_params (s : State) (x : Port) : (s.setPort x).params = s.params := rfl
@[simp] theorem setPort_mailbox (s : State) (x : Port) : (s.setPort x).mailbox = s.mailbox := rfl
@[simp] theorem setPort_pending (s : State) (x : Port) : (s.setPort x).pending = s.pending := rfl
@[simp] theorem setPort_self (s : State) : s.setPort s.port = s := rfl
@[simp] theorem setPort_setPort (s : State) (x y : Port) : (s.setPort x).setPort y = s.setPort y := rfl

@[simp] theorem setMon_seq (s : State) (x : Monitor) : (s.setMon x).seq = s.seq := rfl
@[simp] theorem setMon_cab (s : State) (x : Monitor) : (s.setMon x).cab = s.cab := rfl
@[simp] theorem setMon_link (s : State) (x : Monitor) : (s.setMon x).link = s.link := rfl
@[simp] theorem setMon_view (s : State) (x : Monitor) : (s.setMon x).view = s.view := rfl
@[simp] theorem setMon_alloc (s : State) (x : Monitor) : (s.setMon x).alloc = s.alloc := rfl
@[simp] theorem setMon_claim (s : State) (x : Monitor) : (s.setMon x).claim = s.claim := rfl
@[simp] theorem setMon_stepper (s : State) (x : Monitor) : (s.setMon x).stepper = s.stepper := rfl
@[simp] theorem setMon_port (s : State) (x : Monitor) : (s.setMon x).port = s.port := rfl
@[simp] theorem setMon_mon (s : State) (x : Monitor) : (s.setMon x).mon = x := rfl
@[simp] theorem setMon_out (s : State) (x : Monitor) : (s.setMon x).out = s.out := rfl
@[simp] theorem setMon_ret (s : State) (x : Monitor) : (s.setMon x).ret = s.ret := rfl
@[simp] theorem setMon_load (s : State) (x : Monitor) : (s.setMon x).load = s.load := rfl
@[simp] theorem setMon_params (s : State) (x : Monitor) : (s.setMon x).params = s.params := rfl
@[simp] theorem setMon_mailbox (s : State) (x : Monitor) : (s.setMon x).mailbox = s.mailbox := rfl
@[simp] theorem setMon_pending (s : State) (x : Monitor) : (s.setMon x).pending = s.pending := rfl
@[simp] theorem setMon_self (s : State) : s.setMon s.mon = s := rfl
@[simp] theorem setMon_setMon (s : State) (x y : Monitor) : (s.setMon x).setMon y = s.setMon y := rfl

@[simp] theorem setOut_seq (s : State) (x : OutputStage) : (s.setOut x).seq = s.seq := rfl
@[simp] theorem setOut_cab (s : State) (x : OutputStage) : (s.setOut x).cab = s.cab := rfl
@[simp] theorem setOut_link (s : State) (x : OutputStage) : (s.setOut x).link = s.link := rfl
@[simp] theorem setOut_view (s : State) (x : OutputStage) : (s.setOut x).view = s.view := rfl
@[simp] theorem setOut_alloc (s : State) (x : OutputStage) : (s.setOut x).alloc = s.alloc := rfl
@[simp] theorem setOut_claim (s : State) (x : OutputStage) : (s.setOut x).claim = s.claim := rfl
@[simp] theorem setOut_stepper (s : State) (x : OutputStage) : (s.setOut x).stepper = s.stepper := rfl
@[simp] theorem setOut_port (s : State) (x : OutputStage) : (s.setOut x).port = s.port := rfl
@[simp] theorem setOut_mon (s : State) (x : OutputStage) : (s.setOut x).mon = s.mon := rfl
@[simp] theorem setOut_out (s : State) (x : OutputStage) : (s.setOut x).out = x := rfl
@[simp] theorem setOut_ret (s : State) (x : OutputStage) : (s.setOut x).ret = s.ret := rfl
@[simp] theorem setOut_load (s : State) (x : OutputStage) : (s.setOut x).load = s.load := rfl
@[simp] theorem setOut_params (s : State) (x : OutputStage) : (s.setOut x).params = s.params := rfl
@[simp] theorem setOut_mailbox (s : State) (x : OutputStage) : (s.setOut x).mailbox = s.mailbox := rfl
@[simp] theorem setOut_pending (s : State) (x : OutputStage) : (s.setOut x).pending = s.pending := rfl
@[simp] theorem setOut_self (s : State) : s.setOut s.out = s := rfl
@[simp] theorem setOut_setOut (s : State) (x y : OutputStage) : (s.setOut x).setOut y = s.setOut y := rfl

@[simp] theorem setRet_seq (s : State) (x : RetainedStore) : (s.setRet x).seq = s.seq := rfl
@[simp] theorem setRet_cab (s : State) (x : RetainedStore) : (s.setRet x).cab = s.cab := rfl
@[simp] theorem setRet_link (s : State) (x : RetainedStore) : (s.setRet x).link = s.link := rfl
@[simp] theorem setRet_view (s : State) (x : RetainedStore) : (s.setRet x).view = s.view := rfl
@[simp] theorem setRet_alloc (s : State) (x : RetainedStore) : (s.setRet x).alloc = s.alloc := rfl
@[simp] theorem setRet_claim (s : State) (x : RetainedStore) : (s.setRet x).claim = s.claim := rfl
@[simp] theorem setRet_stepper (s : State) (x : RetainedStore) : (s.setRet x).stepper = s.stepper := rfl
@[simp] theorem setRet_port (s : State) (x : RetainedStore) : (s.setRet x).port = s.port := rfl
@[simp] theorem setRet_mon (s : State) (x : RetainedStore) : (s.setRet x).mon = s.mon := rfl
@[simp] theorem setRet_out (s : State) (x : RetainedStore) : (s.setRet x).out = s.out := rfl
@[simp] theorem setRet_ret (s : State) (x : RetainedStore) : (s.setRet x).ret = x := rfl
@[simp] theorem setRet_load (s : State) (x : RetainedStore) : (s.setRet x).load = s.load := rfl
@[simp] theorem setRet_params (s : State) (x : RetainedStore) : (s.setRet x).params = s.params := rfl
@[simp] theorem setRet_mailbox (s : State) (x : RetainedStore) : (s.setRet x).mailbox = s.mailbox := rfl
@[simp] theorem setRet_pending (s : State) (x : RetainedStore) : (s.setRet x).pending = s.pending := rfl
@[simp] theorem setRet_self (s : State) : s.setRet s.ret = s := rfl
@[simp] theorem setRet_setRet (s : State) (x y : RetainedStore) : (s.setRet x).setRet y = s.setRet y := rfl

@[simp] theorem setLoad_seq (s : State) (x : Loader) : (s.setLoad x).seq = s.seq := rfl
@[simp] theorem setLoad_cab (s : State) (x : Loader) : (s.setLoad x).cab = s.cab := rfl
@[simp] theorem setLoad_link (s : State) (x : Loader) : (s.setLoad x).link = s.link := rfl
@[simp] theorem setLoad_view (s : State) (x : Loader) : (s.setLoad x).view = s.view := rfl
@[simp] theorem setLoad_alloc (s : State) (x : Loader) : (s.setLoad x).alloc = s.alloc := rfl
@[simp] theorem setLoad_claim (s : State) (x : Loader) : (s.setLoad x).claim = s.claim := rfl
@[simp] theorem setLoad_stepper (s : State) (x : Loader) : (s.setLoad x).stepper = s.stepper := rfl
@[simp] theorem setLoad_port (s : State) (x : Loader) : (s.setLoad x).port = s.port := rfl
@[simp] theorem setLoad_mon (s : State) (x : Loader) : (s.setLoad x).mon = s.mon := rfl
@[simp] theorem setLoad_out (s : State) (x : Loader) : (s.setLoad x).out = s.out := rfl
@[simp] theorem setLoad_ret (s : State) (x : Loader) : (s.setLoad x).ret = s.ret := rfl
@[simp] theorem setLoad_load (s : State) (x : Loader) : (s.setLoad x).load = x := rfl
@[simp] theorem setLoad_params (s : State) (x : Loader) : (s.setLoad x).params = s.params := rfl
@[simp] theorem setLoad_mailbox (s : State) (x : Loader) : (s.setLoad x).mailbox = s.mailbox := rfl
@[simp] theorem setLoad_pending (s : State) (x : Loader) : (s.setLoad x).pending = s.pending := rfl
@[simp] theorem setLoad_self (s : State) : s.setLoad s.load = s := rfl
@[simp] theorem setLoad_setLoad (s : State) (x y : Loader) : (s.setLoad x).setLoad y = s.setLoad y := rfl

@[simp] theorem setParams_seq (s : State) (x : Params) : (s.setParams x).seq = s.seq := rfl
@[simp] theorem setParams_cab (s : State) (x : Params) : (s.setParams x).cab = s.cab := rfl
@[simp] theorem setParams_link (s : State) (x : Params) : (s.setParams x).link = s.link := rfl
@[simp] theorem setParams_view (s : State) (x : Params) : (s.setParams x).view = s.view := rfl
@[simp] theorem setParams_alloc (s : State) (x : Params) : (s.setParams x).alloc = s.alloc := rfl
@[simp] theorem setParams_claim (s : State) (x : Params) : (s.setParams x).claim = s.claim := rfl
@[simp] theorem setParams_stepper (s : State) (x : Params) : (s.setParams x).stepper = s.stepper := rfl
@[simp] theorem setParams_port (s : State) (x : Params) : (s.setParams x).port = s.port := rfl
@[simp] theorem setParams_mon (s : State) (x : Params) : (s.setParams x).mon = s.mon := rfl
@[simp] theorem setParams_out (s : State) (x : Params) : (s.setParams x).out = s.out := rfl
@[simp] theorem setParams_ret (s : State) (x : Params) : (s.setParams x).ret = s.ret := rfl
@[simp] theorem setParams_load (s : State) (x : Params) : (s.setParams x).load = s.load := rfl
@[simp] theorem setParams_params (s : State) (x : Params) : (s.setParams x).params = x := rfl
@[simp] theorem setParams_mailbox (s : State) (x : Params) : (s.setParams x).mailbox = s.mailbox := rfl
@[simp] theorem setParams_pending (s : State) (x : Params) : (s.setParams x).pending = s.pending := rfl
@[simp] theorem setParams_self (s : State) : s.setParams s.params = s := rfl
@[simp] theorem setParams_setParams (s : State) (x y : Params) : (s.setParams x).setParams y = s.setParams y := rfl

@[simp] theorem setMailbox_seq (s : State) (x : Option Request) : (s.setMailbox x).seq = s.seq := rfl
@[simp] theorem setMailbox_cab (s : State) (x : Option Request) : (s.setMailbox x).cab = s.cab := rfl
@[simp] theorem setMailbox_link (s : State) (x : Option Request) : (s.setMailbox x).link = s.link := rfl
@[simp] theorem setMailbox_view (s : State) (x : Option Request) : (s.setMailbox x).view = s.view := rfl
@[simp] theorem setMailbox_alloc (s : State) (x : Option Request) : (s.setMailbox x).alloc = s.alloc := rfl
@[simp] theorem setMailbox_claim (s : State) (x : Option Request) : (s.setMailbox x).claim = s.claim := rfl
@[simp] theorem setMailbox_stepper (s : State) (x : Option Request) : (s.setMailbox x).stepper = s.stepper := rfl
@[simp] theorem setMailbox_port (s : State) (x : Option Request) : (s.setMailbox x).port = s.port := rfl
@[simp] theorem setMailbox_mon (s : State) (x : Option Request) : (s.setMailbox x).mon = s.mon := rfl
@[simp] theorem setMailbox_out (s : State) (x : Option Request) : (s.setMailbox x).out = s.out := rfl
@[simp] theorem setMailbox_ret (s : State) (x : Option Request) : (s.setMailbox x).ret = s.ret := rfl
@[simp] theorem setMailbox_load (s : State) (x : Option Request) : (s.setMailbox x).load = s.load := rfl
@[simp] theorem setMailbox_params (s : State) (x : Option Request) : (s.setMailbox x).params = s.params := rfl
@[simp] theorem setMailbox_mailbox (s : State) (x : Option Request) : (s.setMailbox x).mailbox = x := rfl
@[simp] theorem setMailbox_pending (s : State) (x : Option Request) : (s.setMailbox x).pending = s.pending := rfl
@[simp] theorem setMailbox_self (s : State) : s.setMailbox s.mailbox = s := rfl
@[simp] theorem setMailbox_setMailbox (s : State) (x y : Option Request) : (s.setMailbox x).setMailbox y = s.setMailbox y := rfl

@[simp] theorem setPending_seq (s : State) (x : List Instr) : (s.setPending x).seq = s.seq := rfl
@[simp] theorem setPending_cab (s : State) (x : List Instr) : (s.setPending x).cab = s.cab := rfl
@[simp] theorem setPending_link (s : State) (x : List Instr) : (s.setPending x).link = s.link := rfl
@[simp] theorem setPending_view (s : State) (x : List Instr) : (s.setPending x).view = s.view := rfl
@[simp] theorem setPending_alloc (s : State) (x : List Instr) : (s.setPending x).alloc = s.alloc := rfl
@[simp] theorem setPending_claim (s : State) (x : List Instr) : (s.setPending x).claim = s.claim := rfl
@[simp] theorem setPending_stepper (s : State) (x : List Instr) : (s.setPending x).stepper = s.stepper := rfl
@[simp] theorem setPending_port (s : State) (x : List Instr) : (s.setPending x).port = s.port := rfl
@[simp] theorem setPending_mon (s : State) (x : List Instr) : (s.setPending x).mon = s.mon := rfl
@[simp] theorem setPending_out (s : State) (x : List Instr) : (s.setPending x).out = s.out := rfl
@[simp] theorem setPending_ret (s : State) (x : List Instr) : (s.setPending x).ret = s.ret := rfl
@[simp] theorem setPending_load (s : State) (x : List Instr) : (s.setPending x).load = s.load := rfl
@[simp] theorem setPending_params (s : State) (x : List Instr) : (s.setPending x).params = s.params := rfl
@[simp] theorem setPending_mailbox (s : State) (x : List Instr) : (s.setPending x).mailbox = s.mailbox := rfl
@[simp] theorem setPending_pending (s : State) (x : List Instr) : (s.setPending x).pending = x := rfl
@[simp] theorem setPending_self (s : State) : s.setPending s.pending = s := rfl
@[simp] theorem setPending_setPending (s : State) (x y : List Instr) : (s.setPending x).setPending y = s.setPending y := rfl

end Sys2Proof.Machine
end

