-- ==== Sys2Proof/Laws/Cascade.lean ====
section
/-! SUPPORT. Laws/Cascade.lean: everything that one event can do inside the Engine Sequencer, the Monitor, the Output Stage, the
Stepper and the Claim Unit, said once as a chain of small acts (`Acts`). What holds of every act holds of every shared operation
of Conditions, Outputs, Stepper, ClaimOps and Sequencer, without unfolding any of them. -/

namespace Sys2Proof.Machine

/-- A change of the own claim and of its slot: what the operations of ClaimOps are made of. -/
inductive Tweak : State → State → Prop
  | mark (s : State) (h : s.link.txEnabled = true) :
      Tweak s (s.setLink { s.link with statusMarked := true })
  | slot (s : State) (x : ClaimSlot)
      (h : s.link.txEnabled = true ∨ (s.link.claimSlot = .empty → x = .empty)) :
      Tweak s (s.setLink { s.link with claimSlot := x })
  | claim (s : State) (x : ClaimUnit) (h : x.heat = s.claim.heat) : Tweak s (s.setClaim x)

/-- A chain of tweaks. -/
def Tweaks : State → State → Prop := Relation.ReflTransGen Tweak

/-- One act of a cascade. -/
inductive Act : State → State → Prop
  | seq (s : State) (x : Sequencer) : Act s (s.setSeq x)
  | drive (s : State) (c : CommandSet) :
      Act s ((s.setOut { s.out with
        crank := c.crank, prelube := c.prelube, loadPermit := c.loadPermit }).setRet
          { s.ret with fuelLatch := c.fuel })
  | stopDelay (s : State) : Act s (s.setAlloc { s.alloc with stopDelay := .stopped })
  | flags (s : State) (c b : Bool) : Act s (s.setCab { s.cab with coldRun := c, batteryNeed := b })
  | mark (s : State) (h : s.link.txEnabled = true) :
      Act s (s.setLink { s.link with statusMarked := true })
  | offer (s : State) : Act s (examineOffer s)
  | release (s : State) (o : ReleaseOutcome) : Act s (claimRelease o s)
  | need (s : State) (n : Nat) : Act s (claimNeed n s)
  | withdraw (s : State) : Act s (claimWithdrawNeed s)
  | sees (s : State) : Act s (claimSeesPeer s)
  | trigger (s : State) : Act s (s.setAlloc { s.alloc with reEvaluate := true })
  | stepper (s : State) (x : Stepper) : Act s (s.setStepper x)
  | port (s : State) (x : Port) : Act s (s.setPort x)
  | proving (s : State) (o : ProvedOutput) (p : Proving) : Act s (s.setProving o p)
  | alarm (s : State) : Act s (setAlarm s)
  | record (s : State) (r : Option FaultRecord) (w : Bool) :
      Act s (s.setRet { s.ret with record := r, wasRunning := w })
  | phase (s : State) (p : RunPhase) (g t : Timer) :
      Act s (s.setMon { s.mon with runPhase := p, grace := g, stall := t })
  | input (s : State) (k : Fin 12) (i : ProtectiveInput) :
      Act s (s.setMon { s.mon with inputs := s.mon.inputs.set k i })
  | derate (s : State) : Act s (computeDerate s)
  | join (s : State) (code : Nat) (h : isConditionCode code = true)
      (n : hasCode s.mon.conditions code = false) : Act s (s.withMember code)
  | cause (s : State) (code : Nat) (b : Bool) :
      Act s (s.setConditions (setCause code b s.mon.conditions))
  | leave (s : State) (code : Nat) : Act s (s.setConditions (removeCode code s.mon.conditions))

/-- A chain of acts. -/
def Acts : State → State → Prop := Relation.ReflTransGen Act

theorem Acts.refl (s : State) : Acts s s := Relation.ReflTransGen.refl

theorem Acts.then {s t u : State} (h : Acts s t) (k : Act t u) : Acts s u :=
  Relation.ReflTransGen.tail h k

theorem Acts.trans {s t u : State} (h : Acts s t) (k : Acts t u) : Acts s u :=
  Relation.ReflTransGen.trans h k

/-- What every act keeps, every chain keeps. -/
theorem Acts.keeps {P : State → Prop} (step : ∀ s t, Act s t → P s → P t) {s t : State}
    (h : Acts s t) (hs : P s) : P t := by
  induction h with
  | refl => exact hs
  | tail _ a ih => exact step _ _ a ih

/-! ### The operations of ClaimOps as chains of tweaks -/

section
variable {s t : State}

theorem Tweaks.refl (s : State) : Tweaks s s := Relation.ReflTransGen.refl

theorem Tweaks.then {u : State} (h : Tweaks s t) (k : Tweak t u) : Tweaks s u := Relation.ReflTransGen.tail h k

/-- What every tweak keeps, every chain keeps. -/
theorem Tweaks.keeps {P : State → Prop} (step : ∀ s t, Tweak s t → P s → P t) (h : Tweaks s t) (hs : P s) :
    P t := by
  induction h with
  | refl => exact hs
  | tail _ a ih => exact step _ _ a ih

theorem Tweaks.setClaim (h : Tweaks s t) {x : ClaimUnit} (hx : x.heat = t.claim.heat) :
    Tweaks s (t.setClaim x) := h.then (.claim t x hx)

theorem Tweaks.markStatus (h : Tweaks s t) : Tweaks s (Machine.markStatus t) := by
  unfold Machine.markStatus; split
  exacts [h.then (.mark t ‹_›), h]

theorem Tweaks.offerRelease (h : Tweaks s t) (o : ReleaseOutcome) : Tweaks s (Machine.offerRelease o t) := by
  unfold Machine.offerRelease; split
  · split
    exacts [h.then (.slot t _ (.inl ‹_›)), h]
  · exact h

theorem Tweaks.examineOffer (h : Tweaks s t) : Tweaks s (Machine.examineOffer t) := by
  unfold Machine.examineOffer; split
  · rename_i c
    simp only [Bool.and_eq_true] at c
    split
    · exact (h.then (.slot t _ (.inl c.2))).setClaim rfl
    · exact h
  · exact h

theorem Tweaks.claimNeed (h : Tweaks s t) (n : Nat) : Tweaks s (Machine.claimNeed n t) := by
  unfold Machine.claimNeed
  dsimp only
  split
  · apply Tweaks.examineOffer
    exact h.setClaim rfl
  all_goals exact h.setClaim rfl

theorem Tweaks.withdrawOffer (h : Tweaks s t) (b : Bool) (p : ClaimPhase) :
    Tweaks s (Machine.withdrawOffer b p t) := by
  have w : Tweaks s (t.setLink { t.link with claimSlot := t.link.claimSlot.withdraw }) :=
    h.then (.slot t _ (.inr (fun e => by rw [e]; rfl)))
  unfold Machine.withdrawOffer
  dsimp only
  split
  · apply Tweaks.setClaim w; rfl
  · apply Tweaks.setClaim w; rfl

theorem Tweaks.claimWithdrawNeed (h : Tweaks s t) : Tweaks s (Machine.claimWithdrawNeed t) := by
  unfold Machine.claimWithdrawNeed; split
  · exact h.setClaim rfl
  · exact h.withdrawOffer _ _
  · exact h.setClaim rfl
  all_goals exact h

theorem Tweaks.claimSeesPeer (h : Tweaks s t) : Tweaks s (Machine.claimSeesPeer t) := by
  unfold Machine.claimSeesPeer; split
  exacts [h.withdrawOffer _ _, h]

theorem Tweaks.claimRelease (h : Tweaks s t) (o : ReleaseOutcome) : Tweaks s (Machine.claimRelease o t) := by
  unfold Machine.claimRelease; split
  · apply Tweaks.offerRelease
    apply Tweaks.markStatus
    exact h.setClaim rfl
  · exact h

end

/-- An act of the Claim Unit, or another act. -/
def Act.IsClaim (s t : State) : Prop :=
  t = examineOffer s ∨ (∃ o, t = claimRelease o s) ∨ (∃ n, t = claimNeed n s) ∨ t = claimWithdrawNeed s
    ∨ t = claimSeesPeer s

/-- The operations of ClaimOps are chains of tweaks. -/
theorem Act.IsClaim.tweaks {s t : State} (h : Act.IsClaim s t) : Tweaks s t := by
  rcases h with rfl | ⟨o, rfl⟩ | ⟨n, rfl⟩ | rfl | rfl
  exacts [(Tweaks.refl s).examineOffer, (Tweaks.refl s).claimRelease o, (Tweaks.refl s).claimNeed n,
    (Tweaks.refl s).claimWithdrawNeed, (Tweaks.refl s).claimSeesPeer]

/-! ### The acts at the end of a chain -/

section
variable {s t : State}

theorem Acts.setSeq (h : Acts s t) (x : Sequencer) : Acts s (t.setSeq x) := h.then (.seq t x)

theorem Acts.setStepper (h : Acts s t) (x : Stepper) : Acts s (t.setStepper x) := h.then (.stepper t x)

theorem Acts.setPort (h : Acts s t) (x : Port) : Acts s (t.setPort x) := h.then (.port t x)

theorem Acts.setProving (h : Acts s t) (o : ProvedOutput) (p : Proving) : Acts s (t.setProving o p) :=
  h.then (.proving t o p)

theorem Acts.setAlarm (h : Acts s t) : Acts s (Machine.setAlarm t) := h.then (.alarm t)

theorem Acts.computeDerate (h : Acts s t) : Acts s (Machine.computeDerate t) := h.then (.derate t)

theorem Acts.withMember (h : Acts s t) {code : Nat} (hc : isConditionCode code = true)
    (n : hasCode t.mon.conditions code = false) : Acts s (t.withMember code) := h.then (.join t code hc n)

theorem Acts.causeFlag (h : Acts s t) (code : Nat) (b : Bool) :
    Acts s (t.setConditions (setCause code b t.mon.conditions)) := h.then (.cause t code b)

theorem Acts.removed (h : Acts s t) (code : Nat) :
    Acts s (t.setConditions (removeCode code t.mon.conditions)) := h.then (.leave t code)

theorem Acts.ite {u : State} {c : Prop} [Decidable c] (ht : Acts s t) (hu : Acts s u) :
    Acts s (if c then t else u) := by
  split
  exacts [ht, hu]

/-! ### Ops, PortOps -/

theorem Acts.markStatus (h : Acts s t) : Acts s (Machine.markStatus t) := by
  unfold Machine.markStatus; split
  exacts [h.then (.mark t ‹_›), h]

theorem Acts.markStatusIf (h : Acts s t) (c : Bool) : Acts s (Machine.markStatusIf c t) := .ite h.markStatus h

theorem Acts.passTrigger (h : Acts s t) : Acts s (Machine.passTrigger t) := by
  unfold Machine.passTrigger; split
  exacts [h, h, h.then (.trigger t), h.then (.trigger t)]

theorem Acts.passTriggerIf (h : Acts s t) (c : Bool) : Acts s (Machine.passTriggerIf c t) := .ite h.passTrigger h

theorem Acts.portGrant (h : Acts s t) : Acts s (Machine.portGrant t) := by
  unfold Machine.portGrant
  dsimp only
  repeat' apply Acts.ite
  all_goals first | exact h | exact h.setPort _

theorem Acts.portMark (h : Acts s t) (k : PortKind) : Acts s (Machine.portMark k t) := (h.setPort _).portGrant

theorem Acts.portRelease (h : Acts s t) : Acts s (Machine.portRelease t) := (h.setPort _).portGrant

/-! ### Conditions -/

theorem Acts.clearColdRun (h : Acts s t) : Acts s (Machine.clearColdRun t) :=
  (h.then (.flags t false t.cab.batteryNeed)).markStatusIf _

theorem Acts.clearBatteryNeed (h : Acts s t) : Acts s (Machine.clearBatteryNeed t) :=
  (h.then (.flags t t.cab.coldRun false)).markStatusIf _

theorem Acts.handDerate (h : Acts s t) (code : Nat) (cls : CondClass) : Acts s (Machine.handDerate code cls t) :=
  .ite h.computeDerate h

theorem Acts.handSensorFault (h : Acts s t) (code : Nat) : Acts s (Machine.handSensorFault code t) :=
  .ite h.clearColdRun (.ite h.clearBatteryNeed h)

theorem Acts.handChange (h : Acts s t) (cls : CondClass) (d : Bool) : Acts s (Machine.handChange cls d t) :=
  ((h.passTriggerIf _).markStatusIf d).setAlarm

theorem Acts.joinCondition (h : Acts s t) {code : Nat} (hc : isConditionCode code = true)
    {react : State → State} (hr : ∀ u, Acts s u → Acts s (react u))
    (n : hasCode t.mon.conditions code = false) : Acts s (Machine.joinCondition code react t) := by
  unfold Machine.joinCondition
  exact ((hr _ ((h.withMember hc n).handDerate _ _)).handSensorFault _).handChange _ _

theorem Acts.leaveCondition (h : Acts s t) (m : Member) : Acts s (Machine.leaveCondition m t) := by
  unfold Machine.leaveCondition
  exact ((h.removed m.code).handDerate _ _).handChange _ _

theorem Acts.reportGone (h : Acts s t) (code : Nat) : Acts s (Machine.reportGone code t) := by
  unfold Machine.reportGone; split
  exacts [h, .ite (h.causeFlag code false) (h.leaveCondition _)]

theorem Acts.reportPresentWith (h : Acts s t) {code : Nat} (hc : isConditionCode code = true)
    {react : State → State} (hr : ∀ u, Acts s u → Acts s (react u)) :
    Acts s (Machine.reportPresentWith code react t) := by
  unfold Machine.reportPresentWith; split
  exacts [h.causeFlag code true, h.joinCondition hc hr (Bool.eq_false_iff.mpr ‹_›)]

theorem Acts.raiseBySequencer (h : Acts s t) {code : Nat} (hc : isConditionCode code = true)
    {f : State → State} (hf : ∀ u, Acts s u → Acts s (f u)) : Acts s (Machine.raiseBySequencer code f t) := by
  unfold Machine.raiseBySequencer; split
  exacts [hf _ (h.causeFlag code true), h.joinCondition hc hf (Bool.eq_false_iff.mpr ‹_›)]

/-! ### Outputs -/

theorem Acts.proveCommand (h : Acts s t) (o : ProvedOutput) (a b : Bool) :
    Acts s (Machine.proveCommand o a b t) := by
  unfold Machine.proveCommand
  dsimp only
  exact .ite h (.ite ((h.setProving o _).reportGone _) (h.setProving o _))

theorem Acts.commandSet (h : Acts s t) (c : CommandSet) : Acts s (Machine.commandSet c t) := by
  unfold Machine.commandSet
  dsimp only
  exact (((h.then (.drive t c)).proveCommand _ _ _).proveCommand _ _ _).proveCommand _ _ _

/-! ### Stepper -/

theorem Acts.deriveSetpoint (h : Acts s t) : Acts s (Machine.deriveSetpoint t) := by
  unfold Machine.deriveSetpoint
  dsimp only
  refine .ite h ?_
  split
  exacts [(h.setStepper _).portMark _, (h.setStepper _).setPort _]

theorem Acts.setNotch (h : Acts s t) (n : Nat) : Acts s (Machine.setNotch n t) :=
  .ite h (h.setStepper _).deriveSetpoint.markStatus

theorem Acts.stepNotch (h : Acts s t) (n : Nat) : Acts s (Machine.stepNotch n t) := (h.setStepper _).setNotch n

theorem Acts.examineStep (h : Acts s t) : Acts s (Machine.examineStep t) :=
  .ite (.ite (.ite (h.stepNotch _) h) (.ite (.ite (h.stepNotch _) h) h)) h

theorem Acts.stepperEntry (h : Acts s t) (st : EngineState) : Acts s (Machine.stepperEntry st t) := by
  unfold Machine.stepperEntry
  exact (Acts.deriveSetpoint (.ite ((h.setStepper _).setNotch 0) (h.setStepper _))).examineStep

/-! ### ClaimOps -/

theorem Acts.examineOffer (h : Acts s t) : Acts s (Machine.examineOffer t) := h.then (.offer t)
theorem Acts.claimNeed (h : Acts s t) (n : Nat) : Acts s (Machine.claimNeed n t) := h.then (.need t n)
theorem Acts.claimWithdrawNeed (h : Acts s t) : Acts s (Machine.claimWithdrawNeed t) := h.then (.withdraw t)
theorem Acts.claimSeesPeer (h : Acts s t) : Acts s (Machine.claimSeesPeer t) := h.then (.sees t)
theorem Acts.claimRelease (h : Acts s t) (o : ReleaseOutcome) : Acts s (Machine.claimRelease o t) :=
  h.then (.release t o)

/-! ### Sequencer: every entry -/

theorem Acts.maskInput (h : Acts s t) (k : Fin 12) : Acts s (Machine.maskInput k t) := by
  unfold Machine.maskInput
  dsimp only
  exact .ite ((h.then (.input t k _)).reportGone _) (h.then (.input t k _))

theorem Acts.foldl {α : Type} {f : State → α → State} (hf : ∀ t a, Acts s t → Acts s (f t a)) (l : List α)
    (h : Acts s t) : Acts s (l.foldl f t) := by
  induction l generalizing t with
  | nil => exact h
  | cons a l ih => exact ih (hf t a h)

theorem Acts.maskStartMasked (h : Acts s t) : Acts s (Machine.maskStartMasked t) :=
  .foldl (fun _ k h => .ite (h.maskInput k) h) _ h

theorem Acts.monitorEntry (h : Acts s t) (st : EngineState) : Acts s (Machine.monitorEntry st t) := by
  have halted : Acts s (if st.stalls then t else t.setMon { t.mon with stall := .stopped }) :=
    .ite h (h.then (.phase t t.mon.runPhase t.mon.grace .stopped))
  unfold Machine.monitorEntry
  dsimp only
  generalize (if st.stalls then t else t.setMon { t.mon with stall := .stopped }) = u at halted ⊢
  exact .ite halted ((halted.then (.phase u .notRun .stopped u.mon.stall)).reportGone _).maskStartMasked

theorem Acts.entryBase (h : Acts s t) (st : EngineState) : Acts s (Machine.entryBase st t) := by
  unfold Machine.entryBase
  dsimp only
  apply Acts.monitorEntry
  apply Acts.commandSet
  apply Acts.stepperEntry
  exact .ite (h.setSeq _).markStatus.passTrigger ((h.setSeq _).markStatus.passTrigger.then (.stopDelay _))

/-! ### Sequencer: the entries -/

theorem Acts.setStopReason (h : Acts s t) (r : StopReason) : Acts s (Machine.setStopReason r t) := h.setSeq _

theorem Acts.enterStopped (h : Acts s t) : Acts s (Machine.enterStopped t) := by
  unfold Machine.enterStopped
  apply Acts.entryBase
  exact h.setSeq _

theorem Acts.setRecord (h : Acts s t) (r : Option FaultRecord) :
    Acts s (t.setRet { t.ret with record := r }) := h.then (.record t r t.ret.wasRunning)

theorem Acts.setWasRunning (h : Acts s t) (b : Bool) :
    Acts s (t.setRet { t.ret with wasRunning := b }) := h.then (.record t t.ret.record b)

theorem Acts.enterFaulted (h : Acts s t) : Acts s (Machine.enterFaulted t) := by
  unfold Machine.enterFaulted
  dsimp only
  exact ((h.setStopReason .none).entryBase .faulted).setRecord _

theorem Acts.takeSnapshot (h : Acts s t) : Acts s (Machine.takeSnapshot t) := h.setSeq _

theorem Acts.stoppingExit (h : Acts s t) : Acts s (Machine.stoppingExit t) :=
  .ite (.ite h.enterFaulted h.enterStopped) h

theorem Acts.enterStopping (h : Acts s t) : Acts s (Machine.enterStopping t) := by
  unfold Machine.enterStopping
  dsimp only
  apply Acts.stoppingExit
  apply Acts.setWasRunning
  apply Acts.entryBase
  exact h.takeSnapshot.setSeq _

theorem Acts.dropClaim (h : Acts s t) : Acts s (Machine.dropClaim t) := by
  unfold Machine.dropClaim; split
  exacts [h.claimWithdrawNeed, h.claimRelease _, h.claimRelease _, h]

theorem Acts.goStopping (h : Acts s t) : Acts s (Machine.goStopping t) := h.dropClaim.enterStopping

theorem Acts.cancelStart (h : Acts s t) : Acts s (Machine.cancelStart t) := h.dropClaim.enterStopped

theorem Acts.replaceAllocationReason (h : Acts s t) : Acts s (Machine.replaceAllocationReason t) :=
  .ite (.ite (h.setStopReason _) (.ite (h.setStopReason _) h)) h

theorem Acts.enterCooldown (h : Acts s t) : Acts s (Machine.enterCooldown t) := by
  have e := h.entryBase .cooldown
  unfold Machine.enterCooldown
  dsimp only
  exact .ite e.goStopping (.ite e.replaceAllocationReason.enterStopping e.replaceAllocationReason)

theorem Acts.enterUnloading (h : Acts s t) : Acts s (Machine.enterUnloading t) := by
  have e := h.entryBase .unloading
  unfold Machine.enterUnloading
  dsimp only
  exact .ite e.goStopping (.ite e.replaceAllocationReason.enterCooldown e.replaceAllocationReason)

theorem Acts.examineAllocationStop (h : Acts s t) : Acts s (Machine.examineAllocationStop t) :=
  .ite (h.setStopReason _).enterUnloading h

theorem Acts.enterOnline (h : Acts s t) : Acts s (Machine.enterOnline t) := by
  have e := h.entryBase .online
  unfold Machine.enterOnline
  dsimp only
  exact .ite e.goStopping (.ite (e.setStopReason _).enterUnloading
    (.ite (e.setStopReason _).enterUnloading e.examineAllocationStop))

theorem Acts.examineWarm (h : Acts s t) : Acts s (Machine.examineWarm t) := .ite h.enterOnline h

theorem Acts.coolOrElse (h : Acts s t) {f : State → State} (hf : Acts s (f t)) :
    Acts s (Machine.coolOrElse f t) :=
  .ite (h.setStopReason _).enterCooldown (.ite (h.setStopReason _).enterCooldown hf)

theorem Acts.enterWarmup (h : Acts s t) : Acts s (Machine.enterWarmup t) := by
  have e := h.entryBase .warmup
  unfold Machine.enterWarmup
  dsimp only
  exact .ite e.goStopping (e.coolOrElse e.examineWarm)

theorem Acts.enterRunup (h : Acts s t) : Acts s (Machine.enterRunup t) := by
  have e := (h.setWasRunning true).entryBase .runup
  unfold Machine.enterRunup
  dsimp only
  exact .ite e.goStopping (e.coolOrElse e)

theorem Acts.enterCranking (h : Acts s t) : Acts s (Machine.enterCranking t) := by
  have e := h.entryBase .cranking
  unfold Machine.enterCranking
  dsimp only
  exact .ite e.goStopping e

theorem Acts.enterClaimSettle (h : Acts s t) : Acts s (Machine.enterClaimSettle t) := by
  have e := h.entryBase .claimSettle
  unfold Machine.enterClaimSettle
  dsimp only
  exact .ite e.goStopping (.ite e.cancelStart e)

theorem Acts.enterClaimWait (h : Acts s t) : Acts s (Machine.enterClaimWait t) := by
  have e := (h.entryBase .claimWait).claimNeed ((Machine.entryBase .claimWait t).seq.attempts + 1)
  unfold Machine.enterClaimWait
  dsimp only
  exact .ite e.goStopping (.ite e.cancelStart e)

theorem Acts.enterPrelube (h : Acts s t) : Acts s (Machine.enterPrelube t) := by
  have e := h.entryBase .prelube
  unfold Machine.enterPrelube
  dsimp only
  exact .ite e.goStopping (.ite e.cancelStart e)

/-! ### Sequencer: the attempt's end, causes that appear, events of other blocks -/

theorem Acts.raiseMomentary (h : Acts s t) {code : Nat} (hc : isConditionCode code = true)
    {f : State → State} (hf : ∀ u, Acts s u → Acts s (f u)) : Acts s (Machine.raiseMomentary code f t) :=
  (h.raiseBySequencer hc hf).reportGone code

theorem Acts.startRest (h : Acts s t) : Acts s (Machine.startRest t) := h.setSeq _

theorem Acts.failedAttempt (h : Acts s t) : Acts s (Machine.failedAttempt t) := by
  have e := Acts.claimRelease (h.setSeq { t.seq with attempts := t.seq.attempts + 1 }) .failed
  unfold Machine.failedAttempt
  dsimp only
  exact .ite e.startRest.enterClaimWait (e.raiseMomentary rfl fun _ h => h.enterStopping)

theorem Acts.hardAppears (h : Acts s t) : Acts s (Machine.hardAppears t) := .ite h.goStopping h

theorem Acts.isolateAppears (h : Acts s t) : Acts s (Machine.isolateAppears t) := by
  unfold Machine.isolateAppears; split
  exacts [h.enterStopped, h.cancelStart, h.cancelStart, h.cancelStart, h.goStopping,
    (h.setStopReason _).enterCooldown, (h.setStopReason _).enterCooldown,
    (h.setStopReason _).enterUnloading, h.setStopReason _, h.setStopReason _, h, h, h, h]

theorem Acts.isolateEnds (h : Acts s t) : Acts s (Machine.isolateEnds t) := .ite h.enterStopped h

theorem Acts.stopAppears (h : Acts s t) : Acts s (Machine.stopAppears t) := by
  unfold Machine.stopAppears; split
  exacts [h.cancelStart, h.cancelStart, h.cancelStart, (h.setStopReason _).enterCooldown,
    (h.setStopReason _).enterCooldown, (h.setStopReason _).enterUnloading, h.setStopReason _,
    h.setStopReason _, h, h, h, h, h, h]

theorem Acts.inhibitAppears (h : Acts s t) : Acts s (Machine.inhibitAppears t) := by
  unfold Machine.inhibitAppears; split
  exacts [h.cancelStart, h.cancelStart, h.cancelStart, h]

theorem Acts.crankOpenAppears (h : Acts s t) : Acts s (Machine.crankOpenAppears t) := .ite h.failedAttempt h

theorem Acts.aloneAppears (h : Acts s t) : Acts s (Machine.aloneAppears t) := by
  unfold Machine.aloneAppears; split
  exacts [h.cancelStart, h.cancelStart, h]

theorem Acts.joiningAppears (h : Acts s t) (code : Nat) (cls : CondClass) :
    Acts s (Machine.joiningAppears code cls t) := by
  unfold Machine.joiningAppears; split
  exacts [h.hardAppears, h.stopAppears, h.inhibitAppears, .ite h.crankOpenAppears h,
    .ite h.crankOpenAppears h, .ite h.crankOpenAppears h]

theorem Acts.reportPresent (h : Acts s t) {code : Nat} (hc : isConditionCode code = true) :
    Acts s (Machine.reportPresent code t) := h.reportPresentWith hc fun _ k => k.joiningAppears code _

theorem Acts.reportCause (h : Acts s t) {code : Nat} (hc : isConditionCode code = true) (b : Bool) :
    Acts s (Machine.reportCause code b t) := .ite (h.reportPresent hc) (h.reportGone code)

theorem Acts.sequencerPassEnd (h : Acts s t) : Acts s (Machine.sequencerPassEnd t) := by
  unfold Machine.sequencerPassEnd
  dsimp only
  split
  exacts [.ite (.ite h.enterClaimWait h.enterPrelube) h, .ite h h.cancelStart, .ite h h.cancelStart,
    .ite h h.cancelStart, h.examineAllocationStop, .ite (h.setStopReason _).enterOnline h,
    .ite (h.setStopReason _).enterOnline h, h, h, h, h, h, h, h]

theorem Acts.startMinRun (h : Acts s t) : Acts s (Machine.startMinRun t) := h.setSeq _

theorem Acts.startGrace (h : Acts s t) : Acts s (Machine.startGrace t) :=
  h.then (.phase t .grace _ t.mon.stall)

theorem Acts.initExit (h : Acts s t) : Acts s (Machine.initExit t) := by
  have e : Acts s (Machine.startGrace (Machine.startMinRun (t.setSeq { t.seq with resumed := true }))) := by
    apply Acts.startGrace
    apply Acts.startMinRun
    exact h.setSeq _
  unfold Machine.initExit
  dsimp only
  exact .ite (.ite h.enterStopping h.takeSnapshot.enterFaulted)
    (.ite (.ite (e.setWasRunning true).enterOnline h.enterStopping) h.enterStopped)

theorem Acts.examineInit (h : Acts s t) : Acts s (Machine.examineInit t) := .ite h.initExit h

theorem Acts.fire (h : Acts s t) : Acts s (Machine.fire t) := by
  unfold Machine.fire
  dsimp only
  apply Acts.enterRunup
  apply Acts.startGrace
  apply Acts.startMinRun
  exact (h.claimRelease .fired).setSeq _

theorem Acts.sequencerSpeed (h : Acts s t) : Acts s (Machine.sequencerSpeed t) := by
  unfold Machine.sequencerSpeed; split
  · exact h.examineInit
  · split
    · split
      exacts [h.setSeq _, h]
    · exact h.setSeq _
  · exact .ite h.enterWarmup h
  · exact h.stoppingExit
  · exact h

theorem Acts.sequencerFaultReset (h : Acts s t) : Acts s (Machine.sequencerFaultReset t) := .ite h.enterStopped h

theorem Acts.stepperExamine (h : Acts s t) : Acts s (Machine.stepperExamine t) := by
  unfold Machine.stepperExamine
  dsimp only
  exact .ite h.examineStep.enterCooldown h.examineStep

end

end Sys2Proof.Machine
end

