-- ==== Sys2Proof/Laws/CascadeLaws.lean ====
section
/-! SUPPORT. Laws/CascadeLaws.lean: what every chain of acts leaves as it was, and the laws of Safety.lean that every chain keeps:
the pool (R64), the condition set (R157), the derate factor and the capacity (R151, R152), the disabled transmitter (R52). -/

namespace Sys2Proof.Machine

/-! ### computeDerate -/

@[simp] theorem loaded_setMon (s : State) (x : Monitor) : (s.setMon x).loaded = s.loaded := rfl

theorem markStatus_eq (s : State) :
    markStatus s = s.setLink { s.link with statusMarked := s.link.txEnabled || s.link.statusMarked } := by
  unfold markStatus
  cases h : s.link.txEnabled <;> simp [State.setLink]

theorem passTrigger_eq (s : State) :
    passTrigger s = s.setAlloc { s.alloc with
      reEvaluate := (s.alloc.phase == .ready || s.alloc.phase == .inPass) || s.alloc.reEvaluate } := by
  unfold passTrigger
  cases h : s.alloc.phase <;> rfl

theorem markStatusIf_eq (c : Bool) (s : State) :
    markStatusIf c s
      = s.setLink { s.link with statusMarked := (c && s.link.txEnabled) || s.link.statusMarked } := by
  unfold markStatusIf
  cases c <;> simp [markStatus_eq, State.setLink]

theorem passTriggerIf_eq (c : Bool) (s : State) :
    passTriggerIf c s = s.setAlloc { s.alloc with
      reEvaluate := (c && (s.alloc.phase == .ready || s.alloc.phase == .inPass)) || s.alloc.reEvaluate } := by
  unfold passTriggerIf
  cases c <;> simp [passTrigger_eq, State.setAlloc]

/-- The capacity that goes with a derate factor (R152). -/
def capacityAt (s : State) : Nat := s.params.ratedPower * s.derateFactor / 256

/-- R151, R152 at once: after the load F and C are those of the moment, a change of either is a trigger, a change of C marks
STATUS, and nothing else changes. -/
theorem computeDerate_eq (s : State) (h : s.loaded = true) :
    computeDerate s
      = ((s.setMon { s.mon with derate := s.derateFactor, capacity := capacityAt s }).setAlloc
          { s.alloc with
            reEvaluate :=
              ((s.derateFactor != s.mon.derate || capacityAt s != s.mon.capacity)
                && (s.alloc.phase == .ready || s.alloc.phase == .inPass)) || s.alloc.reEvaluate }).setLink
          { s.link with
            statusMarked :=
              (capacityAt s != s.mon.capacity && s.link.txEnabled) || s.link.statusMarked } := by
  unfold computeDerate
  simp [h, markStatusIf_eq, passTriggerIf_eq, capacityAt]

theorem computeDerate_unloaded (s : State) (h : s.loaded = false) : computeDerate s = s := by
  unfold computeDerate
  simp [h]

/-! ### What stays -/

/-- What no chain of acts changes. -/
structure Untouched (s t : State) : Prop where
  view : t.view = s.view
  load : t.load = s.load
  params : t.params = s.params
  mailbox : t.mailbox = s.mailbox
  pending : t.pending = s.pending
  link : { t.link with claimSlot := s.link.claimSlot, statusMarked := s.link.statusMarked } = s.link
  alloc : { t.alloc with reEvaluate := s.alloc.reEvaluate, stopDelay := s.alloc.stopDelay } = s.alloc
  cab : { t.cab with coldRun := s.cab.coldRun, batteryNeed := s.cab.batteryNeed } = s.cab
  heat : t.claim.heat = s.claim.heat
  minutes : t.ret.minutes = s.ret.minutes
  shadow : t.ret.shadow = s.ret.shadow
  coolant : t.mon.coolant = s.mon.coolant
  oil : t.mon.oil = s.mon.oil
  battery : t.mon.battery = s.mon.battery
  speed : t.mon.speed = s.mon.speed
  speedYet : t.mon.speedYet = s.mon.speedYet
  routing : t.mon.routing = s.mon.routing

theorem Untouched.refl (s : State) : Untouched s s := by constructor <;> rfl

theorem Untouched.trans {s t u : State} (h : Untouched s t) (k : Untouched t u) : Untouched s u where
  view := k.view.trans h.view
  load := k.load.trans h.load
  params := k.params.trans h.params
  mailbox := k.mailbox.trans h.mailbox
  pending := k.pending.trans h.pending
  link := by
    have a := congrArg (fun l : LinkUnit =>
      { l with claimSlot := s.link.claimSlot, statusMarked := s.link.statusMarked }) k.link
    exact a.trans h.link
  alloc := by
    have a := congrArg (fun l : Allocator =>
      { l with reEvaluate := s.alloc.reEvaluate, stopDelay := s.alloc.stopDelay }) k.alloc
    exact a.trans h.alloc
  cab := by
    have a := congrArg (fun l : CabUnit =>
      { l with coldRun := s.cab.coldRun, batteryNeed := s.cab.batteryNeed }) k.cab
    exact a.trans h.cab
  heat := k.heat.trans h.heat
  minutes := k.minutes.trans h.minutes
  shadow := k.shadow.trans h.shadow
  coolant := k.coolant.trans h.coolant
  oil := k.oil.trans h.oil
  battery := k.battery.trans h.battery
  speed := k.speed.trans h.speed
  speedYet := k.speedYet.trans h.speedYet
  routing := k.routing.trans h.routing

theorem setProving_eq (s : State) (o : ProvedOutput) (p : Proving) :
    s.setProving o p = s.setOut (s.out.setProving o p) := rfl

theorem Tweak.untouched {s t : State} (h : Tweak s t) : Untouched s t := by
  cases h
  case claim x hx => exact ⟨rfl, rfl, rfl, rfl, rfl, rfl, rfl, rfl, hx, rfl, rfl, rfl, rfl, rfl, rfl, rfl, rfl⟩
  all_goals (constructor <;> rfl)

theorem Tweaks.untouched {s t : State} (h : Tweaks s t) : Untouched s t :=
  h.keeps (P := fun u => Untouched s u) (fun _ _ a k => k.trans a.untouched) (.refl s)

/-- An act is one of the Claim Unit's, or it leaves the own claim and the claim slot alone. -/
theorem Act.claim_or {s t : State} (h : Act s t) :
    Act.IsClaim s t ∨ (t.claim = s.claim ∧ t.link.claimSlot = s.link.claimSlot) := by
  cases h
  case offer => exact .inl (.inl rfl)
  case release o => exact .inl (.inr (.inl ⟨o, rfl⟩))
  case need n => exact .inl (.inr (.inr (.inl ⟨n, rfl⟩)))
  case withdraw => exact .inl (.inr (.inr (.inr (.inl rfl))))
  case sees => exact .inl (.inr (.inr (.inr (.inr rfl))))
  case derate =>
    right
    cases l : s.loaded
    · rw [computeDerate_unloaded s l]; exact ⟨rfl, rfl⟩
    · rw [computeDerate_eq s l]; exact ⟨rfl, rfl⟩
  all_goals exact .inr ⟨rfl, rfl⟩

theorem Act.untouched {s t : State} (h : Act s t) : Untouched s t := by
  cases h
  case offer => exact (Act.IsClaim.tweaks (.inl rfl)).untouched
  case release o => exact (Act.IsClaim.tweaks (.inr (.inl ⟨o, rfl⟩))).untouched
  case need n => exact (Act.IsClaim.tweaks (.inr (.inr (.inl ⟨n, rfl⟩)))).untouched
  case withdraw => exact (Act.IsClaim.tweaks (.inr (.inr (.inr (.inl rfl))))).untouched
  case sees => exact (Act.IsClaim.tweaks (.inr (.inr (.inr (.inr rfl))))).untouched
  case derate =>
    cases l : s.loaded
    · rw [computeDerate_unloaded s l]; exact .refl s
    · rw [computeDerate_eq s l]; constructor <;> rfl
  all_goals (constructor <;> rfl)

/-- What no operation of the cascade touches. -/
theorem Acts.untouched {s t : State} (h : Acts s t) : Untouched s t :=
  h.keeps (P := fun u => Untouched s u) (fun _ _ a k => k.trans a.untouched) (.refl s)

/-! ### The link fields one by one -/

theorem Acts.places {s t : State} (h : Acts s t) : t.link.places = s.link.places := by
  have := congrArg LinkUnit.places h.untouched.link
  exact this

theorem Acts.linkField {s t : State} (h : Acts s t) {α : Type} (f : LinkUnit → α)
    (hf : ∀ (l : LinkUnit) c m, f { l with claimSlot := c, statusMarked := m } = f l) :
    f t.link = f s.link := by
  have a := congrArg f h.untouched.link
  exact (hf _ _ _).symm.trans a

theorem Acts.results {s t : State} (h : Acts s t) : t.alloc.results = s.alloc.results := by
  have a := congrArg Allocator.results h.untouched.alloc
  exact a

theorem Acts.powerSteps {s t : State} (h : Acts s t) : t.alloc.powerSteps = s.alloc.powerSteps := by
  have a := congrArg Allocator.powerSteps h.untouched.alloc
  exact a

theorem Acts.phase {s t : State} (h : Acts s t) : t.alloc.phase = s.alloc.phase := by
  have a := congrArg Allocator.phase h.untouched.alloc
  exact a

theorem Acts.loaded {s t : State} (h : Acts s t) : t.loaded = s.loaded := by
  unfold State.loaded; rw [h.untouched.load]

/-! ### The laws -/

theorem Acts.poolLaw {s t : State} (h : Acts s t) (l : PoolLaw s) : PoolLaw t := by
  unfold PoolLaw; rw [h.places]; exact l

/-! #### The condition set -/

/-- The codes rise strictly and each is a condition code (R157), as a law of the list. -/
def ListLaw (l : List Member) : Prop :=
  (l.map (·.code)).Pairwise (· < ·) ∧ ∀ m ∈ l, isConditionCode m.code = true

theorem setCause_codes (code : Nat) (b : Bool) (l : List Member) :
    (setCause code b l).map (·.code) = l.map (·.code) := by
  unfold setCause
  rw [List.map_map]
  apply List.map_congr_left
  intro m _
  simp only [Function.comp]
  split <;> rfl

theorem ListLaw.of_codes {l k : List Member} (h : ListLaw l) (e : k.map (·.code) = l.map (·.code)) :
    ListLaw k := by
  refine ⟨e ▸ h.1, fun m hm => ?_⟩
  have : m.code ∈ l.map (·.code) := e ▸ List.mem_map_of_mem hm
  obtain ⟨x, hx, hc⟩ := List.mem_map.mp this
  rw [← hc]; exact h.2 x hx

theorem ListLaw.setCause {l : List Member} (h : ListLaw l) (code : Nat) (b : Bool) :
    ListLaw (setCause code b l) := h.of_codes (setCause_codes code b l)

theorem ListLaw.removeCode {l : List Member} (h : ListLaw l) (code : Nat) : ListLaw (removeCode code l) :=
  ⟨h.1.sublist (List.Sublist.map _ List.filter_sublist), fun m hm => h.2 m (List.mem_of_mem_filter hm)⟩

theorem mem_insertMember {m x : Member} {l : List Member} :
    x ∈ insertMember m l ↔ x = m ∨ x ∈ l := by
  induction l with
  | nil => simp [insertMember]
  | cons y ys ih =>
    unfold insertMember
    split
    · simp
    · simp only [List.mem_cons, ih]; tauto

theorem ListLaw.insertMember {l : List Member} (h : ListLaw l) {m : Member}
    (hc : isConditionCode m.code = true) (n : hasCode l m.code = false) : ListLaw (insertMember m l) := by
  refine ⟨?_, fun x hx => ?_⟩
  · have p := h.1
    clear h
    induction l with
    | nil => simp [Machine.insertMember]
    | cons y ys ih =>
      have hy : y.code ≠ m.code := by
        intro e; simp [hasCode, e] at n
      have hn : hasCode ys m.code = false := by
        simp only [hasCode, List.any_cons, Bool.or_eq_false_iff] at n ⊢; exact n.2
      rw [List.map_cons, List.pairwise_cons] at p
      unfold Machine.insertMember
      split
      · rename_i lt
        simp only [List.map_cons, List.pairwise_cons]
        refine ⟨?_, p⟩
        intro a ha
        rcases List.mem_cons.mp ha with rfl | ha
        · exact lt
        · exact lt.trans (p.1 a ha)
      · rename_i ge
        simp only [List.map_cons, List.pairwise_cons]
        refine ⟨?_, ih hn p.2⟩
        intro a ha
        obtain ⟨x, hx, rfl⟩ := List.mem_map.mp ha
        rcases mem_insertMember.mp hx with rfl | hx
        · omega
        · exact p.1 _ (List.mem_map_of_mem hx)
  · rcases mem_insertMember.mp hx with rfl | hx
    exacts [hc, h.2 x hx]

theorem conditionLaw_iff (s : State) : ConditionLaw s ↔ ListLaw s.mon.conditions := Iff.rfl

@[simp] theorem computeDerate_conditions (s : State) : (computeDerate s).mon.conditions = s.mon.conditions := by
  cases l : s.loaded
  · rw [computeDerate_unloaded s l]
  · rw [computeDerate_eq s l]; rfl

theorem Tweaks.mon {s t : State} (h : Tweaks s t) : t.mon = s.mon :=
  h.keeps (P := fun u => u.mon = s.mon) (fun _ _ a k => by cases a <;> exact k) rfl

theorem Tweaks.conditions {s t : State} (h : Tweaks s t) : t.mon.conditions = s.mon.conditions :=
  congrArg Monitor.conditions h.mon

theorem Tweaks.conditionLaw {s t : State} (h : Tweaks s t) (l : ConditionLaw s) : ConditionLaw t := by
  unfold ConditionLaw; rw [h.conditions]; exact l

theorem Acts.conditionLaw {s t : State} (h : Acts s t) : ConditionLaw s → ConditionLaw t := by
  refine h.keeps (P := ConditionLaw) ?_
  intro u v a l
  rw [conditionLaw_iff] at l ⊢
  cases a
  case join code hc n => exact l.insertMember (m := ⟨code, _, _, _, _⟩) hc n
  case cause code b => exact l.setCause code b
  case leave code => exact l.removeCode code
  case derate => rw [computeDerate_conditions]; exact l
  case offer => exact Tweaks.conditionLaw (Act.IsClaim.tweaks (.inl rfl)) l
  case release o => exact Tweaks.conditionLaw (Act.IsClaim.tweaks (.inr (.inl ⟨o, rfl⟩))) l
  case need n => exact Tweaks.conditionLaw (Act.IsClaim.tweaks (.inr (.inr (.inl ⟨n, rfl⟩)))) l
  case withdraw => exact Tweaks.conditionLaw (Act.IsClaim.tweaks (.inr (.inr (.inr (.inl rfl))))) l
  case sees => exact Tweaks.conditionLaw (Act.IsClaim.tweaks (.inr (.inr (.inr (.inr rfl))))) l
  all_goals exact l

/-! #### The derate factor and the capacity -/

theorem derateCap_bounds {routing : Vector RoutingEntry 12} (r : ∀ k : Fin 12, 64 ≤ routing[k].derate)
    {f : Nat} (h : 64 ≤ f ∧ f ≤ 256) (m : Member) :
    64 ≤ derateCap routing f m ∧ derateCap routing f m ≤ 256 := by
  unfold derateCap
  split
  · split
    · rename_i k _
      have := r k
      omega
    · exact h
  · exact h

theorem baseFactor_bounds (p : Params) (t : Int) : 64 ≤ baseFactor p t ∧ baseFactor p t ≤ 256 := by
  unfold baseFactor
  split
  · omega
  · split
    · rename_i h1 h2
      refine ⟨le_max_left _ _, max_le (by decide) ?_⟩
      have d : (0 : Int) < (p.tTrip : Int) - p.tDerate := by omega
      have q : 256 * ((p.tTrip : Int) - t) / ((p.tTrip : Int) - p.tDerate) ≤ 256 := by
        apply Int.ediv_le_of_le_mul d
        nlinarith
      omega
    · exact ⟨by decide, by decide⟩

theorem derateFactor_bounds (s : State) (r : ∀ k : Fin 12, 64 ≤ s.mon.routing[k].derate) :
    64 ≤ s.derateFactor ∧ s.derateFactor ≤ 256 := by
  unfold State.derateFactor
  simp only
  have base : ∀ f : Nat, 64 ≤ f ∧ f ≤ 256 →
      64 ≤ s.mon.conditions.foldl (derateCap s.mon.routing) f
        ∧ s.mon.conditions.foldl (derateCap s.mon.routing) f ≤ 256 := by
    intro f hf
    induction s.mon.conditions generalizing f with
    | nil => exact hf
    | cons m l ih => exact ih _ (derateCap_bounds r hf m)
  apply base
  have b := baseFactor_bounds s.params s.mon.coolant.value
  split
  · refine ⟨le_min b.1 (by decide), (min_le_left _ _).trans b.2⟩
  · exact b

theorem capacity_le (r f : Nat) (h : f ≤ 256) : r * f / 256 ≤ r := by
  apply Nat.div_le_of_le_mul
  nlinarith

theorem DerateLaw.computeDerate {s : State} (h : DerateLaw s) : DerateLaw (computeDerate s) := by
  cases l : s.loaded
  · rw [computeDerate_unloaded s l]; exact h
  · rw [computeDerate_eq s l]
    have b := derateFactor_bounds s h.2.2.2
    refine ⟨b, capacity_le _ _ b.2, fun e => ?_, h.2.2.2⟩
    have : s.loaded = false := e
    simp [l] at this

theorem Tweaks.derateLaw {s t : State} (h : Tweaks s t) : DerateLaw s → DerateLaw t :=
  h.keeps (P := DerateLaw) fun _ _ a l => by cases a <;> exact l

theorem Acts.derateLaw {s t : State} (h : Acts s t) : DerateLaw s → DerateLaw t := by
  refine h.keeps (P := DerateLaw) ?_
  intro u v a l
  cases a
  case derate => exact l.computeDerate
  case offer => exact Tweaks.derateLaw (Act.IsClaim.tweaks (.inl rfl)) l
  case release o => exact Tweaks.derateLaw (Act.IsClaim.tweaks (.inr (.inl ⟨o, rfl⟩))) l
  case need n => exact Tweaks.derateLaw (Act.IsClaim.tweaks (.inr (.inr (.inl ⟨n, rfl⟩)))) l
  case withdraw => exact Tweaks.derateLaw (Act.IsClaim.tweaks (.inr (.inr (.inr (.inl rfl))))) l
  case sees => exact Tweaks.derateLaw (Act.IsClaim.tweaks (.inr (.inr (.inr (.inr rfl))))) l
  all_goals exact l

/-! #### The disabled transmitter -/

theorem Tweaks.disabledLaw {s t : State} (h : Tweaks s t) : DisabledLaw s → DisabledLaw t := by
  refine h.keeps (P := DisabledLaw) ?_
  intro u v a l
  cases a
  case mark on =>
    intro off
    have off' : u.link.txEnabled = false := off
    simp [on] at off'
  case slot x hx =>
    intro off
    have off' : u.link.txEnabled = false := off
    obtain ⟨a, b, c⟩ := l off'
    refine ⟨a, b, fun d => ?_⟩
    obtain ⟨c1, c2, c3, c4⟩ := c d
    refine ⟨?_, c2, c3, c4⟩
    rcases hx with hx | hx
    · simp [off'] at hx
    · exact hx c1
  case claim => exact l

theorem Acts.disabledLaw {s t : State} (h : Acts s t) : DisabledLaw s → DisabledLaw t := by
  refine h.keeps (P := DisabledLaw) ?_
  intro u v a l
  cases a
  case derate =>
    cases e : u.loaded
    · rw [computeDerate_unloaded u e]; exact l
    · rw [computeDerate_eq u e]
      intro off
      have off' : u.link.txEnabled = false := off
      obtain ⟨a, b, c⟩ := l off'
      refine ⟨a, b, fun d => ?_⟩
      obtain ⟨c1, c2, c3, c4⟩ := c d
      refine ⟨c1, ?_, c3, c4⟩
      simp [c2, off']
  case mark on => exact Tweaks.disabledLaw ((Tweaks.refl u).then (.mark u on)) l
  case offer => exact Tweaks.disabledLaw (Act.IsClaim.tweaks (.inl rfl)) l
  case release o => exact Tweaks.disabledLaw (Act.IsClaim.tweaks (.inr (.inl ⟨o, rfl⟩))) l
  case need n => exact Tweaks.disabledLaw (Act.IsClaim.tweaks (.inr (.inr (.inl ⟨n, rfl⟩)))) l
  case withdraw => exact Tweaks.disabledLaw (Act.IsClaim.tweaks (.inr (.inr (.inr (.inl rfl))))) l
  case sees => exact Tweaks.disabledLaw (Act.IsClaim.tweaks (.inr (.inr (.inr (.inr rfl))))) l
  all_goals exact l

theorem Acts.enabledLaw {s t : State} (h : Acts s t) (l : EnabledLaw s) : EnabledLaw t := by
  have tx : t.link.txEnabled = s.link.txEnabled := h.linkField LinkUnit.txEnabled fun _ _ _ => rfl
  have sd : t.link.sending = s.link.sending := h.linkField LinkUnit.sending fun _ _ _ => rfl
  have dp : t.link.disablePending = s.link.disablePending := h.linkField LinkUnit.disablePending fun _ _ _ => rfl
  unfold EnabledLaw
  rw [h.loaded, tx, sd, dp]
  exact l

theorem Acts.transmitterLaw {s t : State} (h : Acts s t) (l : TransmitterLaw s) : TransmitterLaw t :=
  ⟨h.disabledLaw l.1, h.enabledLaw l.2⟩

/-! #### The claim record, its timers and the slot -/

/-- The tidiness of the claim reads the claim, the slot, what is in transmission and whether the slots are emptied at its
outcome. -/
theorem ClaimTidy.of_eq {s t : State} (h : ClaimTidy s) (c : t.claim = s.claim)
    (l : t.link.claimSlot = s.link.claimSlot) (k : t.link.sending = s.link.sending)
    (d : t.link.disablePending = s.link.disablePending) : ClaimTidy t := by
  unfold ClaimTidy State.slotAgrees LinkUnit.slotSends LinkUnit.sendingKind at h ⊢
  rw [c, l, k, d]
  exact h

theorem ClaimTidy.markStatus {s : State} (h : ClaimTidy s) : ClaimTidy (markStatus s) := by
  rw [markStatus_eq]; exact h.of_eq rfl rfl rfl rfl

/-- The slot law, case by case. -/
theorem slotAgrees_iff (s : State) : s.slotAgrees = true ↔ (s.link.disablePending = false →
    (∀ c, s.link.claimSlot = .claimPending c → s.claim.phase = .offered)
      ∧ (∀ c, s.link.claimSlot = .claimSending c none false → s.claim.phase = .offered)
      ∧ (∀ c, s.link.claimSlot = .claimSending c none true → s.claim.phase = .lapsed)
      ∧ (∀ c o w, s.link.claimSlot ≠ .claimSending c (some o) w)) := by
  unfold State.slotAgrees
  cases s.link.disablePending
  · simp only [Bool.false_or, forall_true_left]
    cases s.link.claimSlot with
    | claimSending c r w => cases r <;> cases w <;> simp
    | _ => simp
  · simp

/-- In a phase without an own CLAIM the slot holds none, or is to be emptied. -/
theorem slot_free {s : State} (h : s.slotAgrees = true) (d : s.link.disablePending = false)
    (p : s.claim.phase ≠ .offered ∧ s.claim.phase ≠ .lapsed) :
    (∀ c, s.link.claimSlot ≠ .claimPending c) ∧ s.link.claimSlot.claimIsSending = false := by
  obtain ⟨h1, h2, h3, h4⟩ := (slotAgrees_iff s).mp h d
  refine ⟨fun c e => p.1 (h1 c e), ?_⟩
  cases q : s.link.claimSlot with
  | claimSending c r w =>
    cases r with
    | none => cases w
              · exact (p.1 (h2 c q)).elim
              · exact (p.2 (h3 c q)).elim
    | some o => exact (h4 c o w q).elim
  | _ => rfl

theorem ClaimTidy.examineOffer {s : State} (h : ClaimTidy s) : ClaimTidy (examineOffer s) := by
  unfold Machine.examineOffer
  split
  · rename_i c
    simp only [State.mayOffer, Bool.and_eq_true, decide_eq_true_eq, beq_iff_eq] at c
    obtain ⟨⟨p, ⟨⟨⟨⟨⟨⟨hn, _⟩, _⟩, _⟩, hr⟩, _⟩, _⟩⟩, _⟩ := c
    split
    · rename_i slot hs
      obtain ⟨h1, h2, h3⟩ := h
      have e : (∃ c, slot = .claimPending c) ∧ s.link.claimSlot.claimIsSending = false
          ∧ s.link.claimSlot.releaseIsSending = false := by
        cases q : s.link.claimSlot <;> rw [q] at hs <;> simp only [ClaimSlot.offerClaim] at hs
        · exact ⟨⟨_, (Option.some.inj hs).symm⟩, rfl, rfl⟩
        · exact ⟨⟨_, (Option.some.inj hs).symm⟩, rfl, rfl⟩
        all_goals cases hs
      obtain ⟨⟨c, rfl⟩, e1, e2⟩ := e
      refine ⟨?_, ?_, ?_⟩
      · simp only [ClaimUnit.timersAgree, p, hn, Bool.and_eq_true, beq_iff_eq] at h1 ⊢
        exact ⟨⟨h1.1.1, h1.1.2⟩, rfl⟩
      · rw [slotAgrees_iff]
        intro _; simp
      · simp only [LinkUnit.slotSends, e1, e2] at h3 ⊢
        exact h3
    · exact h
  · exact h

/-- A RELEASE is offered in a phase without an own CLAIM. -/
theorem ClaimTidy.offerRelease {s : State} (h : ClaimTidy s)
    (p : s.claim.phase ≠ .offered ∧ s.claim.phase ≠ .lapsed) (o : ReleaseOutcome) :
    ClaimTidy (offerRelease o s) := by
  unfold Machine.offerRelease
  split
  · split
    · rename_i slot hs
      obtain ⟨h1, h2, h3⟩ := h
      refine ⟨h1, ?_, ?_⟩
      · rw [slotAgrees_iff]
        intro d
        obtain ⟨n1, n2⟩ := slot_free h2 d p
        cases q : s.link.claimSlot <;> rw [q] at hs n1 n2 <;> simp only [ClaimSlot.offerRelease] at hs
        case claimSending => cases n2
        case claimPending c => exact (n1 c rfl).elim
        case releaseSending => cases hs
        all_goals
          obtain rfl := Option.some.inj hs
          simp
      · simp only [LinkUnit.slotSends] at h3 ⊢
        cases q : s.link.claimSlot <;> rw [q] at hs h3 <;> simp only [ClaimSlot.offerRelease] at hs
        case releaseSending => cases hs
        all_goals
          obtain rfl := Option.some.inj hs
          exact h3
    · exact h
  · exact h

theorem ClaimTidy.withdrawOffer {s : State} (h : ClaimTidy s) (b : Bool) {p : ClaimPhase}
    (hp : p = .idle ∨ p = .wanted) (ho : s.claim.phase = .offered) : ClaimTidy (withdrawOffer b p s) := by
  obtain ⟨h1, h2, h3⟩ := h
  have t (x : ClaimUnit) (hl : x.lease = s.claim.lease) (hh : x.holder = s.claim.holder)
      (hs : x.settle = s.claim.settle) (hx : x.phase ≠ .settling ∧ x.phase ≠ .offered) :
      x.timersAgree = true := by
    simp only [ClaimUnit.timersAgree, ho, Bool.and_eq_true, beq_iff_eq] at h1 ⊢
    rw [hl, hh, hs]
    refine ⟨⟨h1.1.1, ?_⟩, ?_⟩
    · rw [h1.1.2]; cases e : x.phase <;> simp_all
    · simp [hx.2]
  rw [slotAgrees_iff] at h2
  unfold Machine.withdrawOffer
  dsimp only
  split
  · rename_i w
    refine ⟨t _ rfl rfl rfl (by simp), ?_, ?_⟩
    · rw [slotAgrees_iff]
      intro d
      obtain ⟨_, _, _, h4⟩ := h2 d
      cases q : s.link.claimSlot with
      | claimSending c r v =>
        cases r with
        | none => simp [ClaimSlot.withdraw]
        | some o => exact (h4 c o v q).elim
      | _ => rw [q] at w; cases w
    · cases q : s.link.claimSlot <;> rw [q] at w <;> simp [ClaimSlot.claimIsSending] at w
      simp only [LinkUnit.slotSends, q] at h3
      simp only [LinkUnit.slotSends, setClaim_link, setLink_link, ClaimSlot.withdraw]
      exact h3
  · rename_i w
    refine ⟨t _ rfl rfl rfl (by rcases hp with rfl | rfl <;> simp), ?_, ?_⟩
    · rw [slotAgrees_iff]
      intro d
      cases q : s.link.claimSlot with
      | claimSending c r v => rw [q] at w; exact (w rfl).elim
      | _ => simp [ClaimSlot.withdraw]
    · cases q : s.link.claimSlot <;> rw [q] at w <;> simp [ClaimSlot.claimIsSending] at w <;>
        (simp only [LinkUnit.slotSends, q] at h3
         simp only [LinkUnit.slotSends, setClaim_link, setLink_link, ClaimSlot.withdraw]
         exact h3)

/-- A new phase without an own CLAIM, with the slot free of one, and with nothing else of the claim that the law reads. -/
theorem ClaimTidy.toPhase {s : State} (h : ClaimTidy s) {x : ClaimUnit} (hl : x.lease = s.claim.lease)
    (hh : x.holder = s.claim.holder) (hs : x.settle = s.claim.settle) (ho : s.claim.phase ≠ .settling)
    (free : s.link.disablePending = false →
      (∀ c, s.link.claimSlot ≠ .claimPending c) ∧ s.link.claimSlot.claimIsSending = false)
    (hx : x.phase ≠ .offered ∧ x.phase ≠ .settling) : ClaimTidy (s.setClaim x) := by
  obtain ⟨h1, h2, h3⟩ := h
  refine ⟨?_, ?_, h3⟩
  · simp only [ClaimUnit.timersAgree, Bool.and_eq_true, beq_iff_eq] at h1
    simp only [ClaimUnit.timersAgree, setClaim_claim, hl, hh, hs, Bool.and_eq_true, beq_iff_eq]
    refine ⟨⟨h1.1.1, ?_⟩, by simp [hx.1]⟩
    rw [h1.1.2]
    have a : (s.claim.phase == .settling) = false := by simpa using ho
    have b : (x.phase == .settling) = false := by simpa using hx.2
    rw [a, b]
  · rw [slotAgrees_iff]
    intro d
    obtain ⟨f1, f2⟩ := free d
    refine ⟨fun c e => (f1 c e).elim, fun c e => ?_, fun c e => ?_, fun c o w e => ?_⟩
    all_goals
      have e' : s.link.claimSlot = _ := e
      rw [e'] at f2
      cases f2

/-- A phase change between phases without an own CLAIM. -/
theorem ClaimTidy.setPhase {s : State} (h : ClaimTidy s) {x : ClaimUnit} (hl : x.lease = s.claim.lease)
    (hh : x.holder = s.claim.holder) (hs : x.settle = s.claim.settle)
    (ho : s.claim.phase ≠ .offered ∧ s.claim.phase ≠ .lapsed ∧ s.claim.phase ≠ .settling)
    (hx : x.phase ≠ .offered ∧ x.phase ≠ .settling) : ClaimTidy (s.setClaim x) :=
  h.toPhase hl hh hs ho.2.2 (fun d => slot_free h.2.1 d ⟨ho.1, ho.2.1⟩) hx

/-- Updates of the claim that touch nothing the law reads. -/
theorem ClaimTidy.setClaim {s : State} (h : ClaimTidy s) {x : ClaimUnit} (hl : x.lease = s.claim.lease)
    (hh : x.holder = s.claim.holder) (hs : x.settle = s.claim.settle) (hp : x.phase = s.claim.phase) :
    ClaimTidy (s.setClaim x) := by
  obtain ⟨h1, h2, h3⟩ := h
  refine ⟨?_, ?_, h3⟩
  · simp only [ClaimUnit.timersAgree, setClaim_claim, hl, hh, hs, hp] at h1 ⊢; exact h1
  · unfold State.slotAgrees at h2 ⊢
    simp only [setClaim_link, setClaim_claim, hp]
    exact h2

theorem ClaimTidy.claimNeed {s : State} (h : ClaimTidy s) (n : Nat) : ClaimTidy (claimNeed n s) := by
  unfold Machine.claimNeed
  dsimp only
  split
  · rename_i p
    apply ClaimTidy.examineOffer
    exact h.setPhase rfl rfl rfl (by simp [p]) (by simp)
  all_goals exact h.setClaim rfl rfl rfl rfl

theorem ClaimTidy.claimWithdrawNeed {s : State} (h : ClaimTidy s) : ClaimTidy (claimWithdrawNeed s) := by
  unfold Machine.claimWithdrawNeed
  split
  · rename_i p
    exact h.setPhase rfl rfl rfl (by simp [p]) (by simp)
  · exact h.withdrawOffer _ (.inl rfl) ‹_›
  · exact h.setClaim rfl rfl rfl rfl
  all_goals exact h

theorem ClaimTidy.claimSeesPeer {s : State} (h : ClaimTidy s) : ClaimTidy (claimSeesPeer s) := by
  unfold Machine.claimSeesPeer
  split
  exacts [h.withdrawOffer _ (.inr rfl) ‹_›, h]

/-- The release is tidy where self is the holder in SETTLING and CRANKING alone. -/
theorem ClaimTidy.claimRelease {s : State} (h : ClaimTidy s) (hold : s.claim.holdsAsItShould = true)
    (o : ReleaseOutcome) : ClaimTidy (claimRelease o s) := by
  unfold Machine.claimRelease
  split
  · rename_i p
    simp only [Bool.or_eq_true, decide_eq_true_eq] at p
    dsimp only
    have q : s.claim.phase ≠ .offered ∧ s.claim.phase ≠ .lapsed := by
      rcases p with p | p <;> rw [p] <;> simp
    generalize hx : ({ s.claim with
      settle := .stopped, clock := .stopped, holder := .none, phase := .idle } : ClaimUnit).recovering s.params = x
    have k : ClaimTidy (s.setClaim x) := by
      obtain ⟨h1, h2, h3⟩ := h
      have l : s.claim.holder = .self := by
        simp only [ClaimUnit.holdsAsItShould, beq_iff_eq] at hold
        rcases p with p | p <;> rw [p] at hold <;> simpa using hold
      refine ⟨?_, ?_, h3⟩
      · simp only [ClaimUnit.timersAgree, l, Bool.and_eq_true, beq_iff_eq] at h1
        subst hx
        simp only [ClaimUnit.timersAgree, setClaim_claim, ClaimUnit.recovering, Bool.and_eq_true, beq_iff_eq]
        exact ⟨⟨h1.1.1, rfl⟩, rfl⟩
      · rw [slotAgrees_iff]
        intro d
        obtain ⟨f1, f2⟩ := slot_free h2 d q
        refine ⟨fun c e => (f1 c e).elim, fun c e => ?_, fun c e => ?_, fun c o w e => ?_⟩
        all_goals
          have e' : s.link.claimSlot = _ := e
          rw [e'] at f2
          cases f2
    refine k.markStatus.offerRelease ?_ o
    rw [markStatus_eq]
    subst hx
    simp [ClaimUnit.recovering]
  · exact h

/-- R116 on the holder, kept by the operations of ClaimOps. -/
def HoldTidy (s : State) : Prop := s.claim.holdsAsItShould = true ∧ ClaimTidy s

@[simp] theorem markStatus_claim (s : State) : (markStatus s).claim = s.claim := by rw [markStatus_eq]; rfl

@[simp] theorem offerRelease_claim (o : ReleaseOutcome) (s : State) : (offerRelease o s).claim = s.claim := by
  unfold offerRelease
  split
  · split <;> rfl
  · rfl

theorem holds_examineOffer {s : State} (h : s.claim.holdsAsItShould = true) :
    (examineOffer s).claim.holdsAsItShould = true := by
  unfold examineOffer
  split
  · rename_i c
    simp only [Bool.and_eq_true, decide_eq_true_eq] at c
    have p := c.1.1
    split
    · unfold ClaimUnit.holdsAsItShould at h ⊢
      rw [p] at h
      exact h
    · exact h
  · exact h

theorem HoldTidy.of_claimAct {s t : State} (a : Act.IsClaim s t) (h : HoldTidy s) : HoldTidy t := by
  obtain ⟨k, d⟩ := h
  rcases a with rfl | ⟨o, rfl⟩ | ⟨n, rfl⟩ | rfl | rfl
  · exact ⟨holds_examineOffer k, d.examineOffer⟩
  · refine ⟨?_, d.claimRelease k o⟩
    unfold claimRelease
    split
    · rw [offerRelease_claim, markStatus_claim]; rfl
    · exact k
  · refine ⟨?_, d.claimNeed n⟩
    unfold claimNeed
    dsimp only
    split
    · rename_i p
      apply holds_examineOffer
      unfold ClaimUnit.holdsAsItShould at k ⊢
      rw [p] at k
      exact k
    all_goals exact k
  · refine ⟨?_, d.claimWithdrawNeed⟩
    unfold ClaimUnit.holdsAsItShould at k
    unfold claimWithdrawNeed withdrawOffer
    cases p : s.claim.phase <;> rw [p] at k <;> dsimp only
    case offered => split <;> exact k
    case wanted => exact k
    all_goals (unfold ClaimUnit.holdsAsItShould; simp only [setClaim_claim, p]; exact k)
  · refine ⟨?_, d.claimSeesPeer⟩
    unfold claimSeesPeer
    split
    · rename_i p
      unfold ClaimUnit.holdsAsItShould at k
      rw [p] at k
      unfold withdrawOffer
      dsimp only
      split <;> exact k
    · exact k

/-- Every cascade keeps the claim record, its timers, the slot and the line together. -/
theorem Acts.holdTidy {s t : State} (h : Acts s t) : HoldTidy s → HoldTidy t := by
  refine h.keeps (P := HoldTidy) ?_
  intro u v a l
  rcases a.claim_or with c | ⟨c, e⟩
  · exact l.of_claimAct c
  · refine ⟨c ▸ l.1, l.2.of_eq c e ?_ ?_⟩
    · have x := congrArg LinkUnit.sending a.untouched.link; exact x
    · have x := congrArg LinkUnit.disablePending a.untouched.link; exact x

end Sys2Proof.Machine
end

