-- ==== Sys2Proof/Laws/Entries.lean ====
section
/-! SUPPORT. Laws/Entries.lean: what the shared operations do to the engine state, the notch, the own claim and the four commands
together (the `key` of a state): most leave it alone; an entry sets it. On it rest the laws of R2, R116 and R127. -/

namespace Sys2Proof.Machine

/-- Engine state, notch, own claim, commands, and the allocation results that the Stepper reads. -/
structure Key where
  state : EngineState
  notch : Nat
  phase : ClaimPhase
  holder : Holder
  needStands : Bool
  commands : CommandSet
  target : Nat
  steps : Nat

/-- The key of a state. -/
def State.key (s : State) : Key where
  state := s.seq.state
  notch := s.stepper.notch
  phase := s.claim.phase
  holder := s.claim.holder
  needStands := s.claim.needStands
  commands := s.standingCommands
  target := s.alloc.results.target
  steps := s.alloc.powerSteps.length

/-! ### What leaves the key alone -/

@[simp] theorem key_setCab (s : State) (x : CabUnit) : (s.setCab x).key = s.key := rfl
@[simp] theorem key_setLink (s : State) (x : LinkUnit) : (s.setLink x).key = s.key := rfl
@[simp] theorem key_setView (s : State) (x : ConsistView) : (s.setView x).key = s.key := rfl
@[simp] theorem key_setPort (s : State) (x : Port) : (s.setPort x).key = s.key := rfl
@[simp] theorem key_setMon (s : State) (x : Monitor) : (s.setMon x).key = s.key := rfl
@[simp] theorem key_setLoad (s : State) (x : Loader) : (s.setLoad x).key = s.key := rfl
@[simp] theorem key_setMailbox (s : State) (x : Option Request) : (s.setMailbox x).key = s.key := rfl
@[simp] theorem key_setPending (s : State) (x : List Instr) : (s.setPending x).key = s.key := rfl
@[simp] theorem key_setConditions (s : State) (l : List Member) : (s.setConditions l).key = s.key := rfl

theorem key_ite {c : Prop} [Decidable c] {s t : State} {k : Key} (hs : s.key = k) (ht : t.key = k) :
    (if c then s else t).key = k := by
  split
  exacts [hs, ht]

@[simp] theorem key_markStatus (s : State) : (markStatus s).key = s.key := by rw [markStatus_eq]; rfl
@[simp] theorem key_markStatusIf (c : Bool) (s : State) : (markStatusIf c s).key = s.key := by
  rw [markStatusIf_eq]; rfl
@[simp] theorem key_passTrigger (s : State) : (passTrigger s).key = s.key := by rw [passTrigger_eq]; rfl
@[simp] theorem key_passTriggerIf (c : Bool) (s : State) : (passTriggerIf c s).key = s.key := by
  rw [passTriggerIf_eq]; rfl

@[simp] theorem key_portGrant (s : State) : (portGrant s).key = s.key := by
  unfold portGrant
  dsimp only
  repeat' apply key_ite
  all_goals rfl

@[simp] theorem key_portMark (k : PortKind) (s : State) : (portMark k s).key = s.key := by simp [portMark]
@[simp] theorem key_portRelease (s : State) : (portRelease s).key = s.key := by simp [portRelease]

@[simp] theorem key_computeDerate (s : State) : (computeDerate s).key = s.key := by
  cases l : s.loaded
  · rw [computeDerate_unloaded s l]
  · rw [computeDerate_eq s l]; rfl

@[simp] theorem key_clearColdRun (s : State) : (clearColdRun s).key = s.key := by simp [clearColdRun]
@[simp] theorem key_clearBatteryNeed (s : State) : (clearBatteryNeed s).key = s.key := by simp [clearBatteryNeed]
@[simp] theorem key_handDerate (code : Nat) (cls : CondClass) (s : State) :
    (handDerate code cls s).key = s.key := key_ite (key_computeDerate s) rfl
@[simp] theorem key_handSensorFault (code : Nat) (s : State) : (handSensorFault code s).key = s.key :=
  key_ite (key_clearColdRun s) (key_ite (key_clearBatteryNeed s) rfl)
@[simp] theorem key_setAlarm (s : State) : (setAlarm s).key = s.key := rfl
@[simp] theorem key_handChange (cls : CondClass) (d : Bool) (s : State) :
    (handChange cls d s).key = s.key := by simp [handChange]
@[simp] theorem key_withMember (s : State) (code : Nat) : (s.withMember code).key = s.key := rfl
@[simp] theorem key_leaveCondition (m : Member) (s : State) : (leaveCondition m s).key = s.key := by
  simp [leaveCondition]
@[simp] theorem key_reportGone (code : Nat) (s : State) : (reportGone code s).key = s.key := by
  unfold reportGone
  split
  exacts [rfl, key_ite rfl (key_leaveCondition _ s)]

@[simp] theorem key_setProving (s : State) (o : ProvedOutput) (p : Proving) :
    (s.setProving o p).key = s.key := by
  cases o <;> rfl
@[simp] theorem key_proveCommand (o : ProvedOutput) (a b : Bool) (s : State) :
    (proveCommand o a b s).key = s.key := by
  unfold proveCommand
  exact key_ite rfl (key_ite (by simp) (by simp))
@[simp] theorem key_deriveSetpoint (s : State) : (deriveSetpoint s).key = s.key := by
  unfold deriveSetpoint
  dsimp only
  refine key_ite rfl ?_
  split
  · rw [key_portMark]; rfl
  · rfl
@[simp] theorem key_maskInput (k : Fin 12) (s : State) : (maskInput k s).key = s.key := by
  unfold maskInput
  exact key_ite (by simp) rfl
theorem key_foldl {α : Type} {f : State → α → State} (hf : ∀ t a, (f t a).key = t.key) (l : List α) (s : State) :
    (l.foldl f s).key = s.key := by
  induction l generalizing s with
  | nil => rfl
  | cons a l ih => exact (ih _).trans (hf s a)
@[simp] theorem key_maskStartMasked (s : State) : (maskStartMasked s).key = s.key :=
  key_foldl (fun t k => key_ite (key_maskInput k t) rfl) _ s
@[simp] theorem key_monitorEntry (st : EngineState) (s : State) : (monitorEntry st s).key = s.key := by
  unfold monitorEntry
  have h : (if st.stalls then s else s.setMon { s.mon with stall := .stopped }).key = s.key := key_ite rfl rfl
  dsimp only
  exact key_ite h (by rw [key_maskStartMasked, key_reportGone, key_setMon]; exact h)
@[simp] theorem key_setStopReason (r : StopReason) (s : State) : (setStopReason r s).key = s.key := rfl
@[simp] theorem key_takeSnapshot (s : State) : (takeSnapshot s).key = s.key := rfl
@[simp] theorem key_startRest (s : State) : (startRest s).key = s.key := rfl
@[simp] theorem key_startMinRun (s : State) : (startMinRun s).key = s.key := rfl
@[simp] theorem key_startGrace (s : State) : (startGrace s).key = s.key := rfl
@[simp] theorem key_offerRelease (o : ReleaseOutcome) (s : State) : (offerRelease o s).key = s.key := by
  unfold offerRelease
  split
  · split <;> rfl
  · rfl
@[simp] theorem key_replaceAllocationReason (s : State) : (replaceAllocationReason s).key = s.key :=
  key_ite (key_ite rfl (key_ite rfl rfl)) rfl
@[simp] theorem key_setRecord (s : State) (r : Option FaultRecord) :
    (s.setRet { s.ret with record := r }).key = s.key := rfl
@[simp] theorem key_setWasRunning (s : State) (b : Bool) :
    (s.setRet { s.ret with wasRunning := b }).key = s.key := rfl

/-- A Sequencer update that keeps the engine state. -/
theorem key_setSeq (s : State) (x : Sequencer) (h : x.state = s.seq.state) : (s.setSeq x).key = s.key := by
  simp [State.key, h, State.standingCommands]

/-! ### The notch, the commands, an entry -/

@[simp] theorem key_commandSet (c : CommandSet) (s : State) :
    (commandSet c s).key = { s.key with commands := c } := by
  simp only [commandSet, key_proveCommand]
  rfl

@[simp] theorem key_setNotch (n : Nat) (s : State) : (setNotch n s).key = { s.key with notch := n } := by
  unfold setNotch
  split
  · rename_i h; subst h; rfl
  · rw [key_markStatus, key_deriveSetpoint]; rfl

@[simp] theorem key_stepNotch (n : Nat) (s : State) : (stepNotch n s).key = { s.key with notch := n } := by
  unfold stepNotch
  rw [key_setNotch]; rfl

/-- R130 on the notch: at most one step, toward the effective target, in ONLINE and UNLOADING alone. -/
theorem key_examineStep (s : State) :
    ∃ n, (examineStep s).key = { s.key with notch := n } ∧ n ≤ max s.key.notch s.key.target
      ∧ (s.key.state.steps = false → n = s.key.notch) := by
  have hn : s.key.notch = s.stepper.notch := rfl
  have ht : s.effectiveTarget ≤ s.key.target := by
    unfold State.effectiveTarget
    split
    exacts [le_rfl, Nat.zero_le _]
  have same : ∃ n, s.key = { s.key with notch := n } ∧ n ≤ max s.key.notch s.key.target
      ∧ (s.key.state.steps = false → n = s.key.notch) := ⟨_, rfl, le_max_left _ _, fun _ => rfl⟩
  unfold examineStep
  split
  · rename_i hs
    have no : s.key.state.steps = false → False := by
      intro e
      have e' : s.seq.state.steps = false := e
      simp [hs] at e'
    split
    · split
      · refine ⟨_, key_stepNotch _ s, ?_, fun e => (no e).elim⟩
        omega
      · exact same
    · split
      · split
        · refine ⟨_, key_stepNotch _ s, ?_, fun e => (no e).elim⟩
          omega
        · exact same
      · exact same
  · exact same

/-- An entry's notch: zero at STOPPING, as it was at the other entries outside ONLINE and UNLOADING, and never above both the notch
and the target (R130, R132). -/
def Key.notchAfter (k : Key) (st : EngineState) (n : Nat) : Prop :=
  n ≤ max k.notch k.target ∧ (st.steps = false → n = if st = .stopping then 0 else k.notch)

theorem key_stepperEntry (st : EngineState) (s : State) (h : s.seq.state = st) :
    ∃ n, (stepperEntry st s).key = { s.key with notch := n } ∧ s.key.notchAfter st n := by
  unfold stepperEntry
  dsimp only
  generalize ht : s.setStepper { s.stepper with dwell := if st.steps = true then Dwell.restarted else Dwell.halted } = t
  have kt : t.key = s.key := by subst ht; rfl
  have hst : s.key.state = st := h
  by_cases e : st = .stopping
  · subst e
    rw [if_pos rfl]
    obtain ⟨n, a, b, c⟩ := key_examineStep (deriveSetpoint (setNotch 0 t))
    rw [key_deriveSetpoint, key_setNotch, kt] at a b c
    refine ⟨n, a, ?_, fun _ => ?_⟩
    · dsimp only at b; omega
    · dsimp only at c
      rw [if_pos rfl]
      exact c (by rw [hst]; rfl)
  · rw [if_neg e]
    obtain ⟨n, a, b, c⟩ := key_examineStep (deriveSetpoint t)
    rw [key_deriveSetpoint, kt] at a b c
    refine ⟨n, a, b, fun f => ?_⟩
    rw [if_neg e]
    exact c (by rw [hst]; exact f)

/-- What an entry does to the key (R1, R2, R132): the state, its commands, the notch; the own claim stays. -/
theorem key_entryBase (st : EngineState) (s : State) :
    ∃ n, (entryBase st s).key
        = { s.key with state := st, notch := n, commands := st.commands s.key.commands.fuel }
      ∧ s.key.notchAfter st n := by
  unfold entryBase
  dsimp only
  generalize hd : (if st.rankClass = some 0 then
      passTrigger (markStatus (s.setSeq { s.seq with state := st, stateTimer := 0, fireConfirm := .stopped }))
    else _) = d
  have kd : d.key = { s.key with state := st } := by
    subst hd
    refine key_ite ?_ ?_
    · rw [key_passTrigger, key_markStatus]; rfl
    · have a : ∀ u : State, (u.setAlloc { u.alloc with stopDelay := .stopped }).key = u.key := fun _ => rfl
      rw [a, key_passTrigger, key_markStatus]; rfl
  obtain ⟨n, a, b⟩ := key_stepperEntry st d (by have := congrArg Key.state kd; exact this)
  refine ⟨n, ?_, ?_⟩
  · rw [key_monitorEntry, key_commandSet, a, kd]
    have f : (stepperEntry st d).ret.fuelLatch = s.key.commands.fuel := by
      have x := congrArg (fun k : Key => k.commands.fuel) a
      have y := congrArg (fun k : Key => k.commands.fuel) kd
      exact x.trans y
    rw [f]
  · unfold Key.notchAfter at b ⊢
    rw [kd] at b
    exact b

end Sys2Proof.Machine
end

