-- ==== Sys2Proof/Laws/EngineLaw.lean ====
section
/-! SUPPORT. Laws/EngineLaw.lean: the laws of the outputs (R2), the notch (R127) and the own claim (R116) as one law of a state's
key, and what each entry and each shared operation of the Sequencer needs for it to hold afterwards. -/

namespace Sys2Proof.Machine

/-- The states without an own claim. -/
def EngineState.claimless : EngineState → Bool
  | .claimWait | .claimSettle | .cranking => false
  | _ => true

/-- The own claim agrees with the engine state (R116). -/
def Key.agrees (k : Key) : Prop :=
  match k.phase with
  | .settling => k.state = .claimSettle
  | .cranking => k.state = .cranking
  | .wanted | .offered => k.state = .claimWait
  | .idle => k.state.claimless = true
  | .lapsed => if k.needStands then k.state = .claimWait else k.state.claimless = true

/-- Self is the holder exactly in SETTLING and CRANKING (R116). -/
def Key.holds (k : Key) : Prop := k.holder = .self ↔ (k.phase = .settling ∨ k.phase = .cranking)

/-- Notch, target and power steps within their ranges (R85, R102, R127). -/
def Key.bounded (k : Key) : Prop := k.notch ≤ 8 ∧ k.target ≤ 8 ∧ k.steps = 8

/-- The three laws on a key. -/
structure Key.Good (k : Key) : Prop where
  commands : k.commands = k.state.commands k.commands.fuel
  bounded : k.bounded
  zero : k.state.steps = false → k.notch = 0
  agrees : k.agrees
  holds : k.holds

theorem agrees_iff (s : State) : s.claim.agrees s.seq.state = true ↔ s.key.agrees := by
  unfold ClaimUnit.agrees Key.agrees State.key
  cases s.claim.phase <;> cases s.claim.needStands <;> cases s.seq.state <;> dsimp only <;> first | decide | simp [EngineState.claimless]

theorem holds_iff (s : State) : s.claim.holdsAsItShould = true ↔ s.key.holds := by
  unfold ClaimUnit.holdsAsItShould Key.holds State.key
  cases s.claim.phase <;> cases s.claim.holder <;> simp <;> rfl

/-- R2, R116, R127 together. -/
theorem engineLaws_iff (s : State) :
    (OutputLaw s ∧ NotchLaw s ∧ ClaimLaw s) ↔ (s.key.Good ∧ ClaimTidy s) := by
  unfold ClaimLaw
  rw [agrees_iff, holds_iff]
  constructor
  · rintro ⟨o, ⟨n1, n2, n3, n4⟩, c1, c2, c3⟩
    exact ⟨⟨o, ⟨n1, n3, n4⟩, n2, c1, c2⟩, c3⟩
  · rintro ⟨⟨o, ⟨n1, n3, n4⟩, n2, c1, c2⟩, c3⟩
    exact ⟨o, ⟨n1, n2, n3, n4⟩, c1, c2, c3⟩

theorem Key.Good.holdTidy {s : State} (g : s.key.Good) (t : ClaimTidy s) : HoldTidy s :=
  ⟨(holds_iff s).mpr g.holds, t⟩

/-- No claim and no need for one: what the entries outside CLAIM_WAIT, CLAIM_SETTLE and CRANKING find. -/
structure Key.Free (k : Key) : Prop where
  phase : k.phase = .idle ∨ (k.phase = .lapsed ∧ k.needStands = false)
  holder : k.holder ≠ .self

/-- In a state without an own claim there is none. -/
theorem Key.Good.free {k : Key} (g : k.Good) (h : k.state.claimless = true) : k.Free := by
  have a := g.agrees
  have b := g.holds
  unfold Key.agrees at a
  unfold Key.holds at b
  cases hp : k.phase <;> rw [hp] at a b <;> dsimp only at a
  case idle => exact ⟨.inl hp, fun e => by simp [e] at b⟩
  case lapsed =>
    refine ⟨.inr ⟨hp, ?_⟩, fun e => by simp [e] at b⟩
    by_contra n
    rw [if_pos (by simpa using n)] at a
    rw [a] at h
    cases h
  all_goals (rw [a] at h; cases h)

/-! ### An entry -/

/-- The key is fit for an entry to a state, the claim apart. -/
def Key.fits (k : Key) (st : EngineState) : Prop :=
  k.bounded ∧ (st.steps = true ∨ st = .stopping ∨ k.notch = 0)

theorem commands_idem (st : EngineState) (b : Bool) :
    st.commands b = st.commands (st.commands b).fuel := by cases st <;> rfl

/-- After an entry: the state, a fit notch, its commands, the claim as it was. -/
theorem entryBase_key {st : EngineState} {s : State} (f : s.key.fits st) :
    (entryBase st s).key.state = st ∧ (entryBase st s).key.bounded
      ∧ (st.steps = false → (entryBase st s).key.notch = 0)
      ∧ (entryBase st s).key.commands = st.commands (entryBase st s).key.commands.fuel
      ∧ (entryBase st s).key.phase = s.key.phase ∧ (entryBase st s).key.holder = s.key.holder
      ∧ (entryBase st s).key.needStands = s.key.needStands := by
  obtain ⟨n, e, m, z⟩ := key_entryBase st s
  obtain ⟨⟨b1, b2, b3⟩, f⟩ := f
  rw [e]
  refine ⟨rfl, ⟨?_, b2, b3⟩, fun h => ?_, commands_idem _ _, rfl, rfl, rfl⟩
  · dsimp only; omega
  · dsimp only
    rw [z h]
    split
    · rfl
    · rcases f with f | f | f
      · rw [h] at f; cases f
      · exact absurd f ‹_›
      · exact f

theorem entryBase_good {st : EngineState} {s : State} (f : s.key.fits st) (c : s.key.Free)
    (h : st.claimless = true) : (entryBase st s).key.Good ∧ (entryBase st s).key.state = st := by
  obtain ⟨e1, e2, e3, e4, e5, e6, e7⟩ := entryBase_key f
  have ch := c.holder
  refine ⟨⟨?_, e2, ?_, ?_, ?_⟩, e1⟩
  · rw [e1]; exact e4
  · rw [e1]; exact e3
  · unfold Key.agrees
    rw [e1, e5, e7]
    rcases c.phase with p | ⟨p, q⟩
    · rw [p]; exact h
    · rw [p, q]; exact h
  · unfold Key.holds
    rw [e5, e6]
    rcases c.phase with p | ⟨p, _⟩ <;> rw [p] <;> simp [ch]

/-! ### The entries of the stop path -/

theorem enterStopped_good {s : State} (f : s.key.bounded) (z : s.key.notch = 0) (c : s.key.Free) :
    (enterStopped s).key.Good := by
  unfold enterStopped
  have k : (s.setSeq { s.seq with attempts := 0, stopReason := .none }).key = s.key := key_setSeq s _ rfl
  split
  · exact (entryBase_good (k ▸ ⟨f, .inr (.inr z)⟩) (k ▸ c) rfl).1
  · exact (entryBase_good (k ▸ ⟨f, .inr (.inr z)⟩) (k ▸ c) rfl).1

theorem enterFaulted_good {s : State} (f : s.key.bounded) (z : s.key.notch = 0) (c : s.key.Free) :
    (enterFaulted s).key.Good := by
  unfold enterFaulted
  dsimp only
  rw [key_setRecord]
  exact (entryBase_good (s := setStopReason .none s) ⟨f, .inr (.inr z)⟩ c rfl).1

theorem stoppingExit_good {s : State} (g : s.key.Good) (h : s.key.state = .stopping) :
    (stoppingExit s).key.Good := by
  have z := g.zero (by rw [h]; rfl)
  have c := g.free (by rw [h]; rfl)
  unfold stoppingExit
  split
  · split
    exacts [enterFaulted_good g.bounded z c, enterStopped_good g.bounded z c]
  · exact g

theorem enterStopping_good {s : State} (f : s.key.bounded) (c : s.key.Free) :
    (enterStopping s).key.Good := by
  unfold enterStopping
  dsimp only
  generalize hx : (takeSnapshot s).setSeq { (takeSnapshot s).seq with resumed := false } = x
  have k : x.key = s.key := by subst hx; rfl
  obtain ⟨a, b⟩ := entryBase_good (st := .stopping) (s := x) (by rw [k]; exact ⟨f, .inr (.inl rfl)⟩)
    (by rw [k]; exact c) rfl
  generalize entryBase .stopping x = y at a b ⊢
  exact stoppingExit_good (s := y.setRet { y.ret with wasRunning := false }) a b

/-! ### The claim given up -/

theorem claimWithdrawNeed_key (s : State) :
    ∃ p n, (claimWithdrawNeed s).key = { s.key with phase := p, needStands := n }
      ∧ ((s.key.phase = .wanted ∨ s.key.phase = .offered ∨ s.key.phase = .lapsed) →
          p = .idle ∨ (p = .lapsed ∧ n = false)) := by
  have hp : s.key.phase = s.claim.phase := rfl
  rw [hp]
  unfold claimWithdrawNeed
  cases h : s.claim.phase
  · exact ⟨s.claim.phase, s.claim.needStands, by rfl, by simp⟩
  · exact ⟨.idle, s.claim.needStands, by rfl, by simp⟩
  · simp only [withdrawOffer]
    split
    · exact ⟨.lapsed, false, by rfl, by simp⟩
    · exact ⟨.idle, s.claim.needStands, by rfl, by simp⟩
  · exact ⟨.lapsed, false, by simp only [State.key, h]; rfl, by simp⟩
  · exact ⟨s.claim.phase, s.claim.needStands, by rfl, by simp⟩
  · exact ⟨s.claim.phase, s.claim.needStands, by rfl, by simp⟩

theorem claimRelease_key (o : ReleaseOutcome) (s : State)
    (h : s.key.phase = .settling ∨ s.key.phase = .cranking) :
    (claimRelease o s).key = { s.key with phase := .idle, holder := .none } := by
  have hp : s.claim.phase = .settling ∨ s.claim.phase = .cranking := h
  unfold claimRelease
  rw [if_pos (by rcases hp with e | e <;> simp [e])]
  dsimp only
  rw [key_offerRelease, key_markStatus]
  rfl

/-- When the Sequencer gives the claim up, none is left, and the rest of the key stays. -/
theorem dropClaim_key {s : State} (g : s.key.Good) :
    (dropClaim s).key.Free ∧ (dropClaim s).key.bounded ∧ (dropClaim s).key.notch = s.key.notch
      ∧ (dropClaim s).key.state = s.key.state := by
  have a := g.agrees
  have hs : s.seq.state = s.key.state := rfl
  have other : s.key.state.claimless = true →
      s.key.Free ∧ s.key.bounded ∧ s.key.notch = s.key.notch ∧ s.key.state = s.key.state :=
    fun h => ⟨g.free h, g.bounded, rfl, rfl⟩
  have release (o : ReleaseOutcome) (p : s.key.phase = .settling ∨ s.key.phase = .cranking) :
      (claimRelease o s).key.Free ∧ (claimRelease o s).key.bounded
        ∧ (claimRelease o s).key.notch = s.key.notch ∧ (claimRelease o s).key.state = s.key.state := by
    rw [claimRelease_key o s p]
    exact ⟨⟨.inl rfl, by simp⟩, g.bounded, rfl, rfl⟩
  unfold Key.agrees at a
  unfold dropClaim
  cases h : s.seq.state <;> rw [hs] at h <;> rw [h] at a
  case claimWait =>
    have p : s.key.phase = .wanted ∨ s.key.phase = .offered ∨ s.key.phase = .lapsed := by
      cases hp : s.key.phase <;> rw [hp] at a <;> simp_all [EngineState.claimless]
    have nh : s.key.holder ≠ .self := fun e => by
      have b := g.holds
      unfold Key.holds at b
      rcases p with p | p | p <;> rw [p] at b <;> simp [e] at b
    obtain ⟨q, n, e, w⟩ := claimWithdrawNeed_key s
    dsimp only
    rw [e]
    exact ⟨⟨w p, nh⟩, g.bounded, rfl, rfl⟩
  case claimSettle =>
    refine release .abandoned (.inl ?_)
    cases hp : s.key.phase <;> rw [hp] at a <;> simp_all [EngineState.claimless]
  case cranking =>
    refine release .abandoned (.inr ?_)
    cases hp : s.key.phase <;> rw [hp] at a <;> simp_all [EngineState.claimless]
  all_goals exact other (by rw [h]; rfl)

theorem goStopping_good {s : State} (g : s.key.Good) : (goStopping s).key.Good := by
  obtain ⟨c, b, _, _⟩ := dropClaim_key g
  exact enterStopping_good b c

theorem cancelStart_good {s : State} (g : s.key.Good) (h : s.key.state.steps = false) :
    (cancelStart s).key.Good := by
  obtain ⟨c, b, n, _⟩ := dropClaim_key g
  exact enterStopped_good b (n.trans (g.zero h)) c

/-! ### The entries of a running engine -/

theorem enterCooldown_good {s : State} (f : s.key.bounded) (z : s.key.notch = 0) (c : s.key.Free) :
    (enterCooldown s).key.Good := by
  obtain ⟨g, h⟩ := entryBase_good (st := .cooldown) ⟨f, .inr (.inr z)⟩ c rfl
  have c' := g.free (by rw [h]; rfl)
  unfold enterCooldown
  dsimp only
  split
  · exact goStopping_good g
  · split
    · exact enterStopping_good (by rw [key_replaceAllocationReason]; exact g.bounded)
        (by rw [key_replaceAllocationReason]; exact c')
    · rw [key_replaceAllocationReason]; exact g

theorem enterUnloading_good {s : State} (f : s.key.bounded) (c : s.key.Free) :
    (enterUnloading s).key.Good := by
  obtain ⟨g, h⟩ := entryBase_good (st := .unloading) ⟨f, .inl rfl⟩ c rfl
  have c' := g.free (by rw [h]; rfl)
  unfold enterUnloading
  dsimp only
  split
  · exact goStopping_good g
  · have k := key_replaceAllocationReason (entryBase .unloading s)
    split
    · rename_i z
      exact enterCooldown_good (k.symm ▸ g.bounded) z (k.symm ▸ c')
    · rw [k]; exact g

theorem examineAllocationStop_good {s : State} (g : s.key.Good) : (examineAllocationStop s).key.Good := by
  unfold examineAllocationStop
  split
  · rename_i h
    simp only [Bool.and_eq_true, decide_eq_true_eq] at h
    have e : s.key.state = .online := h.1
    exact enterUnloading_good (s := setStopReason _ s) g.bounded (g.free (by rw [e]; rfl))
  · exact g

theorem enterOnline_good {s : State} (f : s.key.bounded) (c : s.key.Free) :
    (enterOnline s).key.Good := by
  obtain ⟨g, h⟩ := entryBase_good (st := .online) ⟨f, .inl rfl⟩ c rfl
  have c' := g.free (by rw [h]; rfl)
  unfold enterOnline
  dsimp only
  split
  · exact goStopping_good g
  · split
    · exact enterUnloading_good (s := setStopReason _ _) g.bounded c'
    · split
      · exact enterUnloading_good (s := setStopReason _ _) g.bounded c'
      · exact examineAllocationStop_good g

theorem examineWarm_good {s : State} (g : s.key.Good) : (examineWarm s).key.Good := by
  unfold examineWarm
  split
  · rename_i h
    simp only [Bool.and_eq_true, decide_eq_true_eq] at h
    have e : s.key.state = .warmup := h.1.1
    exact enterOnline_good g.bounded (g.free (by rw [e]; rfl))
  · exact g

theorem coolOrElse_good {s : State} {f : State → State} (g : s.key.Good) (z : s.key.notch = 0)
    (c : s.key.Free) (hf : (f s).key.Good) : (coolOrElse f s).key.Good := by
  unfold coolOrElse
  split
  · exact enterCooldown_good (s := setStopReason _ s) g.bounded z c
  · split
    exacts [enterCooldown_good (s := setStopReason _ s) g.bounded z c, hf]

theorem enterWarmup_good {s : State} (f : s.key.bounded) (z : s.key.notch = 0) (c : s.key.Free) :
    (enterWarmup s).key.Good := by
  obtain ⟨g, h⟩ := entryBase_good (st := .warmup) ⟨f, .inr (.inr z)⟩ c rfl
  unfold enterWarmup
  dsimp only
  split
  · exact goStopping_good g
  · exact coolOrElse_good g (g.zero (by rw [h]; rfl)) (g.free (by rw [h]; rfl)) (examineWarm_good g)

theorem enterRunup_good {s : State} (f : s.key.bounded) (z : s.key.notch = 0) (c : s.key.Free) :
    (enterRunup s).key.Good := by
  obtain ⟨g, h⟩ := entryBase_good (st := .runup) (s := s.setRet { s.ret with wasRunning := true })
    ⟨f, .inr (.inr z)⟩ c rfl
  unfold enterRunup
  dsimp only
  split
  · exact goStopping_good g
  · exact coolOrElse_good g (g.zero (by rw [h]; rfl)) (g.free (by rw [h]; rfl)) g

/-! ### The entries of a start -/

/-- An entry to a state of a start whose claim is as the state asks. -/
theorem startEntry_good {st : EngineState} {s : State} (f : s.key.bounded) (z : s.key.notch = 0)
    (a : Key.agrees { s.key with state := st }) (h : s.key.holds) :
    (entryBase st s).key.Good ∧ (entryBase st s).key.state = st := by
  obtain ⟨e1, e2, e3, e4, e5, e6, e7⟩ := entryBase_key (st := st) (s := s) ⟨f, .inr (.inr z)⟩
  refine ⟨⟨?_, e2, ?_, ?_, ?_⟩, e1⟩
  · rw [e1]; exact e4
  · rw [e1]; exact e3
  · unfold Key.agrees at a ⊢
    rw [e1, e5, e7]; exact a
  · unfold Key.holds at h ⊢
    rw [e5, e6]; exact h

theorem enterCranking_good {s : State} (f : s.key.bounded) (z : s.key.notch = 0)
    (p : s.key.phase = .cranking) (h : s.key.holder = .self) : (enterCranking s).key.Good := by
  obtain ⟨g, _⟩ := startEntry_good (st := .cranking) f z (by simp [Key.agrees, p]) (by simp [Key.holds, p, h])
  unfold enterCranking
  dsimp only
  split
  exacts [goStopping_good g, g]

/-- A start's entry after the standing causes: stopped, cancelled or standing. -/
theorem startCauses_good {t : State} (g : t.key.Good) (h : t.key.state.steps = false) :
    (if t.hardCause = true then goStopping t else if t.cancelCause = true then cancelStart t else t).key.Good := by
  split
  · exact goStopping_good g
  · split
    exacts [cancelStart_good g h, g]

theorem enterClaimSettle_good {s : State} (f : s.key.bounded) (z : s.key.notch = 0)
    (p : s.key.phase = .settling) (h : s.key.holder = .self) : (enterClaimSettle s).key.Good := by
  obtain ⟨g, e⟩ := startEntry_good (st := .claimSettle) f z (by simp [Key.agrees, p]) (by simp [Key.holds, p, h])
  have r := startCauses_good g (by rw [e]; rfl)
  exact r

theorem enterPrelube_good {s : State} (f : s.key.bounded) (z : s.key.notch = 0) (c : s.key.Free) :
    (enterPrelube s).key.Good := by
  obtain ⟨g, e⟩ := entryBase_good (st := .prelube) ⟨f, .inr (.inr z)⟩ c rfl
  have r := startCauses_good g (by rw [e]; rfl)
  exact r

theorem examineOffer_key (s : State) :
    (examineOffer s).key = s.key
      ∨ (s.key.phase = .wanted ∧ (examineOffer s).key = { s.key with phase := .offered }) := by
  unfold examineOffer
  split
  · rename_i h
    simp only [Bool.and_eq_true, decide_eq_true_eq] at h
    split
    · exact .inr ⟨h.1.1, rfl⟩
    · exact .inl rfl
  · exact .inl rfl

/-- An offer keeps the law: WANTED and OFFERED are both in CLAIM_WAIT, and self holds in neither. -/
theorem examineOffer_good {s : State} (g : s.key.Good) : (examineOffer s).key.Good := by
  rcases examineOffer_key s with e | ⟨p, e⟩
  · rw [e]; exact g
  · rw [e]
    refine ⟨g.commands, g.bounded, g.zero, ?_, ?_⟩
    · have a := g.agrees
      unfold Key.agrees at a ⊢
      rw [p] at a
      exact a
    · have a := g.holds
      unfold Key.holds at a ⊢
      rw [p] at a
      simpa using a

theorem enterClaimWait_good {s : State} (f : s.key.bounded) (z : s.key.notch = 0) (c : s.key.Free) :
    (enterClaimWait s).key.Good := by
  obtain ⟨e1, e2, e3, e4, e5, e6, e7⟩ :=
    entryBase_key (st := .claimWait) (s := s) ⟨f, .inr (.inr z)⟩
  unfold enterClaimWait
  dsimp only
  generalize entryBase .claimWait s = t at *
  have cp := c.phase
  have ch := c.holder
  rw [← e5, ← e7] at cp
  rw [← e6] at ch
  have g : (claimNeed (t.seq.attempts + 1) t).key.Good
      ∧ (claimNeed (t.seq.attempts + 1) t).key.state = .claimWait := by
    have wanted : ∀ u : State, u.key = { t.key with phase := .wanted } → u.key.Good := by
      intro u hu
      rw [hu]
      refine ⟨by rw [e1]; exact e4, e2, fun _ => e3 rfl, ?_, ?_⟩
      · simp [Key.agrees, e1]
      · simp [Key.holds, ch]
    unfold claimNeed
    rcases cp with p | ⟨p, q⟩
    · have p' : t.claim.phase = .idle := p
      rw [p']
      dsimp only
      generalize hu : t.setClaim { t.claim with attempt := t.seq.attempts + 1, phase := .wanted } = u
      have ku : u.key = { t.key with phase := .wanted } := by subst hu; rfl
      refine ⟨examineOffer_good (wanted u ku), ?_⟩
      rcases examineOffer_key u with e | ⟨_, e⟩ <;> rw [e, ku] <;> exact e1
    · have p' : t.claim.phase = .lapsed := p
      rw [p']
      dsimp only
      refine ⟨⟨?_, e2, fun _ => e3 rfl, ?_, ?_⟩, e1⟩
      · show t.key.commands = t.key.state.commands t.key.commands.fuel
        rw [e1]; exact e4
      · have k : (t.setClaim { t.claim with attempt := t.seq.attempts + 1, needStands := true }).key
            = { t.key with needStands := true } := rfl
        rw [k]; simp [Key.agrees, p, e1]
      · have k : (t.setClaim { t.claim with attempt := t.seq.attempts + 1, needStands := true }).key
            = { t.key with needStands := true } := rfl
        rw [k]; simp [Key.holds, p, ch]
  exact startCauses_good g.1 (by rw [g.2]; rfl)

/-! ### Raising, and the attempt's end -/

theorem joinCondition_good {code : Nat} {react : State → State} {s : State}
    (h : ∀ u, u.key = s.key → (react u).key.Good) : (joinCondition code react s).key.Good := by
  unfold joinCondition
  dsimp only
  rw [key_handChange, key_handSensorFault]
  exact h _ (by rw [key_handDerate, key_withMember])

theorem raiseBySequencer_good {code : Nat} {f : State → State} {s : State}
    (h : ∀ u, u.key = s.key → (f u).key.Good) : (raiseBySequencer code f s).key.Good := by
  unfold raiseBySequencer
  split
  exacts [h _ rfl, joinCondition_good h]

theorem raiseMomentary_good {code : Nat} {f : State → State} {s : State}
    (h : ∀ u, u.key = s.key → (f u).key.Good) : (raiseMomentary code f s).key.Good := by
  unfold raiseMomentary
  rw [key_reportGone]
  exact raiseBySequencer_good h

theorem failedAttempt_good {s : State} (g : s.key.Good) (h : s.key.state = .cranking) :
    (failedAttempt s).key.Good := by
  have p : s.key.phase = .settling ∨ s.key.phase = .cranking := by
    have a := g.agrees
    unfold Key.agrees at a
    rw [h] at a
    refine .inr ?_
    cases hp : s.key.phase <;> rw [hp] at a <;> simp_all [EngineState.claimless]
  have z : s.key.notch = 0 := g.zero (by rw [h]; rfl)
  unfold failedAttempt
  dsimp only
  generalize hr : claimRelease .failed (s.setSeq { s.seq with attempts := s.seq.attempts + 1 }) = r
  have kr : r.key = { s.key with phase := .idle, holder := .none } := by
    subst hr
    have e : (s.setSeq { s.seq with attempts := s.seq.attempts + 1 }).key = s.key := key_setSeq s _ rfl
    rw [claimRelease_key _ _ (by rw [e]; exact p), e]
  have b : r.key.bounded := by rw [kr]; exact g.bounded
  have z' : r.key.notch = 0 := by rw [kr]; exact z
  have c : r.key.Free := by rw [kr]; exact ⟨.inl rfl, by simp⟩
  split
  · exact enterClaimWait_good (s := startRest r) b z' c
  · exact raiseMomentary_good fun u hu => enterStopping_good (hu ▸ b) (hu ▸ c)

/-! ### Causes that appear, events of other blocks -/

theorem hardAppears_good {s : State} (g : s.key.Good) : (hardAppears s).key.Good := by
  unfold hardAppears
  split
  exacts [goStopping_good g, g]

theorem isolateAppears_good {s : State} (g : s.key.Good) : (isolateAppears s).key.Good := by
  have hs : s.key.state = s.seq.state := rfl
  unfold isolateAppears
  cases h : s.seq.state <;> rw [h] at hs <;> dsimp only
  case stopped => exact enterStopped_good g.bounded (g.zero (by rw [hs]; rfl)) (g.free (by rw [hs]; rfl))
  case prelube => exact cancelStart_good g (by rw [hs]; rfl)
  case claimWait => exact cancelStart_good g (by rw [hs]; rfl)
  case claimSettle => exact cancelStart_good g (by rw [hs]; rfl)
  case cranking => exact goStopping_good g
  case runup =>
    exact enterCooldown_good (s := setStopReason _ s) g.bounded (g.zero (by rw [hs]; rfl))
      (g.free (by rw [hs]; rfl))
  case warmup =>
    exact enterCooldown_good (s := setStopReason _ s) g.bounded (g.zero (by rw [hs]; rfl))
      (g.free (by rw [hs]; rfl))
  case online => exact enterUnloading_good (s := setStopReason _ s) g.bounded (g.free (by rw [hs]; rfl))
  all_goals exact g

theorem isolateEnds_good {s : State} (g : s.key.Good) : (isolateEnds s).key.Good := by
  unfold isolateEnds
  split
  · rename_i h
    have hs : s.key.state = .isolated := h
    exact enterStopped_good g.bounded (g.zero (by rw [hs]; rfl)) (g.free (by rw [hs]; rfl))
  · exact g

theorem stopAppears_good {s : State} (g : s.key.Good) : (stopAppears s).key.Good := by
  have hs : s.key.state = s.seq.state := rfl
  unfold stopAppears
  cases h : s.seq.state <;> rw [h] at hs <;> dsimp only
  case prelube => exact cancelStart_good g (by rw [hs]; rfl)
  case claimWait => exact cancelStart_good g (by rw [hs]; rfl)
  case claimSettle => exact cancelStart_good g (by rw [hs]; rfl)
  case runup =>
    exact enterCooldown_good (s := setStopReason _ s) g.bounded (g.zero (by rw [hs]; rfl))
      (g.free (by rw [hs]; rfl))
  case warmup =>
    exact enterCooldown_good (s := setStopReason _ s) g.bounded (g.zero (by rw [hs]; rfl))
      (g.free (by rw [hs]; rfl))
  case online => exact enterUnloading_good (s := setStopReason _ s) g.bounded (g.free (by rw [hs]; rfl))
  all_goals exact g

theorem inhibitAppears_good {s : State} (g : s.key.Good) : (inhibitAppears s).key.Good := by
  have hs : s.key.state = s.seq.state := rfl
  unfold inhibitAppears
  cases h : s.seq.state <;> rw [h] at hs <;> dsimp only
  case prelube => exact cancelStart_good g (by rw [hs]; rfl)
  case claimWait => exact cancelStart_good g (by rw [hs]; rfl)
  case claimSettle => exact cancelStart_good g (by rw [hs]; rfl)
  all_goals exact g

theorem aloneAppears_good {s : State} (g : s.key.Good) : (aloneAppears s).key.Good := by
  have hs : s.key.state = s.seq.state := rfl
  unfold aloneAppears
  cases h : s.seq.state <;> rw [h] at hs <;> dsimp only
  case prelube => exact cancelStart_good g (by rw [hs]; rfl)
  case claimWait => exact cancelStart_good g (by rw [hs]; rfl)
  all_goals exact g

theorem crankOpenAppears_good {s : State} (g : s.key.Good) : (crankOpenAppears s).key.Good := by
  unfold crankOpenAppears
  split
  exacts [failedAttempt_good g ‹_›, g]

theorem joiningAppears_good (code : Nat) (cls : CondClass) {s : State} (g : s.key.Good) :
    (joiningAppears code cls s).key.Good := by
  have c : (if code = codeCrankOpen then crankOpenAppears s else s).key.Good := by
    split
    exacts [crankOpenAppears_good g, g]
  cases cls
  exacts [c, c, c, inhibitAppears_good g, stopAppears_good g, hardAppears_good g]

theorem reportPresent_good (code : Nat) {s : State} (g : s.key.Good) : (reportPresent code s).key.Good := by
  unfold reportPresent reportPresentWith
  split
  exacts [g, joinCondition_good fun u hu => joiningAppears_good code _ (hu ▸ g)]

theorem reportCause_good (code : Nat) (b : Bool) {s : State} (g : s.key.Good) :
    (reportCause code b s).key.Good := by
  unfold reportCause
  split
  · exact reportPresent_good code g
  · rw [key_reportGone]; exact g

theorem sequencerPassEnd_good {s : State} (g : s.key.Good) : (sequencerPassEnd s).key.Good := by
  have hs : s.key.state = s.seq.state := rfl
  unfold sequencerPassEnd
  cases h : s.seq.state <;> rw [h] at hs <;> dsimp only
  case stopped =>
    have z := g.zero (by rw [hs]; rfl)
    have c := g.free (by rw [hs]; rfl)
    split
    · split
      exacts [enterClaimWait_good g.bounded z c, enterPrelube_good g.bounded z c]
    · exact g
  case prelube => split; exacts [g, cancelStart_good g (by rw [hs]; rfl)]
  case claimWait => split; exacts [g, cancelStart_good g (by rw [hs]; rfl)]
  case claimSettle => split; exacts [g, cancelStart_good g (by rw [hs]; rfl)]
  case online => exact examineAllocationStop_good g
  case unloading =>
    split
    exacts [enterOnline_good (s := setStopReason _ s) g.bounded (g.free (by rw [hs]; rfl)), g]
  case cooldown =>
    split
    exacts [enterOnline_good (s := setStopReason _ s) g.bounded (g.free (by rw [hs]; rfl)), g]
  all_goals exact g

theorem initExit_good {s : State} (g : s.key.Good) (h : s.key.state = .init) : (initExit s).key.Good := by
  have z := g.zero (by rw [h]; rfl)
  have c := g.free (by rw [h]; rfl)
  have b := g.bounded
  unfold initExit
  split
  · split
    exacts [enterStopping_good b c, enterFaulted_good (s := takeSnapshot s) b z c]
  · split
    · split
      · have k : (startGrace (startMinRun (s.setSeq { s.seq with resumed := true }))).key = s.key := by
          rw [key_startGrace, key_startMinRun]; exact key_setSeq s _ rfl
        dsimp only
        refine enterOnline_good ?_ ?_
        · rw [key_setWasRunning, k]; exact b
        · rw [key_setWasRunning, k]; exact c
      · exact enterStopping_good b c
    · exact enterStopped_good b z c

theorem examineInit_good {s : State} (g : s.key.Good) : (examineInit s).key.Good := by
  unfold examineInit
  split
  · rename_i h
    simp only [Bool.and_eq_true, decide_eq_true_eq] at h
    exact initExit_good g h.1.1
  · exact g

theorem fire_good {s : State} (g : s.key.Good) (h : s.key.state = .cranking) : (fire s).key.Good := by
  have p : s.key.phase = .settling ∨ s.key.phase = .cranking := by
    have a := g.agrees
    unfold Key.agrees at a
    rw [h] at a
    refine .inr ?_
    cases hp : s.key.phase <;> rw [hp] at a <;> simp_all [EngineState.claimless]
  unfold fire
  dsimp only
  have k := claimRelease_key .fired s p
  generalize claimRelease .fired s = r at k ⊢
  have e : (startGrace (startMinRun (r.setSeq { r.seq with attempts := 0 }))).key = r.key := by
    rw [key_startGrace, key_startMinRun]; exact key_setSeq r _ rfl
  refine enterRunup_good ?_ ?_ ?_
  · rw [e, k]; exact g.bounded
  · rw [e, k]; exact g.zero (by rw [h]; rfl)
  · rw [e, k]; exact ⟨.inl rfl, by simp⟩

theorem sequencerSpeed_good {s : State} (g : s.key.Good) : (sequencerSpeed s).key.Good := by
  have hs : s.key.state = s.seq.state := rfl
  have q (x : Sequencer) (h : x.state = s.seq.state) : (s.setSeq x).key.Good := by
    rw [key_setSeq s x h]; exact g
  unfold sequencerSpeed
  cases h : s.seq.state <;> rw [h] at hs <;> dsimp only
  case init => exact examineInit_good g
  case cranking =>
    split
    · split
      exacts [q _ rfl, g]
    · exact q _ rfl
  case runup =>
    split
    exacts [enterWarmup_good g.bounded (g.zero (by rw [hs]; rfl)) (g.free (by rw [hs]; rfl)), g]
  case stopping => exact stoppingExit_good g hs
  all_goals exact g

theorem sequencerFaultReset_good {s : State} (g : s.key.Good) : (sequencerFaultReset s).key.Good := by
  unfold sequencerFaultReset
  split
  · rename_i h
    simp only [Bool.and_eq_true, decide_eq_true_eq] at h
    have e : s.key.state = .faulted := h.1.1.1.1
    exact enterStopped_good g.bounded (g.zero (by rw [e]; rfl)) (g.free (by rw [e]; rfl))
  · exact g

theorem stepperExamine_good {s : State} (g : s.key.Good) : (stepperExamine s).key.Good := by
  obtain ⟨n, e, m, z⟩ := key_examineStep s
  obtain ⟨b1, b2, b3⟩ := g.bounded
  have b : (examineStep s).key.bounded := by
    rw [e]; exact ⟨by dsimp only; omega, b2, b3⟩
  have g' : (examineStep s).key.Good := by
    refine ⟨?_, b, ?_, ?_, ?_⟩
    · rw [e]; exact g.commands
    · rw [e]; intro h; exact (z h).trans (g.zero h)
    · rw [e]; exact g.agrees
    · rw [e]; exact g.holds
  unfold stepperExamine
  dsimp only
  split
  · rename_i h
    simp only [Bool.and_eq_true, decide_eq_true_eq, bne_iff_ne] at h
    have hs : (examineStep s).key.state = .unloading := h.1.1
    exact enterCooldown_good b h.1.2 (g'.free (by rw [hs]; rfl))
  · exact g'

end Sys2Proof.Machine
end

