-- ==== Sys2Proof/Laws/Moves.lean ====
section
/-! SUPPORT. Laws/Moves.lean: everything that one command can do outside the link's pool and slots, the mailbox and the load, said
once as a chain of moves: the acts of a cascade, and replacements of what a cascade leaves alone. Every chain of moves keeps the
pool law, the condition law, the derate law and the transmitter law. -/

namespace Sys2Proof.Machine

/-- One move of a command. -/
inductive Move : State → State → Prop
  | act {s t : State} (h : Act s t) : Move s t
  | slot (s : State) (x : ClaimSlot)
      (h : s.link.txEnabled = true ∨ (s.link.claimSlot = .empty → x = .empty)) :
      Move s (s.setLink { s.link with claimSlot := x })
  | cab (s : State) (x : CabUnit) : Move s (s.setCab x)
  | view (s : State) (x : ConsistView) : Move s (s.setView x)
  | alloc (s : State) (x : Allocator) : Move s (s.setAlloc x)
  | claim (s : State) (x : ClaimUnit) : Move s (s.setClaim x)
  | out (s : State) (x : OutputStage) : Move s (s.setOut x)
  | ret (s : State) (x : RetainedStore) : Move s (s.setRet x)
  | mon (s : State) (x : Monitor) (h : x.conditions = s.mon.conditions ∧ x.derate = s.mon.derate
      ∧ x.capacity = s.mon.capacity ∧ x.routing = s.mon.routing) : Move s (s.setMon x)
  | load (s : State) (x : Loader) (h : x.progress = s.load.progress) : Move s (s.setLoad x)

/-- A chain of moves. -/
def Moves : State → State → Prop := Relation.ReflTransGen Move

theorem Moves.refl (s : State) : Moves s s := Relation.ReflTransGen.refl

theorem Moves.then {s t u : State} (h : Moves s t) (k : Move t u) : Moves s u :=
  Relation.ReflTransGen.tail h k

theorem Moves.trans {s t u : State} (h : Moves s t) (k : Moves t u) : Moves s u :=
  Relation.ReflTransGen.trans h k

theorem Moves.keeps {P : State → Prop} (step : ∀ s t, Move s t → P s → P t) {s t : State}
    (h : Moves s t) (hs : P s) : P t := by
  induction h with
  | refl => exact hs
  | tail _ a ih => exact step _ _ a ih

/-- A cascade at the end of a chain of moves. -/
theorem Moves.acts {s t u : State} (h : Moves s t) (k : Acts t u) : Moves s u :=
  k.keeps (P := fun u => Moves s u) (fun _ _ a m => m.then (.act a)) h

theorem Acts.moves {s t : State} (h : Acts s t) : Moves s t := (Moves.refl s).acts h

theorem Moves.ite {s t u : State} {c : Prop} [Decidable c] (ht : Moves s t) (hu : Moves s u) :
    Moves s (if c then t else u) := by
  split
  exacts [ht, hu]

theorem Moves.foldl {s t : State} {α : Type} {f : State → α → State}
    (hf : ∀ t a, Moves s t → Moves s (f t a)) (l : List α) (h : Moves s t) : Moves s (l.foldl f t) := by
  induction l generalizing t with
  | nil => exact h
  | cons a l ih => exact ih (hf t a h)

/-! ### The laws that moves keep -/

theorem Moves.link {s t : State} (h : Moves s t) :
    ∃ c m, t.link = { s.link with claimSlot := c, statusMarked := m } := by
  refine h.keeps (P := fun t => ∃ c m, t.link = { s.link with claimSlot := c, statusMarked := m }) ?_
    ⟨_, _, rfl⟩
  rintro u v a ⟨c, m, e⟩
  cases a
  case act a =>
    have k := a.untouched.link
    refine ⟨v.link.claimSlot, v.link.statusMarked, ?_⟩
    have k' := congrArg (fun l : LinkUnit =>
      { l with claimSlot := v.link.claimSlot, statusMarked := v.link.statusMarked }) k
    dsimp only at k'
    rw [e] at k'
    exact k'
  case slot x hx => exact ⟨x, m, by rw [setLink_link, e]⟩
  all_goals exact ⟨c, m, e⟩

theorem Moves.places {s t : State} (h : Moves s t) : t.link.places = s.link.places := by
  obtain ⟨c, m, e⟩ := h.link
  rw [e]; rfl

theorem Moves.poolLaw {s t : State} (h : Moves s t) (l : PoolLaw s) : PoolLaw t := by
  unfold PoolLaw; rw [h.places]; exact l

theorem Moves.pending {s t : State} (h : Moves s t) : t.pending = s.pending := by
  refine h.keeps (P := fun t => t.pending = s.pending) ?_ rfl
  intro u v a l
  cases a
  case act a => exact a.untouched.pending.trans l
  all_goals exact l

theorem Moves.params {s t : State} (h : Moves s t) : t.params = s.params := by
  refine h.keeps (P := fun t => t.params = s.params) ?_ rfl
  intro u v a l
  cases a
  case act a => exact a.untouched.params.trans l
  all_goals exact l

theorem Moves.conditionLaw {s t : State} (h : Moves s t) : ConditionLaw s → ConditionLaw t := by
  refine h.keeps (P := ConditionLaw) ?_
  intro u v a l
  cases a
  case act a => exact Acts.conditionLaw (Relation.ReflTransGen.single a) l
  case mon x hx => rw [conditionLaw_iff] at l ⊢; exact hx.1 ▸ l
  all_goals exact l

theorem Moves.derateLaw {s t : State} (h : Moves s t) : DerateLaw s → DerateLaw t := by
  refine h.keeps (P := DerateLaw) ?_
  intro u v a l
  cases a
  case act a => exact Acts.derateLaw (Relation.ReflTransGen.single a) l
  case mon x hx =>
    obtain ⟨_, h2, h3, h4⟩ := hx
    refine ⟨?_, ?_, fun e => ?_, fun k => ?_⟩
    · show 64 ≤ x.derate ∧ x.derate ≤ 256; rw [h2]; exact l.1
    · show x.capacity ≤ _; rw [h3]; exact l.2.1
    · show x.capacity = 0; rw [h3]; exact l.2.2.1 e
    · show 64 ≤ x.routing[k].derate; rw [h4]; exact l.2.2.2 k
  case load x hx =>
    refine ⟨l.1, l.2.1, fun e => l.2.2.1 ?_, l.2.2.2⟩
    have e' : (x.progress == .done) = false := e
    unfold State.loaded; rw [← hx]; exact e'
  all_goals exact l

theorem Moves.loaded {s t : State} (h : Moves s t) : t.loaded = s.loaded := by
  refine h.keeps (P := fun t => t.loaded = s.loaded) ?_ rfl
  intro u v a l
  cases a
  case act a => exact (Acts.loaded (Relation.ReflTransGen.single a)).trans l
  case load x hx => unfold State.loaded at l ⊢; rw [setLoad_load, hx]; exact l
  all_goals exact l

theorem Moves.transmitterLaw {s t : State} (h : Moves s t) (l : TransmitterLaw s) : TransmitterLaw t := by
  refine ⟨h.keeps (P := DisabledLaw) ?_ l.1, ?_⟩
  · intro u v a l
    cases a
    case act a => exact Acts.disabledLaw (Relation.ReflTransGen.single a) l
    case slot x hx => exact Tweaks.disabledLaw ((Tweaks.refl u).then (.slot u x hx)) l
    all_goals exact l
  · obtain ⟨c, m, e⟩ := h.link
    have k := l.2
    unfold EnabledLaw at k ⊢
    rw [h.loaded, e]
    exact k

/-! ### The moves of the shared operations above the cascade -/

section
variable {s t : State}

theorem Moves.setCab (h : Moves s t) (x : CabUnit) : Moves s (t.setCab x) := h.then (.cab t x)
theorem Moves.setView (h : Moves s t) (x : ConsistView) : Moves s (t.setView x) := h.then (.view t x)
theorem Moves.setAlloc (h : Moves s t) (x : Allocator) : Moves s (t.setAlloc x) := h.then (.alloc t x)
theorem Moves.setClaim (h : Moves s t) (x : ClaimUnit) : Moves s (t.setClaim x) := h.then (.claim t x)
theorem Moves.setOut (h : Moves s t) (x : OutputStage) : Moves s (t.setOut x) := h.then (.out t x)
theorem Moves.setRet (h : Moves s t) (x : RetainedStore) : Moves s (t.setRet x) := h.then (.ret t x)
theorem Moves.setSeq (h : Moves s t) (x : Sequencer) : Moves s (t.setSeq x) := h.then (.act (.seq t x))
theorem Moves.setStepper (h : Moves s t) (x : Stepper) : Moves s (t.setStepper x) :=
  h.then (.act (.stepper t x))
theorem Moves.setPort (h : Moves s t) (x : Port) : Moves s (t.setPort x) := h.then (.act (.port t x))

theorem Moves.setMon (h : Moves s t) {x : Monitor} (hx : x.conditions = t.mon.conditions
    ∧ x.derate = t.mon.derate ∧ x.capacity = t.mon.capacity ∧ x.routing = t.mon.routing) :
    Moves s (t.setMon x) := h.then (.mon t x hx)

theorem Moves.setLoad (h : Moves s t) {x : Loader} (hx : x.progress = t.load.progress) :
    Moves s (t.setLoad x) := h.then (.load t x hx)

theorem Moves.setInput (h : Moves s t) (k : Fin 12) (i : ProtectiveInput) : Moves s (t.setInput k i) :=
  h.setMon ⟨rfl, rfl, rfl, rfl⟩

theorem Moves.setProving (h : Moves s t) (o : ProvedOutput) (p : Proving) : Moves s (t.setProving o p) :=
  h.setOut _

theorem Moves.markStatus (h : Moves s t) : Moves s (Machine.markStatus t) := h.acts (Acts.refl t).markStatus
theorem Moves.markStatusIf (h : Moves s t) (c : Bool) : Moves s (Machine.markStatusIf c t) :=
  h.acts ((Acts.refl t).markStatusIf c)
theorem Moves.passTrigger (h : Moves s t) : Moves s (Machine.passTrigger t) := h.acts (Acts.refl t).passTrigger
theorem Moves.passTriggerIf (h : Moves s t) (c : Bool) : Moves s (Machine.passTriggerIf c t) :=
  h.acts ((Acts.refl t).passTriggerIf c)
theorem Moves.portMark (h : Moves s t) (k : PortKind) : Moves s (Machine.portMark k t) :=
  h.acts ((Acts.refl t).portMark k)
theorem Moves.portRelease (h : Moves s t) : Moves s (Machine.portRelease t) := h.acts (Acts.refl t).portRelease
theorem Moves.examineOffer (h : Moves s t) : Moves s (Machine.examineOffer t) := h.acts (Acts.refl t).examineOffer
theorem Moves.offerRelease (h : Moves s t) (o : ReleaseOutcome) : Moves s (Machine.offerRelease o t) := by
  unfold Machine.offerRelease; split
  · split
    exacts [h.then (.slot t _ (.inl ‹_›)), h]
  · exact h

theorem Moves.reportGone (h : Moves s t) (code : Nat) : Moves s (Machine.reportGone code t) :=
  h.acts ((Acts.refl t).reportGone code)
theorem Moves.reportPresent (h : Moves s t) {code : Nat} (hc : isConditionCode code = true) :
    Moves s (Machine.reportPresent code t) := h.acts ((Acts.refl t).reportPresent hc)
theorem Moves.reportCause (h : Moves s t) {code : Nat} (hc : isConditionCode code = true) (b : Bool) :
    Moves s (Machine.reportCause code b t) := h.acts ((Acts.refl t).reportCause hc b)

/-! #### Cab -/

theorem Moves.runQualified (h : Moves s t) : Moves s (Machine.runQualified t) := by
  unfold Machine.runQualified
  dsimp only
  exact .ite h (Moves.ite ((h.setCab _).setAlloc _) (h.setCab _)).passTrigger.markStatus

theorem Moves.estopQualified (h : Moves s t) : Moves s (Machine.estopQualified t) :=
  (Moves.ite (h.acts (Acts.refl t).hardAppears) h).passTrigger.markStatus

theorem Moves.faultResetQualified (h : Moves s t) : Moves s (Machine.faultResetQualified t) := by
  unfold Machine.faultResetQualified
  refine Moves.acts ?_ (Acts.refl _).sequencerFaultReset
  exact .foldl (fun u m k => k.acts ((Acts.refl u).leaveCondition m)) _ h

theorem Moves.isolateQualified (h : Moves s t) : Moves s (Machine.isolateQualified t) :=
  .ite (h.acts (Acts.refl t).isolateAppears) (h.acts (Acts.refl t).isolateEnds)

theorem Moves.lineQualified (h : Moves s t) (line : CabLine) (first : Bool) :
    Moves s (Machine.lineQualified line first t) := by
  cases line
  exacts [h.runQualified, .ite h h.estopQualified, .ite h.faultResetQualified h, .ite h h.isolateQualified]

theorem Moves.changeDecoder (h : Moves s t) (c : CabUnit) : Moves s (Machine.changeDecoder c t) :=
  ((h.setCab c).passTriggerIf _).markStatusIf _

theorem Moves.majorityNotice (h : Moves s t) : Moves s (Machine.majorityNotice t) := .ite (h.changeDecoder _) h

/-! #### View -/

theorem Moves.enterAlone (h : Moves s t) : Moves s (Machine.enterAlone t) :=
  .ite h ((h.setView _).acts (Acts.refl _).aloneAppears).markStatus

theorem Moves.leaveAlone (h : Moves s t) : Moves s (Machine.leaveAlone t) :=
  .ite (h.setView _).markStatus.examineOffer h

theorem Moves.recomputeTally (h : Moves s t) : Moves s (Machine.recomputeTally t) := by
  unfold Machine.recomputeTally
  dsimp only
  exact .ite h (h.setView _).majorityNotice

theorem Moves.heardPeer (h : Moves s t) (i : Fin 7) : Moves s (Machine.heardPeer i t) := h.setView _

theorem Moves.ageTaken (h : Moves s t) (i : Fin 7) : Moves s (Machine.ageTaken i t) := by
  unfold Machine.ageTaken
  dsimp only
  exact (Moves.ite (h.setView _).enterAlone (h.setView _)).recomputeTally.passTrigger

theorem Moves.takeHeldExpiries (h : Moves s t) : Moves s (Machine.takeHeldExpiries t) :=
  .foldl (fun _ i k => .ite (k.ageTaken i) k) _ h

/-! #### Claims -/

theorem Moves.conflictingClaim (h : Moves s t) (station lease : Nat) :
    Moves s (Machine.conflictingClaim station lease t) := by
  unfold Machine.conflictingClaim
  dsimp only
  refine .ite ?_ h.markStatus
  have k := ((h.setClaim (ClaimUnit.held
    { t.claim with settle := .stopped, clock := .stopped, phase := .idle } station lease)).offerRelease
      .abandoned).markStatus
  exact .ite (k.acts (Acts.refl _).enterClaimWait) k

theorem Moves.peerClaims (h : Moves s t) (station lease : Nat) : Moves s (Machine.peerClaims station lease t) := by
  unfold Machine.peerClaims
  split
  exacts [(h.setClaim _).acts (Acts.refl _).claimSeesPeer, h.conflictingClaim _ _, .ite (h.setClaim _) h]

theorem Moves.peerReleases (h : Moves s t) (station : Nat) : Moves s (Machine.peerReleases station t) :=
  .ite (h.setClaim _).examineOffer h

theorem Moves.applyClaim (h : Moves s t) (station : Nat) (f : ClaimFields) :
    Moves s (Machine.applyClaim station f t) := by
  unfold Machine.applyClaim
  dsimp only
  exact .ite ((h.peerClaims _ _).setClaim _).examineOffer (h.peerClaims _ _)

theorem Moves.applyStatusClaim (h : Moves s t) (station : Nat) (held : Bool) (remaining : Nat) :
    Moves s (Machine.applyStatusClaim station held remaining t) :=
  .ite (h.peerClaims _ _) (h.peerReleases _)

theorem Moves.ownClaimCompleted (h : Moves s t) : Moves s (Machine.ownClaimCompleted t) := by
  unfold Machine.ownClaimCompleted
  split
  · have k := (h.setClaim { t.claim with
      holder := .self, settle := .running Config.settleMs, clock := .running 0, phase := .settling }).markStatus
    exact .ite (k.acts (Acts.refl _).enterClaimSettle) k
  · exact (h.setClaim _).offerRelease _
  all_goals exact h

theorem Moves.ownClaimFailed (h : Moves s t) : Moves s (Machine.ownClaimFailed t) := .ite (h.setClaim _) h

theorem Moves.claimWithoutTransmitter (h : Moves s t) : Moves s (Machine.claimWithoutTransmitter t) := by
  unfold Machine.claimWithoutTransmitter
  split
  exacts [h.setClaim _, h.setClaim _, h, h, h, h]

theorem Moves.claimNews (h : Moves s t) : Moves s (Machine.claimNews t) := h.recomputeTally.passTrigger

theorem Moves.applyStatus (h : Moves s t) (i : Fin 7) (heard : Bool) (r : StatusRecord) :
    Moves s (Machine.applyStatus i heard r t) := by
  unfold Machine.applyStatus
  dsimp only
  exact ((Moves.ite (h.setView _) (h.setView _).leaveAlone).applyStatusClaim _ _ _).recomputeTally.passTriggerIf _

theorem Moves.applyPeer (h : Moves s t) (i : Fin 7) (f : RawFrame) : Moves s (Machine.applyPeer i f t) := by
  unfold Machine.applyPeer
  dsimp only
  have c := h.heardPeer i
  split
  · split
    exacts [(c.applyClaim _ _).claimNews, c]
  · exact (c.peerReleases _).claimNews
  · split
    exacts [c.applyStatus _ _ _, c]
  · exact .ite c.recomputeTally.passTrigger c

/-! #### Monitor -/

theorem sensorCode_isCode (c : Channel) : isConditionCode (sensorCode c) = true := by cases c <;> rfl

theorem mismatchCode_isCode (o : ProvedOutput) (b : Bool) : isConditionCode (mismatchCode o b) = true := by
  cases o <;> cases b <;> rfl

theorem inputCode_isCode (k : Fin 12) : isConditionCode (k.val + 1) = true := by
  revert k; decide

theorem Moves.overtempTests (h : Moves s t) : Moves s (Machine.overtempTests t) := by
  unfold Machine.overtempTests
  dsimp only
  exact .ite ((h.reportCause rfl _).reportCause rfl _) h

theorem Moves.lowOilTest (h : Moves s t) : Moves s (Machine.lowOilTest t) := .ite (h.reportCause rfl _) h

theorem Moves.prelubePressure (h : Moves s t) : Moves s (Machine.prelubePressure t) :=
  .ite (h.acts (Acts.refl t).enterClaimWait) h

theorem Moves.coldRunRecovery (h : Moves s t) : Moves s (Machine.coldRunRecovery t) :=
  .ite (h.acts (Acts.refl t).clearColdRun) h

theorem Moves.batteryRecovery (h : Moves s t) : Moves s (Machine.batteryRecovery t) :=
  .ite (h.acts (Acts.refl t).clearBatteryNeed) h

theorem Moves.channelValue (h : Moves s t) (c : Channel) : Moves s (Machine.channelValue c t) := by
  cases c
  exacts [((h.acts (Acts.refl t).examineWarm).coldRunRecovery.acts (Acts.refl _).computeDerate).overtempTests,
    h.prelubePressure.lowOilTest, h.batteryRecovery]

theorem Moves.setChannel (h : Moves s t) (c : Channel) (a : AnalogChannel) :
    Moves s (t.setMon (t.mon.setChannel c a)) := by
  cases c <;> exact h.setMon ⟨rfl, rfl, rfl, rfl⟩

theorem Moves.overspeedTest (h : Moves s t) : Moves s (Machine.overspeedTest t) := .ite (h.reportCause rfl _) h

theorem Moves.stallTest (h : Moves s t) : Moves s (Machine.stallTest t) :=
  .ite (h.setMon ⟨rfl, rfl, rfl, rfl⟩) (.ite (h.setMon ⟨rfl, rfl, rfl, rfl⟩) h)

theorem Moves.failToStopCause (h : Moves s t) : Moves s (Machine.failToStopCause t) :=
  .ite (h.reportCause rfl _) h

theorem Moves.hourPasses (h : Moves s t) : Moves s (Machine.hourPasses t) := by
  have k : Moves s (((t.setRet { t.ret with minutes := 0 }).setRet
      { (t.setRet { t.ret with minutes := 0 }).ret with shadow := t.load.hours + 1 }).setLoad
        { t.load with hours := t.load.hours + 1 }) := by
    apply Moves.setLoad ((h.setRet _).setRet _)
    rfl
  unfold Machine.hourPasses
  dsimp only
  exact .ite (.ite k (k.portMark _)) (h.setRet _)

theorem Moves.countWindow (h : Moves s t) : Moves s (Machine.countWindow t) := by
  have k (n : Nat) : Moves s (t.setLoad { t.load with runningWindows := n }) := h.setLoad rfl
  unfold Machine.countWindow
  dsimp only
  exact .ite (k _) (.ite ((k 0).setRet _) (k 0).hourPasses)

theorem Moves.runningTime (h : Moves s t) : Moves s (Machine.runningTime t) := .ite h.countWindow h

theorem Moves.compareInput (h : Moves s t) (k : Fin 12) : Moves s (Machine.compareInput k t) := by
  unfold Machine.compareInput
  dsimp only
  exact .ite h ((h.setInput _ _).reportCause (inputCode_isCode k) _)

theorem Moves.sampleInput (h : Moves s t) (k : Fin 12) (closed : Bool) :
    Moves s (Machine.sampleInput k closed t) := by
  unfold Machine.sampleInput
  dsimp only
  exact .ite ((h.setInput _ _).compareInput k) (h.setInput _ _)

theorem Moves.unmaskInputs (h : Moves s t) (b : Bool) : Moves s (Machine.unmaskInputs b t) :=
  .foldl (fun _ _ k => .ite (k.setInput _ _) k) _ h

theorem Moves.feedbackQualified (h : Moves s t) (o : ProvedOutput) :
    Moves s (Machine.feedbackQualified o t) := by
  unfold Machine.feedbackQualified
  dsimp only
  exact .ite (.ite ((h.setProving _ _).reportGone _) (h.setProving _ _)) (.ite (h.setProving _ _) h)

end

end Sys2Proof.Machine
end

