-- ==== Sys2Proof/Laws/EngineOps.lean ====
section
/-! SUPPORT. Laws/EngineOps.lean: the laws of R2, R116 and R127 under the shared operations above the Sequencer: the cab, the view,
the claim record under the peers' frames, the Monitor. -/

namespace Sys2Proof.Machine

/-- The laws of Safety.lean on outputs, notch and claim, in the form in which operations keep them. -/
def EngineGood (s : State) : Prop := s.key.Good ∧ ClaimTidy s

theorem engineGood_iff (s : State) : (OutputLaw s ∧ NotchLaw s ∧ ClaimLaw s) ↔ EngineGood s := engineLaws_iff s

/-- A cascade after which the key is good. -/
theorem EngineGood.acts {s t : State} (h : EngineGood s) (a : Acts s t) (g : t.key.Good) : EngineGood t :=
  ⟨g, (a.holdTidy (h.1.holdTidy h.2)).2⟩

/-- A change of what none of the three laws reads. -/
theorem EngineGood.same {s t : State} (h : EngineGood s) (k : t.key = s.key) (c : t.claim = s.claim)
    (l : t.link.claimSlot = s.link.claimSlot) (q : t.link.sending = s.link.sending)
    (d : t.link.disablePending = s.link.disablePending) : EngineGood t :=
  ⟨k ▸ h.1, h.2.of_eq c l q d⟩

section
variable {s : State}

theorem EngineGood.setCab (h : EngineGood s) (x : CabUnit) : EngineGood (s.setCab x) := h.same rfl rfl rfl rfl rfl
theorem EngineGood.setView (h : EngineGood s) (x : ConsistView) : EngineGood (s.setView x) :=
  h.same rfl rfl rfl rfl rfl
theorem EngineGood.setMon (h : EngineGood s) (x : Monitor) : EngineGood (s.setMon x) := h.same rfl rfl rfl rfl rfl
theorem EngineGood.setPort (h : EngineGood s) (x : Port) : EngineGood (s.setPort x) := h.same rfl rfl rfl rfl rfl
theorem EngineGood.setLoad (h : EngineGood s) (x : Loader) : EngineGood (s.setLoad x) := h.same rfl rfl rfl rfl rfl
theorem EngineGood.setMailbox (h : EngineGood s) (x : Option Request) : EngineGood (s.setMailbox x) :=
  h.same rfl rfl rfl rfl rfl
theorem EngineGood.setPending (h : EngineGood s) (x : List Instr) : EngineGood (s.setPending x) :=
  h.same rfl rfl rfl rfl rfl
theorem EngineGood.setProving (h : EngineGood s) (o : ProvedOutput) (p : Proving) :
    EngineGood (s.setProving o p) := h.same (key_setProving s o p) rfl rfl rfl rfl

theorem EngineGood.markStatus (h : EngineGood s) : EngineGood (Machine.markStatus s) :=
  h.acts (Acts.refl s).markStatus (by rw [key_markStatus]; exact h.1)
theorem EngineGood.markStatusIf (h : EngineGood s) (c : Bool) : EngineGood (Machine.markStatusIf c s) :=
  h.acts ((Acts.refl s).markStatusIf c) (by rw [key_markStatusIf]; exact h.1)
theorem EngineGood.passTrigger (h : EngineGood s) : EngineGood (Machine.passTrigger s) :=
  h.acts (Acts.refl s).passTrigger (by rw [key_passTrigger]; exact h.1)
theorem EngineGood.passTriggerIf (h : EngineGood s) (c : Bool) : EngineGood (Machine.passTriggerIf c s) :=
  h.acts ((Acts.refl s).passTriggerIf c) (by rw [key_passTriggerIf]; exact h.1)
theorem EngineGood.portMark (h : EngineGood s) (k : PortKind) : EngineGood (Machine.portMark k s) :=
  h.acts ((Acts.refl s).portMark k) (by rw [key_portMark]; exact h.1)
theorem EngineGood.portRelease (h : EngineGood s) : EngineGood (Machine.portRelease s) :=
  h.acts (Acts.refl s).portRelease (by rw [key_portRelease]; exact h.1)
theorem EngineGood.computeDerate (h : EngineGood s) : EngineGood (Machine.computeDerate s) :=
  h.acts (Acts.refl s).computeDerate (by rw [key_computeDerate]; exact h.1)
theorem EngineGood.reportGone (h : EngineGood s) (code : Nat) : EngineGood (Machine.reportGone code s) :=
  h.acts ((Acts.refl s).reportGone code) (by rw [key_reportGone]; exact h.1)
theorem EngineGood.leaveCondition (h : EngineGood s) (m : Member) : EngineGood (Machine.leaveCondition m s) :=
  h.acts ((Acts.refl s).leaveCondition m) (by rw [key_leaveCondition]; exact h.1)
theorem EngineGood.reportPresent (h : EngineGood s) {code : Nat} (hc : isConditionCode code = true) :
    EngineGood (Machine.reportPresent code s) :=
  h.acts ((Acts.refl s).reportPresent hc) (reportPresent_good code h.1)
theorem EngineGood.reportCause (h : EngineGood s) {code : Nat} (hc : isConditionCode code = true) (b : Bool) :
    EngineGood (Machine.reportCause code b s) :=
  h.acts ((Acts.refl s).reportCause hc b) (reportCause_good code b h.1)
theorem EngineGood.examineOffer (h : EngineGood s) : EngineGood (Machine.examineOffer s) :=
  h.acts (Acts.refl s).examineOffer (examineOffer_good h.1)
theorem EngineGood.examineWarm (h : EngineGood s) : EngineGood (Machine.examineWarm s) :=
  h.acts (Acts.refl s).examineWarm (examineWarm_good h.1)

theorem EngineGood.ite {c : Prop} [Decidable c] {t u : State} (ht : EngineGood t) (hu : EngineGood u) :
    EngineGood (if c then t else u) := by
  split
  exacts [ht, hu]

theorem EngineGood.foldl {α : Type} {f : State → α → State}
    (hf : ∀ t a, EngineGood t → EngineGood (f t a)) (l : List α) (h : EngineGood s) :
    EngineGood (l.foldl f s) := by
  induction l generalizing s with
  | nil => exact h
  | cons a l ih => exact ih (hf s a h)

/-- The stop-delay timer and the re-evaluate flag are outside the three laws. -/
theorem EngineGood.setStopDelay (h : EngineGood s) (t : Timer) :
    EngineGood (s.setAlloc { s.alloc with stopDelay := t }) := h.same rfl rfl rfl rfl rfl

/-! #### Cab -/

theorem EngineGood.runQualified (h : EngineGood s) : EngineGood (Machine.runQualified s) := by
  unfold Machine.runQualified
  dsimp only
  exact .ite h (EngineGood.ite ((h.setCab _).setStopDelay _) (h.setCab _)).passTrigger.markStatus

theorem EngineGood.estopQualified (h : EngineGood s) : EngineGood (Machine.estopQualified s) :=
  (EngineGood.ite (h.acts (Acts.refl s).hardAppears (hardAppears_good h.1)) h).passTrigger.markStatus

theorem EngineGood.faultResetQualified (h : EngineGood s) : EngineGood (Machine.faultResetQualified s) := by
  unfold Machine.faultResetQualified
  have k := EngineGood.foldl (f := fun t m => Machine.leaveCondition m t) (fun _ m k => k.leaveCondition m)
    (s.mon.conditions.filter Member.resettable) h
  exact k.acts (Acts.refl _).sequencerFaultReset (sequencerFaultReset_good k.1)

theorem EngineGood.isolateQualified (h : EngineGood s) : EngineGood (Machine.isolateQualified s) :=
  .ite (h.acts (Acts.refl s).isolateAppears (isolateAppears_good h.1))
    (h.acts (Acts.refl s).isolateEnds (isolateEnds_good h.1))

theorem EngineGood.lineQualified (h : EngineGood s) (line : CabLine) (first : Bool) :
    EngineGood (Machine.lineQualified line first s) := by
  cases line
  exacts [h.runQualified, .ite h h.estopQualified, .ite h.faultResetQualified h, .ite h h.isolateQualified]

theorem EngineGood.changeDecoder (h : EngineGood s) (c : CabUnit) : EngineGood (Machine.changeDecoder c s) :=
  ((h.setCab c).passTriggerIf _).markStatusIf _

theorem EngineGood.majorityNotice (h : EngineGood s) : EngineGood (Machine.majorityNotice s) :=
  .ite (h.changeDecoder _) h

/-! #### View -/

theorem EngineGood.enterAlone (h : EngineGood s) : EngineGood (Machine.enterAlone s) := by
  unfold Machine.enterAlone
  have k := h.setView { s.view with alone := true, sFrozen := s.alloc.results.sLoad }
  exact .ite h (k.acts (Acts.refl _).aloneAppears (aloneAppears_good k.1)).markStatus

theorem EngineGood.leaveAlone (h : EngineGood s) : EngineGood (Machine.leaveAlone s) :=
  .ite (h.setView _).markStatus.examineOffer h

theorem EngineGood.recomputeTally (h : EngineGood s) : EngineGood (Machine.recomputeTally s) := by
  unfold Machine.recomputeTally
  dsimp only
  exact .ite h (h.setView _).majorityNotice

theorem EngineGood.heardPeer (h : EngineGood s) (i : Fin 7) : EngineGood (Machine.heardPeer i s) := h.setView _

theorem EngineGood.ageTaken (h : EngineGood s) (i : Fin 7) : EngineGood (Machine.ageTaken i s) := by
  unfold Machine.ageTaken
  dsimp only
  exact (EngineGood.ite (h.setView _).enterAlone (h.setView _)).recomputeTally.passTrigger

theorem EngineGood.takeHeldExpiries (h : EngineGood s) : EngineGood (Machine.takeHeldExpiries s) :=
  .foldl (fun _ i k => .ite (k.ageTaken i) k) _ h

/-! #### The claim record under the peers' frames -/

theorem timersAgree_iff (c : ClaimUnit) : c.timersAgree = true ↔
    c.lease.isRunning = c.holder.isPeer ∧ c.settle.isRunning = (c.phase == .settling)
      ∧ (c.phase = .offered → c.holder = .none) := by
  unfold ClaimUnit.timersAgree
  simp only [Bool.and_eq_true, beq_iff_eq, Bool.or_eq_true, bne_iff_ne, and_assoc]
  have : (c.phase ≠ .offered ∨ c.holder = .none) ↔ (c.phase = .offered → c.holder = .none) := by
    rw [or_iff_not_imp_left, not_not]
  rw [this]

/-- A peer recorded where self is not the holder and no own CLAIM is offered. -/
theorem EngineGood.held (h : EngineGood s) (station lease : Nat) (hs : s.claim.holder ≠ .self)
    (ho : s.claim.phase ≠ .offered) : EngineGood (s.setClaim (s.claim.held station lease)) := by
  obtain ⟨g, t1, t2, t3⟩ := h
  refine ⟨⟨g.commands, g.bounded, g.zero, g.agrees, ?_⟩, ?_, t2, t3⟩
  · have b := g.holds
    have e : s.key.holder ≠ .self := hs
    unfold Key.holds at b ⊢
    have n : ¬ (s.key.phase = .settling ∨ s.key.phase = .cranking) := fun x => e (b.mpr x)
    refine ⟨fun x => ?_, fun x => (n x).elim⟩
    have x' : Holder.peer station = .self := x
    cases x'
  · rw [timersAgree_iff] at t1 ⊢
    exact ⟨rfl, t1.2.1, fun x => (ho x).elim⟩

/-- A peer's claim recorded while the record showed none (R111, R113): an own offer is withdrawn with it. -/
theorem EngineGood.seen (h : EngineGood s) (station lease : Nat) (hn : s.claim.holder = .none) :
    EngineGood (claimSeesPeer (s.setClaim (s.claim.held station lease))) := by
  by_cases ho : s.claim.phase = .offered
  · obtain ⟨g, t1, t2, t3⟩ := h
    rw [timersAgree_iff] at t1
    have a := g.agrees
    unfold Key.agrees at a
    have kp : s.key.phase = .offered := ho
    rw [kp] at a
    have st : s.key.state = .claimWait := a
    have sr : s.claim.settle.isRunning = false := by rw [t1.2.1, ho]; rfl
    generalize hy : s.setClaim (s.claim.held station lease) = y
    have ky : y.key = { s.key with holder := .peer station } := by subst hy; rfl
    have ly : y.link = s.link := by subst hy; rfl
    have cy : y.claim = s.claim.held station lease := by subst hy; rfl
    have ty : ClaimTidy (claimSeesPeer y) := by
      -- the peer is recorded after the withdrawal: the claim alone differs
      have w := ClaimTidy.withdrawOffer ⟨(timersAgree_iff _).mpr t1, t2, t3⟩ true (.inr rfl) ho
      have e : claimSeesPeer y = (withdrawOffer true .wanted s).setClaim
          ((withdrawOffer true .wanted s).claim.held station lease) := by
        unfold claimSeesPeer
        rw [if_pos (by rw [cy]; exact ho)]
        unfold withdrawOffer
        dsimp only
        rw [ly]
        subst hy
        split <;> rfl
      rw [e]
      obtain ⟨w1, w2, w3⟩ := w
      have ph : (withdrawOffer true .wanted s).claim.phase ≠ .offered
          ∧ (withdrawOffer true .wanted s).claim.settle = s.claim.settle
          ∧ (withdrawOffer true .wanted s).claim.phase ≠ .settling := by
        unfold withdrawOffer
        dsimp only
        split <;> exact ⟨by simp, rfl, by simp⟩
      refine ⟨?_, w2, w3⟩
      rw [timersAgree_iff]
      refine ⟨rfl, ?_, fun x => (ph.1 x).elim⟩
      rw [timersAgree_iff] at w1
      exact w1.2.1
    refine ⟨?_, ty⟩
    have mk (p : ClaimPhase) (n : Bool) (hp : p = .wanted ∨ (p = .lapsed ∧ n = true)) (t : State)
        (kt : t.key = { s.key with phase := p, holder := .peer station, needStands := n }) : t.key.Good := by
      rw [kt]
      refine ⟨g.commands, g.bounded, g.zero, ?_, ?_⟩
      · unfold Key.agrees
        rcases hp with rfl | ⟨rfl, rfl⟩ <;> exact st
      · unfold Key.holds
        rcases hp with rfl | ⟨rfl, rfl⟩ <;> simp
    unfold claimSeesPeer
    rw [if_pos (by rw [cy]; exact ho)]
    unfold withdrawOffer
    dsimp only
    split
    · exact mk .lapsed true (.inr ⟨rfl, rfl⟩) _ (by subst hy; rfl)
    · exact mk .wanted s.claim.needStands (.inl rfl) _ (by subst hy; rfl)
  · unfold claimSeesPeer
    rw [if_neg (by exact ho)]
    exact h.held station lease (by rw [hn]; simp) ho

/-- The record's peer holder becomes none (R112, R113, R114). -/
theorem EngineGood.released (h : EngineGood s) (hp : s.claim.holder.isPeer = true) :
    EngineGood (s.setClaim (s.claim.released s.params)) := by
  obtain ⟨g, t1, t2, t3⟩ := h
  refine ⟨⟨g.commands, g.bounded, g.zero, g.agrees, ?_⟩, ?_, t2, t3⟩
  · have b := g.holds
    unfold Key.holds at b ⊢
    have e : s.key.holder ≠ .self := fun x => by
      have x' : s.claim.holder = .self := x
      rw [x'] at hp; cases hp
    have n : ¬ (s.key.phase = .settling ∨ s.key.phase = .cranking) := fun x => e (b.mpr x)
    refine ⟨fun x => ?_, fun x => (n x).elim⟩
    have x' : Holder.none = .self := x
    cases x'
  · rw [timersAgree_iff] at t1 ⊢
    exact ⟨rfl, t1.2.1, fun _ => rfl⟩

theorem EngineGood.conflictingClaim (h : EngineGood s) (station lease : Nat) :
    EngineGood (Machine.conflictingClaim station lease s) := by
  unfold Machine.conflictingClaim
  dsimp only
  split
  · rename_i c
    simp only [Bool.and_eq_true, decide_eq_true_eq] at c
    have p : s.claim.phase = .settling := c.1
    obtain ⟨g, t1, t2, t3⟩ := h
    have a := g.agrees
    unfold Key.agrees at a
    have kp : s.key.phase = .settling := p
    rw [kp] at a
    have st : s.key.state = .claimSettle := a
    generalize hy : s.setClaim (ClaimUnit.held
      { s.claim with settle := .stopped, clock := .stopped, phase := .idle } station lease) = y
    have ky : y.key = { s.key with phase := .idle, holder := .peer station } := by subst hy; rfl
    have ty : ClaimTidy y := by
      subst hy
      refine ⟨?_, ?_, t3⟩
      · rw [timersAgree_iff]; exact ⟨rfl, rfl, fun x => by cases x⟩
      · rw [slotAgrees_iff]
        intro d
        obtain ⟨f1, f2⟩ := slot_free t2 d (by rw [p]; simp)
        refine ⟨fun c e => (f1 c e).elim, fun c e => ?_, fun c e => ?_, fun c o w e => ?_⟩
        all_goals
          have e' : s.link.claimSlot = _ := e
          rw [e'] at f2
          cases f2
    have py : y.claim.phase ≠ .offered ∧ y.claim.phase ≠ .lapsed := by
      subst hy; simp [ClaimUnit.held]
    have tt := (ty.offerRelease py .abandoned).markStatus
    generalize ht : Machine.markStatus (Machine.offerRelease .abandoned y) = t at tt ⊢
    have kt : t.key = { s.key with phase := .idle, holder := .peer station } := by
      subst ht; rw [key_markStatus, key_offerRelease, ky]
    have sh : t.seq.state = .claimSettle := by
      have x := congrArg Key.state kt
      exact x.trans st
    rw [if_pos sh]
    have hold : t.claim.holdsAsItShould = true := by
      rw [holds_iff, kt]; unfold Key.holds; simp
    refine ⟨enterClaimWait_good ?_ ?_ ?_, ((Acts.refl t).enterClaimWait.holdTidy ⟨hold, tt⟩).2⟩
    · rw [kt]; exact g.bounded
    · rw [kt]; exact g.zero (by rw [st]; rfl)
    · rw [kt]; exact ⟨.inl rfl, by simp⟩
  · exact h.markStatus

theorem EngineGood.peerClaims (h : EngineGood s) (station lease : Nat) :
    EngineGood (Machine.peerClaims station lease s) := by
  unfold Machine.peerClaims
  split
  · exact h.seen station lease ‹_›
  · exact h.conflictingClaim station lease
  · rename_i y hy
    refine .ite (h.held station lease (by rw [hy]; simp) fun x => ?_) h
    have t := h.2.1
    rw [timersAgree_iff] at t
    have := t.2.2 x
    rw [hy] at this; cases this

theorem EngineGood.peerReleases (h : EngineGood s) (station : Nat) :
    EngineGood (Machine.peerReleases station s) := by
  unfold Machine.peerReleases
  split
  · rename_i e
    exact (h.released (by rw [e]; rfl)).examineOffer
  · exact h

/-- A change of the claim that the laws do not read. -/
theorem EngineGood.setClaim (h : EngineGood s) {x : ClaimUnit} (hl : x.lease = s.claim.lease)
    (hh : x.holder = s.claim.holder) (hs : x.settle = s.claim.settle) (hp : x.phase = s.claim.phase)
    (hn : x.needStands = s.claim.needStands) : EngineGood (s.setClaim x) := by
  refine ⟨?_, h.2.setClaim hl hh hs hp⟩
  have k : (s.setClaim x).key = s.key := by
    simp only [State.key, setClaim_claim, hh, hp, hn]; rfl
  rw [k]; exact h.1

theorem EngineGood.applyClaim (h : EngineGood s) (station : Nat) (f : ClaimFields) :
    EngineGood (Machine.applyClaim station f s) := by
  unfold Machine.applyClaim
  dsimp only
  have k := h.peerClaims station (claimLease f.crankLimit)
  refine .ite ?_ k
  apply EngineGood.examineOffer
  exact k.setClaim rfl rfl rfl rfl rfl

theorem EngineGood.applyStatusClaim (h : EngineGood s) (station : Nat) (held : Bool) (remaining : Nat) :
    EngineGood (Machine.applyStatusClaim station held remaining s) :=
  .ite (h.peerClaims _ _) (h.peerReleases _)

theorem EngineGood.claimNews (h : EngineGood s) : EngineGood (Machine.claimNews s) :=
  h.recomputeTally.passTrigger

theorem EngineGood.applyStatus (h : EngineGood s) (i : Fin 7) (heard : Bool) (r : StatusRecord) :
    EngineGood (Machine.applyStatus i heard r s) := by
  unfold Machine.applyStatus
  dsimp only
  exact ((EngineGood.ite (h.setView _) (h.setView _).leaveAlone).applyStatusClaim _ _ _).recomputeTally.passTriggerIf _

theorem EngineGood.applyPeer (h : EngineGood s) (i : Fin 7) (f : RawFrame) :
    EngineGood (Machine.applyPeer i f s) := by
  unfold Machine.applyPeer
  dsimp only
  have c := h.heardPeer i
  split
  · split
    exacts [(c.applyClaim _ _).claimNews, c]
  · exact (c.peerReleases _).claimNews
  · split
    exacts [c.applyStatus _ _ _, c]
  · exact .ite c.recomputeTally.passTrigger c

/-! #### Monitor -/

theorem EngineGood.overtempTests (h : EngineGood s) : EngineGood (Machine.overtempTests s) := by
  unfold Machine.overtempTests
  dsimp only
  exact .ite ((h.reportCause rfl _).reportCause rfl _) h

theorem EngineGood.lowOilTest (h : EngineGood s) : EngineGood (Machine.lowOilTest s) := .ite (h.reportCause rfl _) h

theorem EngineGood.prelubePressure (h : EngineGood s) : EngineGood (Machine.prelubePressure s) := by
  unfold Machine.prelubePressure
  split
  · rename_i c
    simp only [Bool.and_eq_true, decide_eq_true_eq] at c
    have st : s.key.state = .prelube := c.1
    exact h.acts (Acts.refl s).enterClaimWait (enterClaimWait_good h.1.bounded (h.1.zero (by rw [st]; rfl))
      (h.1.free (by rw [st]; rfl)))
  · exact h

theorem EngineGood.clearColdRun (h : EngineGood s) : EngineGood (Machine.clearColdRun s) :=
  (h.setCab _).markStatusIf _

theorem EngineGood.clearBatteryNeed (h : EngineGood s) : EngineGood (Machine.clearBatteryNeed s) :=
  (h.setCab _).markStatusIf _

theorem EngineGood.channelValue (h : EngineGood s) (c : Channel) : EngineGood (Machine.channelValue c s) := by
  cases c
  · exact (EngineGood.computeDerate (.ite h.examineWarm.clearColdRun h.examineWarm)).overtempTests
  · exact h.prelubePressure.lowOilTest
  · exact .ite h.clearBatteryNeed h

theorem EngineGood.hourPasses (h : EngineGood s) : EngineGood (Machine.hourPasses s) := by
  have k : EngineGood (((s.setRet { s.ret with minutes := 0 }).setRet
      { (s.setRet { s.ret with minutes := 0 }).ret with shadow := s.load.hours + 1 }).setLoad
        { s.load with hours := s.load.hours + 1 }) := h.same rfl rfl rfl rfl rfl
  have r : EngineGood (s.setRet { s.ret with minutes := 0 }) := h.same rfl rfl rfl rfl rfl
  unfold Machine.hourPasses
  dsimp only
  exact .ite (.ite k (k.portMark _)) r

theorem EngineGood.countWindow (h : EngineGood s) : EngineGood (Machine.countWindow s) := by
  have k (n : Nat) : EngineGood (s.setLoad { s.load with runningWindows := n }) := h.setLoad _
  have r : EngineGood ((s.setLoad { s.load with runningWindows := 0 }).setRet
      { s.ret with minutes := s.ret.minutes + 1 }) := h.same rfl rfl rfl rfl rfl
  unfold Machine.countWindow
  dsimp only
  exact .ite (k _) (.ite r (k 0).hourPasses)

theorem EngineGood.compareInput (h : EngineGood s) (k : Fin 12) : EngineGood (Machine.compareInput k s) := by
  unfold Machine.compareInput
  dsimp only
  exact .ite h (EngineGood.reportCause (h.setMon _) (inputCode_isCode k) _)

theorem EngineGood.sampleInput (h : EngineGood s) (k : Fin 12) (closed : Bool) :
    EngineGood (Machine.sampleInput k closed s) := by
  unfold Machine.sampleInput
  dsimp only
  exact .ite (EngineGood.compareInput (h.setMon _) k) (h.setMon _)

theorem EngineGood.unmaskInputs (h : EngineGood s) (b : Bool) : EngineGood (Machine.unmaskInputs b s) :=
  .foldl (fun _ _ k => .ite (k.setMon _) k) _ h

theorem EngineGood.feedbackQualified (h : EngineGood s) (o : ProvedOutput) :
    EngineGood (Machine.feedbackQualified o s) := by
  unfold Machine.feedbackQualified
  dsimp only
  exact .ite (.ite ((h.setProving _ _).reportGone _) (h.setProving _ _)) (.ite (h.setProving _ _) h)

end

/-! ### The own claim at the outcomes of its CLAIM, and without the transmitter (R119, R124) -/

section
variable {s : State}

/-- A key with another claim. -/
theorem key_setClaim (s : State) (x : ClaimUnit) : (s.setClaim x).key
    = { s.key with phase := x.phase, holder := x.holder, needStands := x.needStands } := rfl

/-- LAPSED ends in WANTED or IDLE by the need-stands flag (R119, R124). -/
theorem EngineGood.lapsedEnds (h : EngineGood s) (p : s.claim.phase = .lapsed)
    (free : s.link.disablePending = false →
      (∀ c, s.link.claimSlot ≠ .claimPending c) ∧ s.link.claimSlot.claimIsSending = false) {x : ClaimUnit}
    (hl : x.lease = s.claim.lease) (hh : x.holder = s.claim.holder) (hs : x.settle = s.claim.settle)
    (hx : x.phase = if s.claim.needStands then .wanted else .idle) : EngineGood (s.setClaim x) := by
  have g := h.1
  have a := g.agrees
  have b := g.holds
  unfold Key.agrees at a
  unfold Key.holds at b
  have kp : s.key.phase = .lapsed := p
  rw [kp] at a b
  dsimp only at a
  have np : x.phase ≠ .offered ∧ x.phase ≠ .settling ∧ x.phase ≠ .cranking := by
    rw [hx]; split <;> simp
  refine ⟨⟨g.commands, g.bounded, g.zero, ?_, ?_⟩, ?_⟩
  · unfold Key.agrees
    rw [key_setClaim, hx]
    have kn : s.key.needStands = s.claim.needStands := rfl
    rw [kn] at a
    cases e : s.claim.needStands <;> rw [e] at a <;> exact a
  · unfold Key.holds
    rw [key_setClaim, hh]
    dsimp only
    have kh : s.key.holder = s.claim.holder := rfl
    rw [kh] at b
    constructor
    · intro y; exact absurd (b.mp y) (by simp)
    · rintro (y | y)
      exacts [(np.2.1 y).elim, (np.2.2 y).elim]
  · exact h.2.toPhase hl hh hs (by simp [p]) free ⟨np.1, np.2.1⟩

theorem EngineGood.ownClaimFailed (h : EngineGood s)
    (free : s.link.disablePending = false →
      (∀ c, s.link.claimSlot ≠ .claimPending c) ∧ s.link.claimSlot.claimIsSending = false) :
    EngineGood (Machine.ownClaimFailed s) := by
  unfold Machine.ownClaimFailed
  split
  · exact h.lapsedEnds ‹_› free rfl rfl rfl rfl
  · exact h

/-- R119, at a completion: the slot no longer holds the own CLAIM. -/
theorem EngineGood.ownClaimCompleted (h : EngineGood s)
    (free : s.link.disablePending = false →
      (∀ c, s.link.claimSlot ≠ .claimPending c) ∧ s.link.claimSlot.claimIsSending = false) :
    EngineGood (Machine.ownClaimCompleted s) := by
  unfold Machine.ownClaimCompleted
  split
  · rename_i p
    obtain ⟨g, t1, t2, t3⟩ := h
    rw [timersAgree_iff] at t1
    have a := g.agrees
    unfold Key.agrees at a
    have kp : s.key.phase = .offered := p
    rw [kp] at a
    have st : s.key.state = .claimWait := a
    generalize hx : ({ s.claim with
      holder := .self, settle := .running Config.settleMs, clock := .running 0, phase := .settling } : ClaimUnit) = x
    dsimp only
    have kx : (s.setClaim x).key = { s.key with phase := .settling, holder := .self } := by subst hx; rfl
    have ty : ClaimTidy (s.setClaim x) := by
      refine ⟨?_, ?_, t3⟩
      · rw [timersAgree_iff, setClaim_claim]
        subst hx
        refine ⟨?_, rfl, fun y => by cases y⟩
        show s.claim.lease.isRunning = false
        rw [t1.1, t1.2.2 p]; rfl
      · rw [slotAgrees_iff]
        intro d
        obtain ⟨f1, f2⟩ := free d
        refine ⟨fun c e => (f1 c e).elim, fun c e => ?_, fun c e => ?_, fun c o w e => ?_⟩
        all_goals
          have e' : s.link.claimSlot = _ := e
          rw [e'] at f2
          cases f2
    have tt := ty.markStatus
    have kk : (Machine.markStatus (s.setClaim x)).key = { s.key with phase := .settling, holder := .self } :=
      (key_markStatus _).trans kx
    generalize Machine.markStatus (s.setClaim x) = y at tt kk ⊢
    have sy : y.seq.state = .claimWait := (congrArg Key.state kk).trans st
    rw [if_pos sy]
    have hold : y.claim.holdsAsItShould = true := by
      rw [holds_iff, kk]; unfold Key.holds; simp
    refine ⟨enterClaimSettle_good ?_ ?_ ?_ ?_, ((Acts.refl y).enterClaimSettle.holdTidy ⟨hold, tt⟩).2⟩
    · rw [kk]; exact g.bounded
    · rw [kk]; exact g.zero (by rw [st]; rfl)
    · rw [kk]
    · rw [kk]
  · rename_i p
    dsimp only
    have k : EngineGood (s.setClaim (ClaimUnit.recovering
        { s.claim with phase := if s.claim.needStands then .wanted else .idle } s.params)) :=
      h.lapsedEnds p free rfl rfl rfl rfl
    refine ⟨by rw [key_offerRelease]; exact k.1, k.2.offerRelease ?_ _⟩
    rw [setClaim_claim]
    dsimp only [ClaimUnit.recovering]
    split <;> simp
  all_goals exact h

/-- R124: the own claim once the slot is emptied, or waits to be. -/
theorem EngineGood.claimWithoutTransmitter (h : EngineGood s)
    (free : s.link.disablePending = false →
      (∀ c, s.link.claimSlot ≠ .claimPending c) ∧ s.link.claimSlot.claimIsSending = false) :
    EngineGood (Machine.claimWithoutTransmitter s) := by
  unfold Machine.claimWithoutTransmitter
  split
  · rename_i p
    have g := h.1
    have a := g.agrees
    have b := g.holds
    unfold Key.agrees at a
    unfold Key.holds at b
    have kp : s.key.phase = .offered := p
    rw [kp] at a b
    refine ⟨⟨g.commands, g.bounded, g.zero, ?_, ?_⟩, ?_⟩
    · unfold Key.agrees; rw [key_setClaim]; exact a
    · unfold Key.holds; rw [key_setClaim]
      dsimp only
      constructor
      · intro y; exact absurd (b.mp y) (by simp)
      · rintro (y | y) <;> cases y
    · exact h.2.toPhase rfl rfl rfl (by simp [p]) free (by simp)
  · exact h.lapsedEnds ‹_› free rfl rfl rfl rfl
  all_goals exact h

end

end Sys2Proof.Machine
end

