-- ==== Sys2Proof/Laws/FirstStatus.lean ====
section
/-! SUPPORT. Laws/FirstStatus.lean: the first STATUS after the load (R179): what makes STATUS a candidate, what the first heartbeat
changes, and what keeps the law of the first STATUS. -/

namespace Sys2Proof.Machine

/-! ### What makes STATUS a candidate -/

/-- STATUS is ready exactly when it is marked, its spacing has expired and the first heartbeat has come. -/
theorem statusReady_iff (l : LinkUnit) : l.statusReady = true ↔
    l.statusMarked = true ∧ l.spacing.isExpired = true ∧ l.firstHeartbeat = true := by
  simp [LinkUnit.statusReady, and_assoc]

/-- A candidate STATUS is ready (R53, R61, R179). -/
theorem statusReady_of_candidate {l : LinkUnit} (h : l.candidate = some .status) : l.statusReady = true := by
  unfold LinkUnit.candidate at h
  split at h
  · cases h
  · split at h
    · cases h
    · cases h
    · simpa using h

/-! ### The law of the first STATUS -/

/-- After the first heartbeat there is nothing to keep. -/
theorem firstStatusLaw_of_beat {s : State} (h : s.link.firstHeartbeat = true) : FirstStatusLaw s := by
  simp [FirstStatusLaw, h]

/-- A change that leaves the flag, the frame in transmission, the transmitter and the heartbeat keeps the law. -/
theorem FirstStatusLaw.of_same {s t : State} (law : FirstStatusLaw s)
    (beat : t.link.firstHeartbeat = s.link.firstHeartbeat) (sending : t.link.sending = s.link.sending)
    (enabled : t.link.txEnabled = s.link.txEnabled) (timer : t.link.heartbeat = s.link.heartbeat) :
    FirstStatusLaw t := by
  rw [FirstStatusLaw, LinkUnit.sendingKind, beat, sending, enabled, timer]; exact law

/-- Every chain of moves keeps the law: it touches of the link the claim slot and the STATUS mark alone. -/
theorem FirstStatusLaw.of_moves {s t : State} (law : FirstStatusLaw s) (h : Moves s t) : FirstStatusLaw t := by
  obtain ⟨c, m, e⟩ := h.link
  exact law.of_same (by rw [e]) (by rw [e]) (by rw [e]) (by rw [e])

end Sys2Proof.Machine
end

