-- ==== Sys2Proof/Laws/FrameProcessor.lean ====
section
/-! SUPPORT. Laws/FrameProcessor.lean: the order of frames and passes (R65, R86): what taking up a frame changes, and what a frame that
was taken up means for the pass and for the application. -/

namespace Sys2Proof.Machine

/-! ### Taking up a frame changes nothing but the flag -/

@[simp] theorem takeUpFrame_headTaken (s : State) : (takeUpFrame s).link.headTaken = s.frameDue := rfl
@[simp] theorem takeUpFrame_postList (s : State) : (takeUpFrame s).link.postList = s.link.postList := rfl
@[simp] theorem takeUpFrame_applying (s : State) : (takeUpFrame s).link.applying = s.link.applying := rfl
@[simp] theorem takeUpFrame_draining (s : State) : (takeUpFrame s).link.draining = s.link.draining := rfl
@[simp] theorem takeUpFrame_alloc (s : State) : (takeUpFrame s).alloc = s.alloc := rfl
@[simp] theorem takeUpFrame_claim (s : State) : (takeUpFrame s).claim = s.claim := rfl
@[simp] theorem takeUpFrame_pending (s : State) : (takeUpFrame s).pending = s.pending := rfl

/-- Taking up a frame moves no buffer (R64). -/
@[simp] theorem poolLaw_takeUpFrame (s : State) : PoolLaw (takeUpFrame s) ↔ PoolLaw s := Iff.rfl

/-! ### What a frame taken up means -/

/-- A frame may be applied exactly when none is being applied, no pass is in flight or due, and the post list is not empty (R65). -/
theorem frameDue_iff (s : State) : s.frameDue = true ↔
    s.link.applying = none ∧ s.alloc.phase ≠ .inPass ∧ s.link.postList ≠ [] ∧ s.passDue = false := by
  simp [State.frameDue, and_assoc]

/-- No pass is due while a frame is taken up (R86). -/
theorem passDue_of_headTaken {s : State} (h : s.link.headTaken = true) : s.passDue = false := by
  simp [State.passDue, h]

/-- A frame that was taken up may be applied. -/
theorem frameDue_of_headTaken {s : State} (law : TakenLaw s) (h : s.link.headTaken = true) :
    s.frameDue = true :=
  let ⟨idle, posted, free⟩ := law h
  (frameDue_iff s).2 ⟨idle, free, posted, passDue_of_headTaken h⟩

/-- Whatever stood before, the law holds once the frame processor has looked at the post list. -/
theorem takenLaw_takeUpFrame (s : State) : TakenLaw (takeUpFrame s) := fun h =>
  let ⟨idle, free, posted, _⟩ := (frameDue_iff s).1 h
  ⟨idle, posted, free⟩

/-- A change that leaves the flag, the frame processor, the post list and the phase keeps the law. -/
theorem TakenLaw.of_same {s t : State} (law : TakenLaw s) (flag : t.link.headTaken = s.link.headTaken)
    (applying : t.link.applying = s.link.applying) (posts : t.link.postList = s.link.postList)
    (phase : t.alloc.phase = s.alloc.phase) : TakenLaw t := by
  rw [TakenLaw, flag, applying, posts, phase]; exact law

/-- With the flag clear there is nothing to keep. -/
theorem takenLaw_of_not_taken {s : State} (h : s.link.headTaken = false) : TakenLaw s := by
  simp [TakenLaw, h]

end Sys2Proof.Machine
end

