-- ==== Sys2Proof/Laws/Line.lean ====
section
/-! SUPPORT. Laws/Line.lean: the line state and its count of released bits (R44): what a released and a driven bit can do to the Link
Controller, and that both keep the law of the line. -/

namespace Sys2Proof.Machine

/-! ### Settling touches the line and its count alone -/

@[simp] theorem settle_line (l : LinkUnit) (n : Nat) : (l.settle n).line = .settling := rfl
@[simp] theorem settle_releasedBits (l : LinkUnit) (n : Nat) : (l.settle n).releasedBits = n := rfl
@[simp] theorem settle_frameOnLine (l : LinkUnit) (n : Nat) : (l.settle n).frameOnLine = l.frameOnLine := rfl

/-! ### Everything that released and driven bits can do -/

/-- Released bits leave the Link Controller as it was, set the count in SETTLING below nine and, while a frame has not ended, to at
most seven, or make the line IDLE with no frame on it (R44). -/
theorem readReleased_cases (l : LinkUnit) (n : Nat) :
    l.readReleased n = l
      ∨ (∃ count, l.readReleased n = l.settle count ∧ count < Config.idleBits
          ∧ (l.frameOnLine = true → count ≤ Config.endBits))
      ∨ (l.line = .settling ∧ l.frameOnLine = false ∧ Config.idleBits ≤ l.releasedBits + n
          ∧ l.readReleased n = { l with line := .idle, releasedBits := Config.idleBits }) := by
  cases line : l.line <;> cases frame : l.frameOnLine <;>
    simp only [LinkUnit.readReleased, line, frame, if_true, reduceCtorEq, if_false, true_or]
  all_goals split
  all_goals first
    | exact .inl rfl
    | exact .inr (.inr ⟨trivial, trivial, ‹_›, rfl⟩)
    | refine .inr (.inl ⟨_, rfl, ?_, fun _ => ?_⟩) <;> simp_all [Config.idleBits, Config.endBits] <;> omega

/-- A driven bit leaves the Link Controller as it was, starts a frame at an IDLE line, or sets the count in SETTLING to 0 (R44). -/
theorem readDriven_cases (l : LinkUnit) :
    (l.line = .inFrame ∧ l.readDriven = l)
      ∨ (l.line = .idle ∧ l.readDriven = { l with line := .inFrame })
      ∨ (l.line = .settling ∧ l.readDriven = l.settle 0) := by
  cases line : l.line <;> simp [LinkUnit.readDriven, line]

/-! ### The law of the line -/

/-- Settling below nine, and at most at seven while a frame has not ended, keeps the law of the line. -/
theorem lineLaw_settle {s : State} {count : Nat} (law : LineLaw s) (low : count < Config.idleBits)
    (ending : s.link.frameOnLine = true → count ≤ Config.endBits) :
    LineLaw (s.setLink (s.link.settle count)) :=
  ⟨fun _ => low, fun _ => ending, by simp, law.2.2.2⟩

/-- LINE_IDLE keeps the law of the line (R44). -/
theorem lineLaw_readReleased {s : State} (law : LineLaw s) (n : Nat) :
    LineLaw (s.setLink (s.link.readReleased n)) := by
  obtain same | ⟨count, eq, low, ending⟩ | ⟨-, free, -, eq⟩ := readReleased_cases s.link n
  · rw [same]; exact law
  · rw [eq]; exact lineLaw_settle law low ending
  · rw [eq]; exact ⟨by simp, by simp, fun _ => ⟨rfl, free⟩, law.2.2.2⟩

/-- START_BIT_READ keeps the law of the line (R44). -/
theorem lineLaw_readDriven {s : State} (law : LineLaw s) : LineLaw (s.setLink s.link.readDriven) := by
  obtain ⟨-, eq⟩ | ⟨-, eq⟩ | ⟨-, eq⟩ := readDriven_cases s.link
  · rw [eq]; exact law
  · rw [eq]; exact ⟨by simp, by simp, by simp, law.2.2.2⟩
  · rw [eq]; exact lineLaw_settle law (by decide) fun _ => Nat.zero_le _

end Sys2Proof.Machine
end

