-- ==== Sys2Proof/Tests/Slice0.lean ====
section
/-! SUPPORT. Tests/Slice0.lean: the smoke test of WellFormed, worked examples of the manual, and for each statement with hypotheses
a witness: states and operands that meet them, clause by clause. -/

namespace Sys2Proof.Tests

open Sys2Proof Sys2Proof.Machine

/-! ## WellFormed refuses each ill-formed operand -/

theorem test_wf_frame_length : Instr.wf (.frameArrival ⟨0, 1, 2, [20], 0, 0⟩) = false := by decide
theorem test_wf_age_station :
    Instr.wf (.ageExpiry 0) = false ∧ Instr.wf (.ageExpiry 8) = false
      ∧ Instr.wf (.ageExpiry 7) = true := by decide
theorem test_wf_config_read : Instr.wf (.configReadCompletion [1, 2, 3, 4, 5, 6, 7]) = false := by decide
theorem test_wf_raw_reading :
    Instr.wf (.analogSample .oil 1024) = false ∧ Instr.wf (.analogSample .oil 1023) = true := by decide
theorem test_wf_protective_input :
    Instr.wf (.protectiveInputQualification 0) = false
      ∧ Instr.wf (.protectiveInputQualification 13) = false
      ∧ Instr.wf (.protectiveInputQualification 12) = true := by decide
theorem test_wf_bad_code :
    Instr.wf (.badCode 6 0) = false ∧ Instr.wf (.badCode 1 0) = false
      ∧ Instr.wf (.badCode 7 0) = true ∧ Instr.wf (.badCode 0 0) = true := by decide
theorem test_wf_released_bits :
    Instr.wf (.lineIdle 10) = false ∧ Instr.wf (.lineIdle 9) = true := by decide

/-! ## Small states -/

/-- A timer that runs. -/
abbrev run : Timer := .running 10

/-- Station 3, loaded, its transmitter enabled, the line IDLE, the Allocator READY, the engine in `e`. -/
def st (e : EngineState) : State :=
  { State.reset with
    seq := { State.reset.seq with state := e }
    load := { State.reset.load with progress := .done, station := 3 }
    link := { State.reset.link with
      txEnabled := true, line := .idle, releasedBits := 9, heartbeat := run, firstHeartbeat := true }
    alloc := { State.reset.alloc with phase := .ready, listen := .expired } }

/-- With its condition set. -/
def holding (l : List Member) (s : State) : State := { s with mon := { s.mon with conditions := l } }

/-- The state that a command leaves, and the state as it was where it answers none. -/
def after (c : Instr) (s : State) : State :=
  match exec c s with
  | .next t => t
  | _ => s

/-! ## Worked examples -/

set_option maxRecDepth 20000 in
/-- Section 3.2: the check of RELEASE FIRED from station 3, after each field. -/
theorem test_check_of_release :
    crc (bitsOf (1#3)) = 0b11101010 ∧ crc (bitsOf (1#3) ++ bitsOf (3#3)) = 0b01001100
      ∧ crc (bitsOf (1#3) ++ bitsOf (3#3) ++ bitsOf (1#4)) = 0b11011011
      ∧ (buildFrame 1 3 [1]).check = 0b00001000 := by decide

/-- Section 6.5: heating with CRANK on, cooling with it off. -/
def heating (h : Nat) (crank : Bool) : Nat :=
  (after .heatUpdate
    { st .runup with
      claim := { State.reset.claim with heat := h }, out := { State.reset.out with crank := crank }
      params := { Params.atReset with heatInc := 400, heatDecay := 41 } }).claim.heat
theorem test_heat_rises : heating 0 true = 400 ∧ heating 400 true = 796 ∧ heating 3464 true = 3830 := by
  decide
theorem test_heat_decays : heating 3830 false = 3792 ∧ heating 100 false = 99 ∧ heating 99 false = 99 := by
  decide

/-- Section 8.5: the temperature walk, R = 700, T_DERATE = 90, T_TRIP = 110. -/
def walk (celsius : Int) : Nat :=
  baseFactor { Params.atReset with tDerate := 90, tTrip := 110 } celsius
theorem test_temperature_walk :
    walk 88 = 256 ∧ walk 90 = 256 ∧ walk 91 = 243 ∧ walk 95 = 192 ∧ walk 105 = 64 ∧ walk 107 = 64
      ∧ 700 * walk 91 / 256 = 664 := by decide

/-- Section 8.10: raw readings to samples; the ends of the band. -/
theorem test_raw_to_sample :
    convert .coolant 668 = 88 ∧ convert .coolant 675 = 89 ∧ convert .coolant 64 = -40
      ∧ convert .coolant 960 = 150 ∧ convert .oil 960 = 1000 ∧ inBand 63 = false ∧ inBand 961 = false := by
  decide

/-- Section 8.10: four readings after a fault clear it, with their own mean. -/
theorem test_sensor_recovers :
    AnalogChannel.sample .coolant 668 ⟨675, [88, 89, 89], 88, true⟩ = ⟨668, [88, 89, 89, 88], 88, false⟩ := by
  decide

/-- Section 10.3: the worked image, corrected. -/
def worked : Params :=
  { Params.atReset with
    idleSpeed := 380, entSpeed := [390, 820, 800, 940, 1000, 1060, 1120, 2300], overspeed := 1200
    tDerate := 118, tTrip := 112, heatOk := 6000, heatTrip := 5000 }
theorem test_image_corrected :
    let p := worked.clamped.corrected
    p.idleSpeed = 400 ∧ p.entSpeed = [400, 820, 820, 940, 1000, 1060, 1120, 2100]
      ∧ p.overspeed = 2150 ∧ p.tDerate = 115 ∧ p.tTrip = 120 ∧ p.heatTrip = 6001
      ∧ CondClass.ofCode 9 = .shutdown := by decide

set_option maxRecDepth 20000 in
/-- The parameters before a load are those of an all-zero image (log 6). -/
theorem test_params_at_reset : paramsOf [] = Params.atReset := by decide

/-- Section 5.9: the power steps; the four stations at notch 6, before and after stations 3 and 4 are ONLINE. -/
def caseParams : Params :=
  { Params.atReset with
    ratedPower := 700, entFrac := [32, 64, 96, 128, 160, 192, 224, 256]
    npt := [100, 300, 600, 1000, 1500, 1800, 2200, 2600], margin := 10, minRunEngines := 1 }
theorem test_power_steps :
    powerStepsOf caseParams = [87, 175, 262, 350, 437, 525, 612, 700] := by decide

/-- One station's record in the worked case. -/
def aRecord (e : EngineState) (capacity bucket : Nat) : StatusRecord :=
  { State.reset.selfRecord with state := e, capacity := capacity, bucket := bucket, eligible := true }

/-- Section 5.9 as station 3 sees it, at notch `n`, itself in `e3` and station 4 in `e4`. -/
def fourStations (n : Nat) (e3 e4 : EngineState) : State :=
  let entry (r : StatusRecord) : PeerEntry := ⟨.present, run, false, some r, false⟩
  let s := st e3
  { s with
    params := caseParams
    view := { s.view with peers := #v[entry (aRecord .online 700 18), entry (aRecord .online 700 20),
      .atReset, entry (aRecord e4 700 17), .atReset, .atReset, .atReset] }
    alloc := { s.alloc with
      phase := .inPass, powerSteps := powerStepsOf caseParams
      snapshot := ⟨n, .service, some (aRecord e3 525 15), 192, false, false, 0⟩ } }
theorem test_four_stations_saturated :
    (fourStations 6 .stopped .stopped).ranking.map (·.number) = [1, 2, 3, 4]
      ∧ (fourStations 6 .stopped .stopped).passResults = ⟨true, 1400, 0, 0, false, true, .service⟩ := by
  decide
theorem test_four_stations_shared :
    (fourStations 6 .online .claimWait).passResults = ⟨true, 1925, 491, 6, false, true, .service⟩
      ∧ (fourStations 6 .online .online).passResults = ⟨true, 2625, 360, 5, false, true, .service⟩
      ∧ (fourStations 5 .online .online).passResults = ⟨true, 1925, 410, 5, false, true, .service⟩ := by
  decide

/-- Section 7.5: a step at the up-dwell event, its setpoint, and the write that it marks. -/
def walking (notch target count : Nat) : State :=
  let s := st .online
  { s with
    params := { Params.atReset with
      idleSpeed := 700, entSpeed := [760, 820, 880, 940, 1000, 1060, 1120, 1180], dwellUp := 30, dwellDown := 15 }
    stepper := ⟨notch, ⟨true, count, false, false⟩, some 700⟩
    alloc := { s.alloc with results := { s.alloc.results with rankedIn := true, target := target } }
    port := { s.port with pendConfigRead := false, inFlight := none } }
theorem test_notch_walk_up :
    (after .upDwellEvent (walking 0 6 3000)).stepper = ⟨1, ⟨true, 0, false, false⟩, some 760⟩
      ∧ (after .upDwellEvent (walking 0 6 3000)).port.inFlight = some .setpointWrite
      ∧ (after .upDwellEvent (walking 6 6 3000)).stepper.notch = 6 := by decide
theorem test_notch_walk_down :
    (after .downDwellEvent (walking 7 6 1500)).stepper = ⟨6, ⟨true, 0, false, false⟩, some 1060⟩ := by
  decide

/-- R131: a dwell event that waits behind a pass end finds the timer restarted, and one step is taken. -/
theorem test_dwell_event_after_pass_end :
    let s : State :=
      let q := walking 0 6 3000
      { q with
        alloc := { q.alloc with
          phase := .inPass, powerSteps := powerStepsOf caseParams
          snapshot := (fourStations 6 .online .online).alloc.snapshot }
        view := (fourStations 6 .online .online).view
        params := { caseParams with entSpeed := q.params.entSpeed, dwellUp := 30 } }
    (after .passEnd s).stepper.notch = 1
      ∧ (after .upDwellEvent (after .passEnd s)).stepper = (after .passEnd s).stepper := by decide

/-- Section 7.7: the third bad read in a row raises GOVERNOR_FAULT, the signature alone does not make a read good. -/
def reading (fault : Bool) (bad good : Nat) : State :=
  let s := st .online
  { s with port := { s.port with
      inFlight := some .statusRead, governorFault := fault, badReads := bad, goodReads := good } }
theorem test_governor_third_bad_read :
    (after (.statusReadCompletion 0xFF 0xFF 0xFF 0xFF) (reading false 1 0)).mon.conditions = []
      ∧ (after (.statusReadCompletion 0xFF 0xFF 0xFF 0xFF) (reading false 2 0)).mon.conditions.map (·.code)
          = [33]
      ∧ (after (.statusReadCompletion 0xA5 1 7 0) (reading true 0 1)).port.goodReads = 0 := by decide

/-- R123, section 6.2: the claim remaining counts 100 ms units of settle and crank time that are left. -/
def claimed (elapsed crankTime : Nat) : Nat :=
  { st .cranking with
    claim := { State.reset.claim with holder := .self, clock := .running elapsed }
    params := { Params.atReset with crankTime := crankTime } }.claimRemaining
theorem test_claim_remaining : claimed 0 80 = 84 ∧ claimed 650 80 = 77 ∧ claimed 600 80 = 78 := by decide

/-- R174: every strap open is station 7 at link-rate code 3; a power-on reset leaves the state after reset. -/
theorem test_power_on_reset :
    exec (.powerOnReset ⟨true, true, true, true, true⟩) State.reset = .next State.reset := by rfl

/-! ## Witnesses: states and operands that meet the hypotheses of the statements, clause by clause -/

/-- A member of the condition set, its cause present. -/
def mem (code : Nat) (cls : CondClass) (latched : Bool) : Member := ⟨code, cls, latched, true, 0⟩

/-- With the cab line given at `q`. -/
def lined (line : CabLine) (q : QualifiedInput) (s : State) : State := { s with cab := s.cab.setLine line q }

/-- An input about to be qualified at `b`: for the first time, or changed. -/
def first (b : Bool) : QualifiedInput := ⟨b, true, run, false, false⟩
def changed (b : Bool) : QualifiedInput := ⟨b, true, run, !b, true⟩

/-- With the notch given, its dwell timer running. -/
def notched (n count : Nat) (s : State) : State :=
  { s with stepper := ⟨n, ⟨true, count, false, false⟩, some 400⟩ }

/-- With the own claim given. -/
def claiming (phase : ClaimPhase) (holder : Holder) (s : State) : State :=
  { s with claim := { s.claim with phase := phase, holder := holder } }

/-- With the claim slot given. -/
def slotted (c : ClaimSlot) (s : State) : State := { s with link := { s.link with claimSlot := c } }

/-- With a reply in its slot. -/
def answering (q : Reply) (s : State) : State := { s with link := { s.link with replySlot := some q } }

/-- With a frame in transmission. -/
def sending (kind : TxKind) (s : State) : State :=
  { s with link := { s.link with line := .inFrame, sending := some ⟨kind, buildFrame 2 3 []⟩ } }

/-- With a frame at the head of the post list. -/
def posted (f : RawFrame) (s : State) : State :=
  { s with link := { s.link with buffers := s.link.buffers.set 0 f, postList := [0], freeList := [1, 2, 3, 4, 5, 6, 7] } }

theorem test_witness_StepRunsTheCommandInFront :
    { st .online with pending := [.heatUpdate, .passEnd] }.pending = .heatUpdate :: [.passEnd] := by rfl

/-- With an empty queue: a pass due; a frame that may be applied; a start; an expiry, which the idle step takes. -/
theorem test_witness_IdleStepTakesWhatIsDue :
    let due : State := { st .online with alloc := { (st .online).alloc with reEvaluate := true } }
    let ended : State := { st .online with claim := { (st .online).claim with heatTimer := .running 0 } }
    (due.pending = [] ∧ due.passWaits)
      ∧ (¬ (posted (buildFrame 1 1 [1]) (st .online)).passWaits
        ∧ (posted (buildFrame 1 1 [1]) (st .online)).frameWaits)
      ∧ (¬ (st .online).withMark.passWaits ∧ ¬ (st .online).withMark.frameWaits
        ∧ (st .online).withMark.startWaits)
      ∧ ¬ ended.passWaits ∧ ¬ ended.frameWaits ∧ ¬ ended.startWaits
      ∧ ended.dueExpiry = some .heatUpdate := by decide

/-- Quiet states, the dwell timer stopped and running; one with an expiry that waits. -/
theorem test_witness_EveryCommandAnswersAndTimePassesBetween :
    let quiet (s : State) : Prop :=
      s.pending = [] ∧ ¬ s.passWaits ∧ ¬ s.frameWaits ∧ ¬ s.startWaits
    quiet (st .stopped) ∧ (st .stopped).stepper.dwell.running = false
      ∧ quiet (notched 3 0 (st .online)) ∧ (notched 3 0 (st .online)).stepper.dwell.running = true
      ∧ (quiet (notched 3 20000 (st .online))
        ∧ (notched 3 20000 (st .online)).stepper.dwell.running = true
        ∧ (notched 3 20000 (st .online)).stepper.dwell.upGiven = false
        ∧ (notched 3 20000 (st .online)).params.dwellUp * 100 ≤ 20000) := by decide

theorem test_witness_NoExpiryWaits : ∀ c : Instr, ¬ (st .stopped).expiryWaits c := by
  have ages : ∀ i : Fin 7, ((st .stopped).view.entry i).age ≠ .running 0 := by decide
  have inputs : ∀ k : Fin 12, (st .stopped).mon.inputs[k].stability ≠ .running 0 := by decide
  intro c h
  cases c with
  | cabLineQualification line => cases line <;> (revert h; simp only [State.expiryWaits]; decide)
  | ageExpiry n => obtain ⟨i, -, h⟩ := h; exact ages i h
  | protectiveInputQualification n => obtain ⟨k, -, h⟩ := h; exact inputs k h
  | feedbackQualification o => cases o <;> (revert h; simp only [State.expiryWaits]; decide)
  | provingTimerExpiry o => cases o <;> (revert h; simp only [State.expiryWaits]; decide)
  | _ => revert h; simp only [State.expiryWaits]; try decide

/-- An ONLINE engine at notch 2 with one member in the condition set, a peer in the table, a command waiting. -/
def lawful : State :=
  let s := notched 2 0 (holding [mem 18 .alarm false] (st .online))
  let input (b : Bool) : QualifiedInput := ⟨b, true, .expired, b, true⟩
  { s with
    ret := { s.ret with fuelLatch := true, wasRunning := true, minutes := 59, shadow := 999999 }
    mon := { s.mon with capacity := 100 }
    out := { s.out with
      loadPermit := true, alarm := true, crankProving := ⟨input false, .agree, .stopped⟩
      fuelProving := ⟨input true, .agree, .stopped⟩, prelubeProving := ⟨input true, .disagree, .expired⟩ }
    view := { s.view with peers := s.view.peers.set 0 ⟨.present, run, false, some (aRecord .online 700 18), false⟩ }
    pending := [.heatUpdate] }

theorem test_witness_EngineClaimAndNotchLawsAreKept :
    OutputLaw lawful ∧ ClaimLaw lawful ∧ NotchLaw lawful ∧ TransmitterLaw lawful
      ∧ ∃ t, step lawful = .next t := by
  refine ⟨by unfold OutputLaw; decide, by unfold ClaimLaw ClaimTidy; decide, by unfold NotchLaw; decide,
    by unfold TransmitterLaw DisabledLaw EnabledLaw; decide, ⟨_, rfl⟩⟩

/-- A frame taken up at the head of the post list, the heat update in front of it. -/
def takenUp : State :=
  let s := posted (buildFrame 1 1 [1]) lawful
  { s with link := { s.link with headTaken := true } }

theorem test_witness_EveryBufferStaysInOnePlace :
    PoolLaw lawful ∧ TakenLaw lawful ∧ TakenLaw takenUp ∧ takenUp.link.headTaken = true ∧ LineLaw lawful
      ∧ FirstStatusLaw lawful
      ∧ (∃ t, step lawful = .next t) ∧ ∃ t, step takenUp = .next t :=
  ⟨by unfold PoolLaw; decide, by unfold TakenLaw; decide, by unfold TakenLaw; decide, rfl,
    by unfold LineLaw; decide, by unfold FirstStatusLaw; decide, ⟨_, rfl⟩, ⟨_, rfl⟩⟩

theorem test_witness_DerateCapacityAndConditionsStayLawful :
    ConditionLaw lawful ∧ DerateLaw lawful ∧ DerateFresh lawful ∧ ∃ t, step lawful = .next t :=
  ⟨by unfold ConditionLaw; decide, by unfold DerateLaw; decide, by unfold DerateFresh; decide, ⟨_, rfl⟩⟩

/-- Both caps stand: COOLANT_SENSOR (16), and input D1 of class DERATE, its member in the set. -/
theorem test_witness_DerateCaps :
    let s := holding [mem 1 .derate false, mem 16 .alarm false] (st .online)
    (∃ m ∈ s.mon.conditions, m.code = 16)
      ∧ (∃ m ∈ s.mon.conditions, m.cls = .derate ∧ ∃ k : Fin 12, m.code = k.val + 1 ∧ s.mon.routing[k].derate = 64)
      ∧ s.derateFactor = 64 := by decide

theorem test_witness_AlarmAndNeedFlagsStayLawful :
    AlarmLaw lawful ∧ LayoverLaw lawful ∧ ∃ t, step lawful = .next t :=
  ⟨by unfold AlarmLaw; decide, by unfold LayoverLaw; decide, ⟨_, rfl⟩⟩

theorem test_witness_CountsStayWithinTheirRanges :
    CounterLaw lawful ∧ AttemptLaw lawful ∧ ∃ t, step lawful = .next t :=
  ⟨by unfold CounterLaw; decide, by unfold AttemptLaw; decide, ⟨_, rfl⟩⟩

theorem test_witness_SetpointFollowsStateAndNotch : SetpointLaw lawful ∧ ∃ t, step lawful = .next t :=
  ⟨by unfold SetpointLaw; decide, ⟨_, rfl⟩⟩

theorem test_witness_ProofStatesFollowCommandAndFeedback : ProvingLaw lawful ∧ ∃ t, step lawful = .next t :=
  ⟨by unfold ProvingLaw; intro o; cases o <;> decide, ⟨_, rfl⟩⟩

theorem test_witness_PeerTableAndPhaseStayConsistent : ViewLaw lawful ∧ ∃ t, step lawful = .next t :=
  ⟨by unfold ViewLaw; decide, ⟨_, rfl⟩⟩

theorem test_witness_EveryLawHoldsAfterReset :
    lawful.ret.shadow ≤ 999999 ∧ lawful.ret.minutes ≤ 59
      ∧ ∃ t, exec (.coreReset ⟨true, false, false, true, false⟩) lawful = .next t :=
  ⟨by decide, by decide, ⟨_, rfl⟩⟩

/-- A command outside every list of the three tables of what can change what, and a line event outside the third. -/
theorem test_witness_ConfigurationAndInputsHaveTheirOwnEvents :
    (∃ t, exec .upDwellEvent lawful = .next t)
      ∧ Instr.isNoneOf .upDwellEvent ["CONFIG_READ_COMPLETION", "CONFIG_LOAD_COMPLETION", "SPEED_VALUE",
          "CAB_LINE_SAMPLE", "CAB_LINE_QUALIFICATION", "THROTTLE_CODE_QUALIFICATION",
          "INVALID_CODE_TIMER_EXPIRY", "FRAME_APPLICATION", "AGE_EXPIRY", "PASS_END",
          "LAYOVER_CHECK_EXPIRY", "ANALOG_SAMPLE", "FEEDBACK_SAMPLE", "FEEDBACK_QUALIFICATION"] :=
  ⟨⟨_, rfl⟩, by decide⟩

/-- Two commands outside the lists: a Stepper event for those of the link and view, a sample for those of the engine's events. -/
theorem test_witness_LinkViewAndClaimHaveTheirOwnEvents :
    (∃ t, exec .upDwellEvent lawful = .next t)
      ∧ (∃ t, exec (.feedbackSample true true true) lawful = .next t)
      ∧ Instr.isNoneOf (.feedbackSample true true true) (["FRAME_START", "ARBITRATION_LOSS",
          "HEARTBEAT_EXPIRY", "THROTTLE_CODE_QUALIFICATION", "INVALID_CODE_TIMER_EXPIRY",
          "LAYOVER_CHECK_EXPIRY", "STATUS_READ_COMPLETION", "FEEDBACK_QUALIFICATION", "FRAME_ARRIVAL",
          "LEASE_EXPIRY", "RECOVERY_TIMER_EXPIRY", "REST_TIMER_EXPIRY", "PASS_START",
          "LISTEN_TIMER_EXPIRY", "EVALUATION_TIMER_EXPIRY"] ++ engineEvents)
      ∧ Instr.isNoneOf .upDwellEvent (["LINE_IDLE", "START_BIT_READ", "FRAME_START", "ARBITRATION_LOSS",
          "BIT_ERROR", "TRANSMISSION_COMPLETION", "FRAME_ARRIVAL", "CONFIG_LOAD_COMPLETION",
          "FRAME_APPLICATION", "HOLD_OFF_EXPIRY", "HEARTBEAT_EXPIRY", "SPACING_TIMER_EXPIRY",
          "END_OF_PRIORITY_FIELD", "APPLICATION_END", "PASS_START", "PASS_END", "AGE_EXPIRY",
          "LISTEN_TIMER_EXPIRY", "EVALUATION_TIMER_EXPIRY", "LEASE_EXPIRY", "HEAT_UPDATE",
          "STATUS_READ_COMPLETION", "GOVERNOR_STATUS_TIMER_EXPIRY", "CRANK_TIME_EXPIRY",
          "PROVING_TIMER_EXPIRY", "REST_TIMER_EXPIRY", "FIRE_CONFIRM_EXPIRY", "SPEED_VALUE",
          "MIN_RUN_EXPIRY"] ++ requestNames) :=
  ⟨⟨_, rfl⟩, ⟨_, rfl⟩, by decide, by decide⟩

theorem test_witness_EngineAndOutputsMoveOnlyAtTheirEvents :
    (∃ t, exec .restTimerExpiry lawful = .next t) ∧ Instr.isNoneOf .restTimerExpiry engineEvents :=
  ⟨⟨_, rfl⟩, by decide⟩

/-- Fields at the ends of their ranges. -/
theorem test_witness_FrameFieldsSurviveTheirLayout :
    (⟨.faulted, 8, 8, 2000, 15625, true, true, true, true, true, true, true, 15, 36, 255⟩ :
        StatusRecord).inRange = true
      ∧ (⟨.init, 0, 0, 0, 0, false, false, false, false, false, false, false, 0, 0, 0⟩ :
        StatusRecord).inRange = true
      ∧ (20 ≤ (⟨20, 1⟩ : ClaimFields).crankLimit ∧ 1 ≤ (⟨20, 1⟩ : ClaimFields).attempt)
      ∧ ((⟨250, 5⟩ : ClaimFields).crankLimit ≤ 250 ∧ (⟨250, 5⟩ : ClaimFields).attempt ≤ 5) := by decide

theorem test_witness_OwnFramesAreGoodFrames :
    NotchLaw lawful ∧ ConditionLaw lawful
      ∧ (1 ≤ lawful.load.station ∧ lawful.load.station ≤ 7 ∧ lawful.mon.capacity ≤ 2000
        ∧ lawful.load.hours ≤ 999999 ∧ lawful.cab.demand ≤ 8 ∧ lawful.params.crankTime ≤ 250)
      ∧ (slotted (.claimPending ⟨250, 5⟩) lawful).link.claimSlot = .claimPending ⟨250, 5⟩
      ∧ (slotted (.releasePending .fired) lawful).link.claimSlot = .releasePending .fired
      ∧ (answering ⟨1, 0, List.replicate 10 255⟩ lawful).link.replySlot = some ⟨1, 0, List.replicate 10 255⟩ :=
  ⟨by unfold NotchLaw; decide, by unfold ConditionLaw; decide, by decide, rfl, rfl, rfl⟩

/-- The kinds of request, and one that is none; the arguments at the ends of their ranges. -/
theorem test_witness_RepliesHaveTheirLengthsAndOrder :
    (⟨1, 0⟩ : Request).code = 1 ∧ (⟨3, 0⟩ : Request).code = 3 ∧ (⟨4, 0⟩ : Request).code = 4
      ∧ (⟨5, 0⟩ : Request).code = 5 ∧ 1 ≤ (⟨2, 1⟩ : Request).argument.toNat
      ∧ (⟨2, 7⟩ : Request).argument.toNat ≤ 7 ∧ (⟨2, 0⟩ : Request).argument.toNat = 0
      ∧ 8 ≤ (⟨2, 8⟩ : Request).argument.toNat ∧ (⟨6, 3⟩ : Request).argument.toNat ≤ 3
      ∧ 4 ≤ (⟨6, 4⟩ : Request).argument.toNat ∧ (⟨0, 0⟩ : Request).code.toNat = 0
      ∧ 7 ≤ (⟨7, 0⟩ : Request).code.toNat := by decide

/-- Values that a reply can carry, a code qualified and none, a fault record; causes with equal active times and without any. -/
theorem test_witness_Replies_contents :
    (lawful.reportable ∧ (st .stopped).reportable ∧ lawful.cab.qualifiedCode = none
      ∧ ({ lawful.cab with qualifiedCode := some 15 } : CabUnit).qualifiedCode = some 15)
      ∧ (lawful.view.entry 0).record = some (aRecord .online 700 18)
      ∧ (aRecord .online 700 18).inRange = true ∧ (lawful.view.entry 1).record = none
      ∧ lawful.ret.record = none
      ∧ (⟨36, .faulted, 3000, 8, 999999⟩ : FaultRecord).cause ≤ 36
      ∧ (∀ m ∈ [mem 18 .alarm false], ¬ m.latchedCause)
      ∧ (∃ m ∈ [mem 22 .shutdown true, mem 30 .stop true], m.latchedCause)
      ∧ recordCause [⟨22, .shutdown, true, true, 5⟩, ⟨23, .shutdown, true, true, 5⟩, ⟨30, .stop, true, true, 5⟩] = 22
      ∧ recordCause [⟨22, .shutdown, true, true, 5⟩, ⟨30, .stop, true, true, 6⟩] = 30 := by decide

theorem test_witness_MajorityIsTheLowestOfTheMostFrequent :
    (∀ n ∈ [0, 0, 0], n = 0) ∧ (∃ n ∈ [0, 2, 1, 2], 0 < n) ∧ majority [0, 2, 1, 2] = some 1 := by decide

theorem test_witness_EligibilityIsTheTestOfFiveConditions :
    (st .stopped).eligible = true ∧ (st .faulted).eligible = false
      ∧ (fourStations 6 .online .online).alloc.snapshot.self = some (aRecord .online 525 15) := by decide

theorem test_witness_RankingSortsTheEligibleStations :
    (⟨0, 15, 3, 525, true, false⟩ : Ranked) ∈ (fourStations 6 .online .online).ranking := by decide

theorem test_witness_DemandPowerComesFromTheNotch :
    (∀ x ∈ caseParams.npt, x ≤ 20000) ∧ caseParams.margin ≤ 50 ∧ Params.atReset.margin = 0
      ∧ demandPower caseParams .service 8 = 2600 ∧ demandPower caseParams .service 1 = 100 := by decide

/-- No demand, a demand that the second of three covers, one that none covers. -/
theorem test_witness_NeededCountInServiceCoversTheDemand :
    let e (c : Nat) : Ranked := ⟨0, 0, 1, c, true, false⟩
    marginedDemand caseParams 0 = 0 ∧ 0 < marginedDemand caseParams 1000
      ∧ neededCount caseParams .service 1000 [e 700, e 700, e 700] = 2
      ∧ neededCount caseParams .service 3000 [e 700, e 700, e 700] = 3
      ∧ (⟨0, 18, 1, 700, true, false⟩ : Ranked) ∈ (fourStations 6 .online .online).ranking := by decide

theorem test_witness_LayoverServesBatteryAndColdRun :
    (∃ x ∈ [(⟨0, 0, 1, 700, true, true⟩ : Ranked)], x.batteryNeed = true)
      ∧ (∀ x ∈ [(⟨0, 0, 1, 700, true, false⟩ : Ranked)], x.batteryNeed = false)
      ∧ (fourStations 6 .online .online).ranking.length = 4 := by decide

theorem test_witness_RankedInMeansWithinTheNeededCount :
    let s := fourStations 6 .online .online
    s.alloc.snapshot.self = some (aRecord .online 525 15) ∧ 1 ≤ s.load.station ∧ s.load.station ≤ 7
      ∧ s.passResults.rankedIn = true := by decide

/-- A station in service, then ALONE, with the demand below, at and above what the ONLINE stations can carry. -/
theorem test_witness_ShareIsTheFractionOfTheDemand :
    let s (n frozen : Nat) (alone : Bool) : State :=
      let q := fourStations n .online .online
      { q with alloc := { q.alloc with
          snapshot := { q.alloc.snapshot with alone := alone, sFrozen := frozen } } }
    (∀ n ∈ [0, 6, 8], (s n 0 false).passResults.rankedIn = true)
      ∧ (s 6 0 false).passResults.share = 360 ∧ (s 8 0 false).passResults.sLoad = 2625
      ∧ (s 6 1800 true).passResults.share = 525 ∧ (s 6 1801 true).passResults.share = 525
      ∧ (s 6 2625 true).passResults.share = 360 ∧ (s 0 0 true).passResults.share = 0 := by decide

theorem test_witness_SharesTogetherCoverTheDemand :
    0 < 1800 ∧ 1800 < [525, 700, 700].sum := by decide

/-- The worked steps; a share at a step, above every step, and 0; a capacity at a step and below the first. -/
theorem test_witness_TargetNotchIsTheLowestThatCarriesAndIsCapped :
    let steps := powerStepsOf caseParams
    steps.length = 8 ∧ uncappedTarget steps 0 = 0 ∧ uncappedTarget steps 87 = 1
      ∧ uncappedTarget steps 88 = 2 ∧ uncappedTarget steps 701 = 8 ∧ notchCap steps 87 = 1
      ∧ notchCap steps 86 = 0 ∧ notchCap steps 700 = 8 ∧ steps.Pairwise (· ≤ ·)
      ∧ (fourStations 6 .online .online).alloc.powerSteps.length = 8 := by decide

/-- A port whose transaction `k` is in flight. -/
def flying (k : Transaction) (s : State) : State := { s with port := { s.port with inFlight := some k } }

theorem test_witness_PortCompletionsAndTimersDriveTheArbiter :
    ((flying (.configRead 16) { State.reset with
          load := { State.reset.load with progress := .reading 15 } }).port.inFlight = some (.configRead 16))
      ∧ State.reset.port.inFlight = some (.configRead 1) ∧ State.reset.load.progress = .reading 0
      ∧ (flying .setpointWrite (st .online)).port.inFlight = some .setpointWrite
      ∧ (flying .hoursWrite (st .online)).port.inFlight = some .hoursWrite
      ∧ ({ State.reset.port with refresh := run, statusTimer := run } : Port).refresh.isRunning = true := by
  decide

/-- Good and bad reads in both fault states, the counts below their last value and at it. -/
theorem test_witness_GovernorReadsAreJudged :
    (reading false 0 0).port.inFlight = some .statusRead
      ∧ (reading false 1 0).port.badReads < 2 ∧ 2 ≤ (reading false 2 0).port.badReads
      ∧ hasCode (reading false 2 0).mon.conditions 33 = false
      ∧ (reading true 0 1).port.goodReads < 2 ∧ 2 ≤ (reading true 0 2).port.goodReads
      ∧ hasCode (holding [mem 33 .unload false] (reading true 0 2)).mon.conditions 33 = true
      ∧ (∀ m ∈ (holding [mem 33 .unload false] (reading true 0 2)).mon.conditions,
          m.code = 33 → m.latched = false ∧ m.cls = .unload)
      ∧ (reading true 0 2).port.governorFault = true := by decide

/-- The sixteen reads made; a good marker and none; each kind of reset; station 0 and station 7. -/
theorem test_witness_LoadCompletionHandsTheConfigurationOn :
    let s (kind : ResetKind) (station marker : Nat) : State :=
      { State.reset with load := { State.reset.load with
          progress := .reading 16, resetKind := kind, station := station
          image := byteOf marker :: List.replicate 127 0 } }
    (∀ kind ∈ [ResetKind.powerOn, .core], ∀ station ∈ [0, 7], ∀ marker ∈ [0x4B, 0],
      (s kind station marker).load.progress = .reading 16
        ∧ (s kind station marker).seq.state = .init ∧ (s kind station marker).mon.speedYet = false
        ∧ (s kind station marker).alloc.phase = .waitLoad
        ∧ (s kind station marker).link.txEnabled = false
        ∧ hasCode (s kind station marker).mon.conditions 35 = false
        ∧ (imgByte (s kind station marker).load.image 0 == 0x4B) = (marker == 0x4B)
        ∧ hasCode (holding [mem 34 .stop true] (s kind station marker)).mon.conditions 34 = true
        ∧ hasCode (holding [mem 34 .stop true] (s kind station marker)).mon.conditions 35 = false) := by
  decide

/-- INIT after the load, with and without CONFIG_FAULT and the FUEL latch; speeds at half idle and just below it, at 30 rpm. -/
theorem test_witness_InitEndsByTheFirstCaseThatHolds :
    let s (l : List Member) (latch : Bool) : State :=
      let q := holding l (st .init)
      { q with
        ret := { q.ret with fuelLatch := latch }
        alloc := { q.alloc with results := { q.alloc.results with rankedIn := true } } }
    (∀ l ∈ [[], [mem 35 .shutdown true]], ∀ latch ∈ [true, false],
        (s l latch).seq.state = .init ∧ (s l latch).loaded = true
          ∧ hasCode (s l latch).mon.conditions 22 = false ∧ hasCode (s l latch).mon.conditions 26 = false
          ∧ (s l latch).stepper.notch = 0 ∧ (s l latch).alloc.results.target = 0
          ∧ (s l latch).allocationStop = false)
      ∧ NoStandingCause (s [] true)
      ∧ min 3000 (10 * 600 / Params.atReset.teeth) = Params.atReset.idleSpeed / 2
      ∧ min 3000 (9 * 600 / Params.atReset.teeth) < Params.atReset.idleSpeed / 2
      ∧ min 3000 (1 * 600 / Params.atReset.teeth) < 30 := by decide

/-- The sixteen reads made after the first speed value: a good marker and none, the FUEL latch on and off, station 0 and station 7, the
speed at half idle and below it; and INIT before the load. -/
theorem test_witness_InitEndsAtTheLoad :
    let s (marker station speed : Nat) (latch : Bool) : State :=
      let q := State.reset
      { q with
        load := { q.load with
          progress := .reading 16, station := station
          image := byteOf marker :: List.replicate 127 0 }
        ret := { q.ret with fuelLatch := latch }, mon := { q.mon with speedYet := true, speed := speed } }
    (∀ marker ∈ [0x4B, 0], ∀ station ∈ [0, 7], ∀ speed ∈ [0, 199, 200], ∀ latch ∈ [true, false],
        let q := s marker station speed latch
        q.seq.state = .init ∧ q.load.progress = .reading 16 ∧ q.mon.speedYet = true
          ∧ q.alloc.phase = .waitLoad ∧ hasCode q.mon.conditions 35 = false
          ∧ NoStandingCause q ∧ q.stepper.notch = 0 ∧ q.alloc.results.target = 0
          ∧ (imgByte q.load.image 0 != 0x4B) = (marker != 0x4B))
      ∧ (s 0x4B 7 200 true).mon.speed = (paramsOf (s 0x4B 7 200 true).load.image).idleSpeed / 2
      ∧ hasCode (holding [mem 34 .stop true] (s 0x4B 7 0 false)).mon.conditions 34 = true
      ∧ State.reset.seq.state = .init ∧ State.reset.loaded = false := by decide

theorem test_witness_InitEnds_conditionLaw :
    ConditionLaw (holding [mem 35 .shutdown true] (st .init)) ∧ ConditionLaw (st .init)
      ∧ ConditionLaw State.reset ∧ ConditionLaw (holding [mem 34 .stop true] State.reset) :=
  ⟨by unfold ConditionLaw; decide, by unfold ConditionLaw; decide, by unfold ConditionLaw; decide,
    by unfold ConditionLaw; decide⟩

theorem test_witness_CabSamplesRestartTheirTimers :
    let q : QualifiedInput := ⟨true, true, run, true, true⟩
    (∀ line ∈ [CabLine.run, .estop, .faultReset, .isolate],
      let s := lined line q (st .online)
      (s.cab.line line).stability.isRunning = true ∧ (s.cab.line line).qualifiedYet = true
        ∧ (s.cab.line line).sampled = (s.cab.line line).qualified)
      ∧ (first true).sampledYet = true ∧ QualifiedInput.atReset.sampledYet = false := by decide

theorem test_witness_ModeFollowsRunAndLayoverIsChecked :
    let s (b : Bool) (m : Mode) : State :=
      let q := lined .run (first b) (st .stopped)
      { q with cab := { q.cab with mode := m, layoverCheck := run } }
    ∀ b ∈ [true, false], ∀ m ∈ [Mode.service, .layover],
      (s b m).cab.run.stability.isRunning = true ∧ (s b m).cab.run.qualifiedYet = false
        ∧ (s b m).cab.run.sampled = b ∧ (s b m).cab.mode = m
        ∧ (s b m).cab.layoverCheck.isRunning = true := by decide

/-- ESTOP about to be qualified in every state, and the own claim in each phase that it ends. -/
theorem test_witness_EstopStopsTheEngine :
    let s (e : EngineState) (b : Bool) : State := lined .estop (changed b) (st e)
    (first false).qualifiedYet = false
      ∧ (s .online false).cab.estop.sampled ≠ (s .online false).cab.estop.qualified
      ∧ (∀ e ∈ [EngineState.prelube, .claimWait, .claimSettle, .cranking, .runup, .warmup, .online, .unloading,
            .cooldown],
          (s e true).seq.state.active = true ∧ (s e true).cab.estop.stability.isRunning = true
            ∧ (s e true).cab.estop.sampled = true)
      ∧ (claiming .settling .self (s .claimSettle true)).claim.phase = .settling
      ∧ (claiming .cranking .self (s .cranking true)).claim.phase = .cranking
      ∧ (claiming .wanted .none (s .claimWait true)).claim.phase = .wanted
      ∧ (slotted (.claimPending ⟨20, 1⟩) (claiming .offered .none (s .claimWait true))).claim.phase = .offered
      ∧ (slotted (.claimSending ⟨20, 1⟩ none false) (claiming .offered .none (s .claimWait true))).link.claimSlot
          = .claimSending ⟨20, 1⟩ none false := by decide

theorem test_witness_EstopAndIsolate_conditionLaw :
    (∀ e : EngineState, ConditionLaw (lined .estop (changed true) (st e)))
      ∧ ∀ e : EngineState, ConditionLaw (lined .isolate (changed true) (st e)) :=
  ⟨fun e => by unfold ConditionLaw; cases e <;> decide, fun e => by unfold ConditionLaw; cases e <;> decide⟩

/-- ISOLATE about to be qualified in every state; COOLDOWN and DWELL_DOWN at 0 and above it; notch 0 and 1. -/
theorem test_witness_IsolateLeadsOutOfService :
    let s (e : EngineState) (b : Bool) (notch cooldown : Nat) : State :=
      { notched notch 0 (lined .isolate (changed b) (st e)) with
        params := { Params.atReset with cooldown := cooldown } }
    (∀ e ∈ [EngineState.init, .isolated, .stopped, .prelube, .claimWait, .claimSettle, .cranking, .runup, .warmup,
          .online, .unloading, .cooldown, .stopping, .faulted], ∀ b ∈ [true, false],
        (s e b 0 0).seq.state = e ∧ (s e b 0 0).cab.isolate.sampled = b
          ∧ (s e b 0 0).cab.isolate.qualifiedYet = true
          ∧ (s e b 0 0).cab.isolate.stability.isRunning = true
          ∧ (s e b 0 0).cab.isolate.sampled ≠ (s e b 0 0).cab.isolate.qualified
          ∧ (s e b 0 0).cab.estop.qualified = false ∧ (s e b 0 0).mon.conditions = [])
      ∧ (s .online true 1 0).stepper.notch ≠ 0 ∧ (s .online true 0 1).params.cooldown ≠ 0
      ∧ (s .online true 0 0).params.cooldown = 0 ∧ (s .online true 1 0).params.dwellDown ≠ 0
      ∧ (claiming .settling .self (s .claimSettle true 0 0)).claim.phase = .settling
      ∧ (claiming .cranking .self (s .cranking true 0 0)).claim.phase = .cranking
      ∧ (claiming .wanted .none (s .claimWait true 0 0)).claim.phase = .wanted
      ∧ (slotted (.claimPending ⟨20, 1⟩) (claiming .offered .none (s .claimWait true 0 0))).claim.phase = .offered := by
  decide

/-- FAULT_RESET about to be qualified in FAULTED: with a member whose cause has gone, with one whose cause stands, at 29 and 30 rpm. -/
def resetting (m : Member) (speed : Nat) : State :=
  let s := lined .faultReset (first true) (holding [m] (st .faulted))
  { s with mon := { s.mon with speed := speed } }
theorem test_witness_FaultResetClearsAndEndsFaulted :
    let gone : Member := ⟨24, .shutdown, true, false, 0⟩
    let stay (m : Member) : List Member :=
      (resetting m 29).mon.conditions.filter fun m => !(m.latched && !m.cause && m.code != 34 && m.code != 35)
    (resetting gone 29).cab.faultReset.stability.isRunning = true
      ∧ (resetting gone 29).cab.faultReset.sampled = true ∧ (resetting gone 29).seq.state = .faulted
      ∧ (resetting gone 29).mon.speed < 30 ∧ 30 ≤ (resetting gone 30).mon.speed
      ∧ (stay gone).any (fun m => m.stopCause || m.code == 34 || m.code == 35) = false
      ∧ (stay (mem 22 .shutdown true)).any (fun m => m.stopCause || m.code == 34 || m.code == 35) = true := by
  decide
theorem test_witness_FaultReset_conditionLaw : ConditionLaw (resetting ⟨24, .shutdown, true, false, 0⟩ 29) := by
  unfold ConditionLaw; decide

/-- Codes 0, 8, 9 and 15 about to be qualified in each state of the decoder; the invalid-code timer's end. -/
theorem test_witness_DemandFollowsTheThrottleCode :
    let s (code : Nat) (last : Option Nat) (d : DecoderState) : State :=
      { st .online with cab := { State.reset.cab with
          codeStability := run, sampledCode := code, qualifiedCode := last, decoder := d, invalidCode := run } }
    (s 8 (some 8) .valid).cab.qualifiedCode = some (s 8 (some 8) .valid).cab.sampledCode
      ∧ (∀ code ∈ [0, 8, 9, 15], (s code (some 4) .valid).cab.qualifiedCode
            ≠ some (s code (some 4) .valid).cab.sampledCode
          ∧ (s code (some 4) .valid).cab.codeStability.isRunning = true)
      ∧ (s 9 none .unqualified).cab.source = .default ∧ (s 9 none .unqualified).cab.decoder = .unqualified
      ∧ (s 9 (some 10) .invalidPeers).cab.decoder = .invalidPeers
      ∧ (s 9 (some 10) .invalidHold).cab.decoder = .invalidHold
      ∧ (s 9 (some 10) .invalidHold).cab.invalidCode.isRunning = true := by decide

/-- The line SETTLING one bit short of nine and at nine, with a frame on it at seven and past it; IN_FRAME with a frame past its
priority field and before it. -/
theorem test_witness_FramesAreStarted_line :
    let l (x : LineState) (bits : Nat) : State :=
      { st .online with link := { (st .online).link with line := x, releasedBits := bits } }
    let carrying (x : LineState) (bits : Nat) : State :=
      { l x bits with link := { (l x bits).link with filling := some 0 } }
    (¬ (l .settling 7).link.carriesFrame ∧ (l .settling 7).link.releasedBits + 1 < 9
        ∧ 9 ≤ (l .settling 7).link.releasedBits + 2)
      ∧ ((carrying .settling 3).link.carriesFrame ∧ (carrying .settling 3).link.releasedBits + 4 ≤ 7
        ∧ 7 < (carrying .settling 3).link.releasedBits + 5)
      ∧ ((carrying .inFrame 0).link.line = .inFrame ∧ (carrying .inFrame 0).link.carriesFrame)
      ∧ ((l .inFrame 0).link.line = .inFrame ∧ ¬ (l .inFrame 0).link.carriesFrame)
      ∧ (sending .status (st .online)).link.carriesFrame := by decide

/-- The line in its three states; each candidate in the slots; no candidate. -/
theorem test_witness_FramesAreStartedByPriority :
    let s := st .online
    let l (x : LineState) : State := { s with link := { s.link with line := x } }
    (l .settling).link.line = .settling ∧ (l .idle).link.line = .idle
      ∧ (l .inFrame).link.line = .inFrame ∧ (l .inFrame).link.sending = none
      ∧ s.link.sending = none ∧ s.link.txEnabled = true ∧ s.link.linkFault = false
      ∧ (slotted (.claimPending ⟨250, 5⟩) s).link.claimSlot = .claimPending ⟨250, 5⟩
      ∧ (slotted (.releasePending .abandoned) s).link.claimSlot = .releasePending .abandoned
      ∧ s.link.claimSlot.isPending = false ∧ s.withMark.link.statusMarked = true
      ∧ s.withMark.link.spacing = .expired ∧ s.withMark.link.firstHeartbeat = true ∧ s.link.statusMarked = false
      ∧ ({ s.withMark.link with firstHeartbeat := false } : LinkUnit).firstHeartbeat = false
      ∧ ({ s with link := { s.link with replySlot := some ⟨1, 0, []⟩ } } : State).link.replySlot
          = some ⟨1, 0, []⟩
      ∧ s.link.replySlot = none := by decide

/-- A CLAIM sending with its withdrawal held; a STATUS sending at six, seven and eight errors; the hold-off. -/
theorem test_witness_FailedFramesWaitAgainAndAreCounted :
    let claimed := claiming .lapsed .none (sending .claim (slotted (.claimSending ⟨20, 1⟩ none true) (st .claimWait)))
    let s (n : Nat) : State :=
      let q := sending .status (st .online)
      { q with link := { q.link with bitErrors := n, linkFault := n == 8, holdOff := run } }
    claimed.link.sending = some ⟨.claim, buildFrame 2 3 []⟩
      ∧ claimed.link.claimSlot = .claimSending ⟨20, 1⟩ none true ∧ claimed.claim.phase = .lapsed
      ∧ claimed.link.disablePending = false
      ∧ (∀ n ∈ [6, 7, 8], (s n).link.sending = some ⟨.status, buildFrame 2 3 []⟩
          ∧ (s n).claim.phase ≠ .lapsed ∧ (s n).link.slotSends = true)
      ∧ (s 6).link.bitErrors + 1 < 8 ∧ 8 ≤ (s 7).link.bitErrors + 1 ∧ (s 8).link.linkFault = true
      ∧ (∀ n ∈ [6, 7, 8], ∀ fault ∈ [true, false], ∀ need ∈ [true, false], ∀ alone ∈ [true, false],
          let q : State := { claimed with
            link := { claimed.link with bitErrors := n, linkFault := fault }
            claim := { claimed.claim with needStands := need }, view := { claimed.view with alone := alone } }
          q.link.claimSlot = .claimSending ⟨20, 1⟩ none true ∧ q.claim.phase = .lapsed
            ∧ q.link.disablePending = false ∧ q.link.sending = some ⟨.claim, buildFrame 2 3 []⟩)
      ∧ hasCode (s 7).mon.conditions 36 = false ∧ (s 7).view.alone = false
      ∧ (st .claimWait).seq.state = .claimWait ∧ (s 8).link.holdOff.isRunning = true := by decide

/-- Each kind in transmission, in NORMAL and in LINK_FAULT. -/
theorem test_witness_CompletionsFreeTheirSlots :
    let q : Request := ⟨1, 0⟩
    let offered := claiming .offered .none (sending .claim (slotted (.claimSending ⟨20, 1⟩ none false) (st .claimWait)))
    let lapsed := claiming .lapsed .none (sending .claim (slotted (.claimSending ⟨20, 1⟩ none true) (st .claimWait)))
    let faulty : State :=
      let s := sending .status (holding [mem 36 .alarm false] (st .online))
      { s with link := { s.link with linkFault := true, bitErrors := 8 } }
    (sending .status (st .online)).link.sending = some ⟨.status, buildFrame 2 3 []⟩
      ∧ (sending .reply (st .online)).mailbox = none
      ∧ ({ sending .reply (st .online) with mailbox := some q } : State).mailbox = some q
      ∧ (sending .release (slotted (.releaseSending .fired) (st .online))).link.claimSlot = .releaseSending .fired
      ∧ lapsed.link.claimSlot = .claimSending ⟨20, 1⟩ none true ∧ lapsed.claim.phase = .lapsed
      ∧ offered.link.claimSlot = .claimSending ⟨20, 1⟩ none false ∧ offered.claim.phase = .offered
      ∧ offered.seq.state = .claimWait ∧ NoStandingCause offered ∧ offered.link.txEnabled = true
      ∧ offered.link.linkFault = false ∧ offered.link.disablePending = false
      ∧ faulty.link.linkFault = true ∧ faulty.mon.conditions = [⟨36, .alarm, false, true, 0⟩]
      ∧ faulty.view.everSeen = false
      ∧ (∀ m ∈ faulty.mon.conditions, m.code = 36 → m.latched = false)
      ∧ (∀ x ∈ [offered, lapsed, sending .release (slotted (.releaseSending .fired) (st .online)),
            sending .reply (st .online)],
          let x : State := { holding [mem 36 .alarm false] x with
            link := { x.link with linkFault := true, bitErrors := 8 }, view := { x.view with everSeen := true } }
          x.link.linkFault = true ∧ x.view.everSeen = true ∧ x.link.sending.isSome = true
            ∧ x.mon.conditions = [⟨36, .alarm, false, true, 0⟩] ∧ x.link.disablePending = false)
      ∧ (let waited : State := { holding [mem 18 .alarm true, ⟨36, .alarm, false, true, 1000⟩] faulty with
            view := { faulty.view with everSeen := true } }
        waited.link.linkFault = true ∧ waited.view.everSeen = true
          ∧ waited.link.sending = some ⟨.status, buildFrame 2 3 []⟩
          ∧ (holding [⟨36, .alarm, false, true, 1000⟩] waited).mon.conditions
              = [⟨36, .alarm, false, true, 1000⟩]
          ∧ ∀ m ∈ waited.mon.conditions, m.code = 36 → m.latched = false)
      ∧ (let off : State := { faulty with link := { faulty.link with
            linkFault := false, bitErrors := 0, txEnabled := false, disablePending := true } }
        off.link.disablePending = true ∧ off.link.txEnabled = false ∧ off.link.linkFault = false
          ∧ off.mailbox = none ∧ off.link.sending = some ⟨.status, buildFrame 2 3 []⟩)
      ∧ ({ faulty with view := { faulty.view with everSeen := true } } : State).view.everSeen = true := by decide

set_option maxRecDepth 20000 in
/-- Good and bad frames in a buffer, one received into nothing, a frame being applied. -/
theorem test_witness_FramesGoThroughThePool :
    let s := st .online
    let filling : State := { s with link := { s.link with filling := some 7, freeList := [0, 1, 2, 3, 4, 5, 6] } }
    let offered := claiming .offered .none (slotted (.claimPending ⟨20, 1⟩) filling)
    filling.link.filling = some 7
      ∧ goodFrame { buildFrame 0 5 [20, 1] with check := 0 } = false
      ∧ goodFrame (buildFrame 0 5 [20, 1]) = true ∧ goodFrame (buildFrame 1 5 [1]) = true
      ∧ (buildFrame 1 5 [1]).kind ≠ 0 ∧ (buildFrame 0 5 [20, 1]).kind = 0
      ∧ (buildFrame 0 5 [20, 1]).source.toNat ≠ offered.load.station
      ∧ offered.link.claimSlot = .claimPending ⟨20, 1⟩ ∧ offered.claim.phase = .offered
      ∧ ({ s with link := { s.link with intoNothing := true } } : State).link.intoNothing = true
      ∧ s.link.filling = none ∧ s.link.heartbeat.isRunning = true
      ∧ ({ s.link with spacing := run } : LinkUnit).spacing.isRunning = true
      ∧ ({ s.link with applying := some 0 } : LinkUnit).applying = some 0
      ∧ takenUp.link.headTaken = true ∧ takenUp.link.postList = [0]
      ∧ s.takesUp false = true
      ∧ ({ s with alloc := { s.alloc with reEvaluate := true } } : State).takesUp false = false
      ∧ ({ s with alloc := { s.alloc with phase := .inPass } } : State).takesUp false = false := by decide

/-- Each request; the mailbox and the reply slot free and in use; a REQUEST frame for this station and for another. -/
theorem test_witness_RequestsAreTakenOrDiscarded :
    let s := st .online
    let used : State := { s with link := { s.link with replySlot := some ⟨1, 0, []⟩ }, mailbox := some ⟨1, 0⟩ }
    let frame (n : Nat) := posted (buildFrame 3 0 [byteOf n, 1, 0]) s
    (Instr.badCode 255 7, (⟨255, 7⟩ : Request)) ∈ [(Instr.readSelf 7, (⟨1, 7⟩ : Request)),
        (.readPeer 7, ⟨2, 7⟩), (.readConditions 7, ⟨3, 7⟩), (.readFaultRecord 7, ⟨4, 7⟩),
        (.readHours 7, ⟨5, 7⟩), (.readInputs 7, ⟨6, 7⟩), (.badCode 255 7, ⟨255, 7⟩)]
      ∧ s.load.station ≠ 0 ∧ s.link.txEnabled = true ∧ s.mailbox = none ∧ s.link.replySlot = none
      ∧ used.link.replySlot ≠ none ∧ used.mailbox ≠ none ∧ State.reset.link.txEnabled = false
      ∧ (∀ n ∈ [3, 4], (frame n).frameDue = true ∧ (frame n).link.postList = [0]
          ∧ (frame n).link.buffers[(0 : Fin 8)].source = 0
          ∧ (frame n).link.buffers[(0 : Fin 8)].data.length = 3
          ∧ dataByte (frame n).link.buffers[(0 : Fin 8)].data 1 = n) := by decide

/-- A frame of a peer or of this station at the head of the post list. -/
def heardFrom (n kind : Nat) (data : List Byte) (s : State) : State := posted (buildFrame kind n data) s

theorem test_witness_PeerFramesUpdateTheTable :
    (∀ n ∈ [1, 7],
        let s := heardFrom n 2 (encodeStatus (aRecord .online 700 18)) (st .online)
        let r := heardFrom n 4 [1, 0] (st .online)
        s.frameDue = true ∧ s.link.postList = [0] ∧ s.link.buffers[(0 : Fin 8)].source.toNat = n
          ∧ s.load.station ≠ n ∧ s.link.buffers[(0 : Fin 8)].kind = 2
          ∧ decodeStatus s.link.buffers[(0 : Fin 8)].data = some (aRecord .online 700 18)
          ∧ r.link.buffers[(0 : Fin 8)].kind = 4 ∧ (r.view.entry 6).presence ≠ .present)
      ∧ (lawful.view.entry 0).presence = .present ∧ (st .online).claim.holder ≠ .peer 1
      ∧ (st .online).claim.phase ≠ .wanted ∧ (st .online).cab.decoder ≠ .invalidPeers
      ∧ ({ (st .online).cab with decoder := .invalidPeers } : CabUnit).decoder = .invalidPeers := by decide

theorem test_witness_OwnNumberHeardDisablesTheTransmitter :
    ∀ e ∈ [EngineState.init, .isolated, .stopped, .cranking, .stopping, .faulted, .online],
      let s := notched 1 0 (heardFrom 3 4 [1, 0] (st e))
      s.frameDue = true ∧ s.link.postList = [0] ∧ s.link.buffers[(0 : Fin 8)].source.toNat = s.load.station
        ∧ s.load.station ≠ 0 ∧ s.seq.state = e ∧ hasCode s.mon.conditions 34 = false
        ∧ s.stepper.notch ≠ 0 ∧ s.params.dwellDown ≠ 0 ∧ s.cab.estop.qualified = false
        ∧ ∀ m ∈ s.mon.conditions, m.cls ≠ .shutdown := by decide

/-- A running engine with no notch above 0, with a cool-down and without one; the stop path. -/
theorem test_witness_OwnNumberHeard_running :
    ∀ e ∈ [EngineState.runup, .warmup, .online, .unloading, .cooldown],
      let s := notched 0 0 (heardFrom 3 4 [1, 0] (st e))
      let long : State := { s with params := { s.params with cooldown := 300 } }
      let none : State := { s with params := { s.params with cooldown := 0 } }
      s.frameDue = true ∧ s.link.postList = [0] ∧ s.link.buffers[(0 : Fin 8)].source.toNat = s.load.station
        ∧ s.seq.state = e ∧ hasCode s.mon.conditions 34 = false ∧ s.stepper.notch = 0
        ∧ s.cab.estop.qualified = false ∧ (∀ m ∈ s.mon.conditions, m.cls ≠ .shutdown)
        ∧ long.params.cooldown ≠ 0 ∧ none.params.cooldown = 0 := by decide
theorem test_witness_OwnNumberHeard_conditionLaw :
    ConditionLaw { notched 0 0 (heardFrom 3 4 [1, 0] (st .runup)) with
      params := { Params.atReset with cooldown := 0 } } := by
  unfold ConditionLaw; decide

/-- With a frame in transmission; with a claim OFFERED, and LAPSED with its CLAIM sending; a start that is cancelled, the claim settling;
a second such frame. -/
theorem test_witness_OwnNumberHeard_claims :
    let heard (s : State) : State := posted (buildFrame 4 3 [1, 0]) s
    let offered (e : EngineState) := claiming .offered .none (heard (slotted (.claimPending ⟨20, 1⟩) (st e)))
    let lapsed (e : EngineState) :=
      claiming .lapsed .none (sending .claim (heard (slotted (.claimSending ⟨20, 1⟩ none true) (st e))))
    let settling := claiming .settling .self (heard (st .claimSettle))
    let second : State :=
      let q := holding [mem 34 .stop true] (heard (st .stopped))
      { q with link := { q.link with txEnabled := false, heartbeat := .stopped } }
    ((sending .status (heard (st .online))).link.sending.isSome = true
        ∧ (sending .status (heard (st .online))).frameDue = true)
      ∧ (∀ e ∈ [EngineState.stopped, .claimWait], (offered e).frameDue = true
          ∧ (offered e).claim.phase = .offered ∧ (lapsed e).frameDue = true
          ∧ (lapsed e).claim.phase = .lapsed ∧ (lapsed e).link.sending.isSome = true
          ∧ hasCode (lapsed e).mon.conditions 34 = false)
      ∧ (settling.frameDue = true ∧ settling.seq.state = .claimSettle ∧ settling.claim.phase = .settling)
      ∧ (claiming .wanted .none (heard (st .claimWait))).claim.phase = .wanted
      ∧ (heard (st .prelube)).seq.state = .prelube
      ∧ second.frameDue = true ∧ hasCode second.mon.conditions 34 = true ∧ second.link.txEnabled = false
      ∧ second.link.disablePending = false ∧ second.link.sending = none ∧ second.link.claimSlot = .empty
      ∧ second.link.statusMarked = false ∧ second.link.replySlot = none
      ∧ second.link.heartbeat = .stopped ∧ second.mailbox = none ∧ second.claim.phase ≠ .offered := by decide

/-- A peer whose age timer runs, alone in the table and beside another; in a pass and out of one. -/
theorem test_witness_AgedPeersAreLost :
    let e : PeerEntry := ⟨.present, run, false, some (aRecord .online 700 18), false⟩
    let s (both : Bool) : State :=
      let q := st .prelube
      { q with view := { q.view with
          everSeen := true
          peers := if both then (q.view.peers.set 0 e).set 6 e else q.view.peers.set 0 e } }
    ((s true).view.entry 0).age.isRunning = true ∧ (s true).view.everSeen = true
      ∧ ((s true).view.entry 6).presence = .present
      ∧ (∀ j : Fin 7, j ≠ 0 → ((s false).view.entry j).presence ≠ .present)
      ∧ (s false).view.alone = false ∧ (s false).seq.state = .prelube ∧ (st .claimWait).seq.state = .claimWait
      ∧ (st .online).seq.state ≠ .prelube ∧ (s false).cab.decoder ≠ .invalidPeers
      ∧ (s false).alloc.phase = .ready ∧ (fourStations 6 .online .online).alloc.phase = .inPass := by decide

/-- CLAIM, RELEASE and STATUS of station 1 and of station 7, by each holder; SETTLING against a lower station. -/
theorem test_witness_PeerClaimsAreRecorded :
    let held : StatusRecord := { aRecord .cranking 700 18 with claimHeld := true, claimRemaining := 255 }
    let settling := claiming .settling .self (st .claimSettle)
    (∀ n ∈ [1, 7],
        let c := heardFrom n 0 [20, 1] (st .online)
        c.frameDue = true ∧ c.link.postList = [0] ∧ c.link.buffers[(0 : Fin 8)].source.toNat = n
          ∧ c.load.station ≠ n ∧ c.link.buffers[(0 : Fin 8)].kind = 0
          ∧ decodeClaim c.link.buffers[(0 : Fin 8)].data = some ⟨20, 1⟩)
      ∧ decodeStatus (buildFrame 2 1 (encodeStatus held)).data = some held
      ∧ decodeStatus (buildFrame 2 1 (encodeStatus (aRecord .online 0 0))).data = some (aRecord .online 0 0)
      ∧ (buildFrame 1 1 [1]).kind = 1 ∧ settling.claim.phase = .settling ∧ settling.claim.holder = .self
      ∧ 1 < settling.load.station ∧ settling.load.station ≤ 7 ∧ settling.seq.state = .claimSettle
      ∧ NoStandingCause settling ∧ settling.view.alone = false
      ∧ (claiming .idle (.peer 1) (st .online)).claim.holder = .peer 1
      ∧ (st .online).view.alone = false
      ∧ (let alone : State := { st .online with view := { (st .online).view with alone := true } }
        alone.view.alone = true ∧ alone.claim.phase ≠ .wanted
          ∧ ({ alone.link with linkFault := true } : LinkUnit).linkFault = true)
      ∧ (slotted (.claimPending ⟨20, 1⟩) (claiming .offered .none (st .claimWait))).claim.phase = .offered := by
  decide

theorem test_witness_PassesTakeASnapshotAndPublish :
    let ready : State := { st .online with alloc := { (st .online).alloc with
      reEvaluate := true, listen := run, evaluation := run } }
    let ending (e : EngineState) : State := { fourStations 6 .online .online with seq := (st e).seq }
    ready.alloc.listen.isRunning = true ∧ ready.alloc.evaluation.isRunning = true
      ∧ ready.alloc.phase = .ready ∧ ready.alloc.reEvaluate = true ∧ ready.link.applying = none
      ∧ ready.link.draining = false ∧ (st .online).alloc.reEvaluate = false
      ∧ ready.link.headTaken = false ∧ takenUp.link.headTaken = true
      ∧ (ending .init).alloc.phase = .inPass ∧ (ending .init).nothingHeld
      ∧ (ending .warmup).seq.state = .warmup
      ∧ (ready.load.station = (2 : Fin 7).val + 1 ∧ ready.load.station ≠ (6 : Fin 7).val + 1) := by decide

/-- The end of a pass in each state that it acts on: ranked in (notch 6), ranked out (the demand at 0 and the station of the
highest rank number), confirmed for a cold run; a notch below, at and above the target. -/
def passEnding (e : EngineState) (r3 : EngineState) (n notch count : Nat) : State :=
  let q := fourStations n r3 .stopped
  { q with
    seq := { q.seq with state := e, stopReason := .allocation }
    stepper := ⟨notch, ⟨true, count, false, false⟩, none⟩
    alloc := { q.alloc with stopDelay := .expired }
    cab := { q.cab with mode := .service } }
theorem test_witness_PassEndsStartAndStopTheEngine :
    (passEnding .stopped .stopped 6 0 0).passResults.rankedIn = true
      ∧ (passEnding .stopped .stopped 6 0 0).passResults.selfEligible = true
      ∧ (passEnding .stopped .stopped 6 0 0).params.prelubeTime = 0
      ∧ ({ caseParams with prelubeTime := 120 } : Params).prelubeTime ≠ 0
      ∧ (passEnding .stopped .stopped 0 0 0).passResults.rankedIn = false
      ∧ (passEnding .stopped .stopped 0 0 0).passResults.coldRunConfirmed = false
      ∧ (∀ e ∈ [EngineState.stopped, .prelube, .claimWait, .claimSettle, .unloading, .cooldown, .online],
          (passEnding e e 6 0 0).seq.state = e ∧ (passEnding e e 6 0 0).alloc.phase = .inPass
            ∧ (passEnding e e 6 0 0).nothingHeld ∧ NoStandingCause (passEnding e e 6 0 0)
            ∧ (passEnding e e 6 0 0).view.alone = false ∧ (passEnding e e 6 0 0).claim.phase = .idle)
      ∧ (claiming .settling .self (passEnding .claimSettle .claimSettle 6 0 0)).claim.phase = .settling
      ∧ (passEnding .unloading .unloading 6 0 0).passResults.rankedIn = true
      ∧ (passEnding .unloading .unloading 6 0 0).seq.stopReason = .allocation
      ∧ (passEnding .unloading .unloading 6 0 199).stepper.dwell.count
          < (passEnding .unloading .unloading 6 0 199).params.dwellDown * 100
      ∧ (passEnding .online .stopped 0 1 0).passResults.rankedIn = false
      ∧ (passEnding .online .stopped 0 1 0).delayAfter (passEnding .online .stopped 0 1 0).passResults = .expired
      ∧ (passEnding .online .stopped 0 1 0).seq.minRun = .expired
      ∧ (passEnding .online .online 6 0 500).passResults.target = 6
      ∧ (passEnding .online .online 6 0 500).params.dwellUp * 100
          ≤ (passEnding .online .online 6 0 500).stepper.dwell.count
      ∧ (passEnding .online .online 6 7 200).params.dwellDown * 100
          ≤ (passEnding .online .online 6 7 200).stepper.dwell.count
      ∧ (passEnding .online .online 6 6 0).stepper.notch = 6
      ∧ (passEnding .online .online 6 5 499).stepper.dwell.count
          < (passEnding .online .online 6 5 499).params.dwellUp * 100 := by decide

/-- Not ranked in, and R17 does not hold: the stop delay runs, the minimum-run timer runs, or the station is ALONE; with load to shed
and with none; the stop in LAYOVER; the steps of UNLOADING and of COOLDOWN. -/
theorem test_witness_PassEnds_noStop :
    let s := passEnding .online .stopped 0 1 200
    let waits (q : State) : Prop := q.alloc.phase = .inPass ∧ q.nothingHeld ∧ q.seq.state = .online
      ∧ q.published.alloc.results.rankedIn = false
    let delayed : State := { s with alloc := { s.alloc with stopDelay := run } }
    let early : State := { s with seq := { s.seq with minRun := run } }
    let alone : State := { s with view := { s.view with alone := true } }
    (waits delayed ∧ delayed.published.alloc.stopDelay ≠ .expired)
      ∧ (waits early ∧ early.published.seq.minRun ≠ .expired)
      ∧ (waits alone ∧ alone.published.view.alone = true)
      ∧ (delayed.params.dwellDown * 100 ≤ delayed.stepper.dwell.count
        ∧ delayed.published.alloc.results.target < delayed.stepper.notch)
      ∧ (let rest : State := { s with cab := { s.cab with mode := .layover }
                                      alloc := { s.alloc with snapshot := { s.alloc.snapshot with mode := .layover } } }
        rest.published.cab.mode = .layover ∧ rest.published.alloc.results.rankedIn = false
          ∧ rest.published.alloc.results.coldRunConfirmed = false ∧ rest.published.seq.minRun = .expired)
      ∧ ((passEnding .unloading .stopped 0 2 200).passResults.rankedIn = false
        ∧ (passEnding .cooldown .stopped 0 0 0).passResults.rankedIn = false) := by decide

theorem test_witness_StartSequenceMovesOn :
    let on : Params := { Params.atReset with prelubeRequired := true }
    let settling := { claiming .settling .self (st .claimSettle) with
      claim := { State.reset.claim with settle := run, phase := .settling, holder := .self } }
    let firing : State :=
      let q := claiming .cranking .self (st .cranking)
      { q with seq := { q.seq with fireConfirm := run } }
    (st .prelube).seq.state = .prelube ∧ (st .prelube).params.prelubeRequired = false
      ∧ NoStandingCause (st .prelube) ∧ (st .prelube).claim.phase = .idle ∧ on.prelubeRequired = true
      ∧ hasCode (st .prelube).mon.conditions 27 = false ∧ settling.claim.settle.isRunning = true
      ∧ settling.seq.state = .claimSettle ∧ settling.cab.estop.qualified = false
      ∧ settling.cab.isolate.qualified = false ∧ (∀ m ∈ settling.mon.conditions, m.cls ≠ .shutdown)
      ∧ settling.claim.phase = .settling ∧ (st .online).claim.settle.isRunning = false
      ∧ (claiming .cranking .self settling).claim.settle.isRunning = true
      ∧ (claiming .cranking .self settling).claim.phase ≠ .settling ∧ firing.seq.state = .cranking
      ∧ firing.seq.fireConfirm.isRunning = true ∧ firing.claim.phase = .cranking ∧ NoStandingCause firing := by
  decide

/-- The last attempt and one before it; the heat at the trip; CRANK commanded on without its feedback. -/
theorem test_witness_CrankAttemptsFailThreeWays :
    let s (attempts limit : Nat) : State :=
      let q := claiming .cranking .self (st .cranking)
      { q with
        seq := { q.seq with attempts := attempts }
        params := { q.params with maxAttempts := limit, heatTrip := 1, heatInc := 1 }
        out := { q.out with crank := true } }
    (s 0 2).seq.state = .cranking ∧ (s 0 2).claim.phase = .cranking
      ∧ (s 0 2).seq.attempts + 1 < (s 0 2).params.maxAttempts ∧ NoStandingCause (s 0 2)
      ∧ (s 1 2).params.maxAttempts ≤ (s 1 2).seq.attempts + 1 ∧ hasCode (s 1 2).mon.conditions 24 = false
      ∧ (s 0 2).claim.heatTimer.isRunning = true
      ∧ (s 0 2).params.heatTrip ≤ min 65535 ((s 0 2).claim.heat
          - (s 0 2).claim.heat * (s 0 2).params.heatDecay / 4096 + (s 0 2).params.heatInc)
      ∧ (s 0 2).out.crankProving.timer.isRunning = true ∧ (s 0 2).out.crank = true
      ∧ (s 0 2).out.crankProving.feedback.matchesCommand true = false
      ∧ hasCode (s 0 2).mon.conditions 28 = false := by decide

theorem test_witness_RunningSequenceMovesOn :
    let warm (celsius : Int) (timer longest : Nat) : State :=
      let q := st .warmup
      { q with
        seq := { q.seq with stateTimer := timer }
        mon := { q.mon with coolant := ⟨500, [celsius], celsius, false⟩ }
        params := { q.params with warmMax := longest }
        alloc := { q.alloc with results := { q.alloc.results with rankedIn := true } } }
    (st .runup).seq.state = .runup ∧ hasCode (st .runup).mon.conditions 25 = false
      ∧ (((warm 20 0 60).params.tWarm : Int) ≤ (warm 20 0 60).mon.coolant.value)
      ∧ (warm 19 0 60).mon.coolant.value < (warm 19 0 60).params.tWarm
      ∧ max (warm 19 59999 60).seq.stateTimer ((warm 19 59999 60).params.warmMin * 1000) < 60 * 1000
      ∧ 60 * 1000 ≤ max (warm 19 60000 60).seq.stateTimer ((warm 19 60000 60).params.warmMin * 1000)
      ∧ (warm 20 0 60).params.warmMin ≤ (warm 20 0 60).params.warmMax ∧ NoStandingCause (warm 20 0 60)
      ∧ (warm 20 0 60).allocationStop = false ∧ (warm 20 0 60).params.dwellUp ≠ 0
      ∧ (warm 20 0 60).params.dwellDown ≠ 0 ∧ (st .cooldown).seq.state = .cooldown
      ∧ (st .stopping).seq.state = .stopping ∧ hasCode (st .stopping).mon.conditions 26 = false
      ∧ (st .online).seq.state ≠ .prelube := by decide
theorem test_witness_RunningSequence_conditionLaw : ConditionLaw (st .cooldown) := by
  unfold ConditionLaw; decide

/-- The timers about to expire with the stop's conditions met in SERVICE, at notch 0 and 1; a step up, a step down, the last one. -/
def stopping (notch count cooldown : Nat) (e : EngineState) : State :=
  let q := notched notch count (st e)
  { q with
    seq := { q.seq with minRun := .expired }
    alloc := { q.alloc with stopDelay := .expired }
    cab := { q.cab with mode := .service }
    params := { q.params with cooldown := cooldown } }
theorem test_witness_OnlineEngineStepsAndStops :
    (stopping 1 0 0 .online).stopsByAllocation ∧ (stopping 0 0 1 .online).stopsByAllocation
      ∧ ¬ (st .stopped).stopsByAllocation ∧ ConditionLaw (stopping 0 0 0 .online)
      ∧ (NoStandingCause (stopping 1 0 0 .online) ∧ (stopping 1 0 0 .online).params.dwellDown ≠ 0
        ∧ (stopping 1 0 0 .online).stepper.notch ≠ 0 ∧ (stopping 0 0 1 .online).params.cooldown ≠ 0
        ∧ (stopping 0 0 0 .online).params.cooldown = 0
        ∧ ({ (st .online).seq with minRun := run } : Sequencer).minRun.isRunning = true
        ∧ ({ (st .online).alloc with stopDelay := run } : Allocator).stopDelay.isRunning = true
        ∧ (stopping 1 0 1 .unloading).stepper.dwell.running = true
        ∧ (stopping 1 0 1 .unloading).stepper.dwell.upGiven = false
        ∧ (stopping 1 0 1 .unloading).stepper.dwell.downGiven = false
        ∧ (stopping 1 200 1 .unloading).params.dwellDown * 100 ≤ (stopping 1 200 1 .unloading).stepper.dwell.count
        ∧ (walking 0 6 3000).stepper.notch < (walking 0 6 3000).alloc.results.target
        ∧ (walking 0 6 3000).params.dwellUp * 100 ≤ (walking 0 6 3000).stepper.dwell.count
        ∧ (walking 0 6 3000).stepper.dwell.upGiven = false
        ∧ (walking 0 6 2990).stepper.dwell.count < (walking 0 6 2990).params.dwellUp * 100
        ∧ (walking 7 6 1490).stepper.dwell.count < (walking 7 6 1490).params.dwellDown * 100
        ∧ (let given : State := { walking 0 6 3000 with stepper := ⟨0, ⟨true, 3000, true, true⟩, none⟩ }
          given.stepper.dwell.upGiven = true ∧ given.stepper.dwell.downGiven = true)
        ∧ (st .stopped).stepper.dwell.running = false) := by
  refine ⟨?_, ?_, ?_, ?_, ?_⟩
  · unfold State.stopsByAllocation; decide
  · unfold State.stopsByAllocation; decide
  · unfold State.stopsByAllocation; decide
  · unfold ConditionLaw; decide
  · decide

theorem test_witness_ClaimTimersEndAndOffer :
    let c (p : ClaimPhase) : ClaimUnit := { State.reset.claim with
      phase := p, lease := run, recovery := run, holder := .peer 1 }
    (c .wanted).lease.isRunning = true ∧ (c .wanted).recovery.isRunning = true
      ∧ ({ (st .claimWait).seq with rest := run } : Sequencer).rest.isRunning = true
      ∧ (c .wanted).heatTimer.isRunning = true ∧ (c .wanted).phase = .wanted ∧ (c .idle).phase ≠ .wanted
      ∧ (c .idle).phase ≠ .cranking := by decide

/-- Readings at the ends of the band and beyond them; a channel in fault with three samples and with two; each channel's clauses at
their limits. -/
theorem test_witness_AnalogSamplesFillTheirWindows :
    let s (e : EngineState) (p : RunPhase) (fault : Bool) : State :=
      let q := st e
      { q with mon := { q.mon with
          runPhase := p, coolant := ⟨500, [88, 88, 88], 88, fault⟩, oil := ⟨64, [0, 0, 0], 0, fault⟩ } }
    63 < 64 ∧ 960 < 961 ∧ 64 ≤ 64 ∧ 960 ≤ 960
      ∧ 4 ≤ (windowWith (s .online .run true).mon.coolant.window 88).length
      ∧ (windowWith [88, 88] 88).length < 4
      ∧ (s .online .run true).mon.coolant.fault = true ∧ (s .online .run false).mon.coolant.fault = false
      ∧ hasCode (s .online .run false).mon.conditions 16 = false
      ∧ (∀ m ∈ (holding [mem 16 .alarm false] (s .online .run true)).mon.conditions, m.code = 16 → m.latched = false)
      ∧ (s .online .run false).mon.runPhase = .run ∧ hasCode (s .online .run false).mon.conditions 21 = false
      ∧ (s .prelube .notRun false).seq.state = .prelube ∧ (s .prelube .notRun false).mon.runPhase ≠ .run
      ∧ NoStandingCause (s .prelube .notRun false) ∧ (s .prelube .notRun false).claim.phase = .idle
      ∧ sampleOf .oil 108 < (Params.atReset.oilMinRun : Int) ∧ ((Params.atReset.oilMinRun : Int) ≤ sampleOf .oil 109)
      ∧ sampleOf .oil 72 < (Params.atReset.prelubePressure : Int)
      ∧ ((Params.atReset.prelubePressure : Int) ≤ sampleOf .oil 73)
      ∧ (s .online .run false).loaded = true ∧ (s .online .run false).seq.state ≠ .warmup
      ∧ sampleOf .coolant 606 < (Params.atReset.tTrip : Int) ∧ ((Params.atReset.tTrip : Int) ≤ sampleOf .coolant 607)
      ∧ hasCode (s .online .run false).mon.conditions 19 = false
      ∧ hasCode (s .online .run false).mon.conditions 20 = false
      ∧ ((Params.atReset.tTrip : Int) + 5 ≤ sampleOf .coolant 630)
      ∧ (s .warmup .grace false).seq.state = .warmup ∧ NoStandingCause (s .warmup .grace false) := by decide
theorem test_witness_AnalogSamples_warmup :
    let q := st .warmup
    ({ q with alloc := { q.alloc with results := { q.alloc.results with rankedIn := true } } } :
      State).allocationStop = false := by decide

/-- Pulses at and below each limit; the last window, minute and hour. -/
theorem test_witness_SpeedValuesCountAndProtect :
    let s (e : EngineState) (windows minutes hours : Nat) : State :=
      let q := st e
      { q with
        load := { q.load with runningWindows := windows, hours := hours }
        ret := { q.ret with minutes := minutes }
        mon := { q.mon with stall := run, grace := run } }
    let rpm (pulses : Nat) : Nat := min 3000 (pulses * 600 / Params.atReset.teeth)
    rpm 5 = Params.atReset.fireSpeed ∧ rpm 4 < Params.atReset.fireSpeed ∧ rpm 50 = Params.atReset.overspeed
      ∧ rpm 49 < Params.atReset.overspeed ∧ rpm 151 = 3000
      ∧ rpm 18 * 10 = Params.atReset.idleSpeed * 9 ∧ rpm 17 * 10 < Params.atReset.idleSpeed * 9
      ∧ rpm 1 < 30 ∧ 30 ≤ rpm 2 ∧ ({ Params.atReset with warmMin := 1 } : Params).warmMin ≠ 0
      ∧ (s .online 598 0 0).loaded = true ∧ (s .online 598 0 0).load.runningWindows + 1 < 600
      ∧ 600 ≤ (s .online 599 58 0).load.runningWindows + 1 ∧ (s .online 599 58 0).ret.minutes + 1 < 60
      ∧ 60 ≤ (s .online 599 59 0).ret.minutes + 1 ∧ (s .online 599 59 999998).load.hours < 999999
      ∧ 999999 ≤ (s .online 599 59 999999).load.hours ∧ (s .online 599 59 0).load.markerFault = false
      ∧ hasCode (s .online 0 0 0).mon.conditions 22 = false ∧ hasCode (s .online 0 0 0).mon.conditions 26 = false
      ∧ NoStandingCause (s .runup 0 0 0) ∧ (s .cranking 0 0 0).seq.state = .cranking
      ∧ (s .online 0 0 0).seq.state.active = true ∧ (s .faulted 0 0 0).seq.state = .faulted
      ∧ (∀ m ∈ (holding [mem 26 .shutdown true] (s .faulted 0 0 0)).mon.conditions, m.code = 26 → m.latched = true)
      ∧ (s .online 0 0 0).mon.stall.isRunning = true ∧ hasCode (s .online 0 0 0).mon.conditions 23 = false
      ∧ (s .online 0 0 0).mon.grace.isRunning = true ∧ hasCode (s .online 0 0 0).mon.conditions 21 = false
      ∧ ((s .online 0 0 0).mon.oil.value < (s .online 0 0 0).params.oilMinRun)
      ∧ (((s .online 0 0 0).params.oilMinRun : Int)
          ≤ ({ (s .online 0 0 0).mon with oil := ⟨109, [50], 50, false⟩ } : Monitor).oil.value) := by decide

/-- Input D1 and input D12 about to be qualified, newly ACTIVE and newly INACTIVE, in each class. -/
def routed (k : Fin 12) (cls : CondClass) (latch active closed : Bool) (time : Nat) (e : EngineState) : State :=
  let q := notched 1 0 (st e)
  { q with
    params := { q.params with dwellDown := 2 }
    mon := { q.mon with
      routing := q.mon.routing.set k ⟨true, false, time, cls, latch, false, 64⟩
      inputs := q.mon.inputs.set k ⟨closed, true, run, active⟩ } }
theorem test_witness_ProtectiveInputsJoinTheConditions :
    (∀ k ∈ [(0 : Fin 12), 11], ∀ cls ∈ [CondClass.alarm, .derate, .unload, .inhibitStart, .stop, .shutdown],
        let s := routed k cls true false true 10 .online
        s.mon.inputs[k].stability.isRunning = true ∧ s.mon.routing[k].cls = cls
          ∧ (s.mon.inputs[k].closed != s.mon.routing[k].activeOpen) = true ∧ s.mon.inputs[k].active = false
          ∧ hasCode s.mon.conditions (k.val + 1) = false ∧ s.mon.routing[k].startMask = false)
      ∧ (let s := holding [mem 12 .alarm false] (routed 11 .alarm false true false 10 .online)
        (s.mon.inputs[(11 : Fin 12)].closed != s.mon.routing[(11 : Fin 12)].activeOpen) = false
          ∧ s.mon.inputs[(11 : Fin 12)].active = true ∧ hasCode s.mon.conditions 12 = true
          ∧ ∀ x ∈ s.mon.conditions, x.code = 12 → x.latched = false ∧ x.cls = .alarm)
      ∧ (let s := holding [mem 1 .stop true] (routed 0 .stop true true false 10 .online)
        ∀ x ∈ s.mon.conditions, x.code = 1 → x.latched = true)
      ∧ (let s := routed 11 .shutdown true false true 10 .online
        s.seq.state.active = true ∧ s.loaded = true ∧ s.stepper.notch ≠ 0 ∧ s.params.dwellDown ≠ 0
          ∧ s.cab.estop.qualified = false ∧ ∀ x ∈ s.mon.conditions, x.cls ≠ .shutdown)
      ∧ (let s := routed 11 .shutdown true false true 10 .online
        ∀ j : Fin 12, s.inputMasked j ∨ s.mon.routing[j].qualifyTime ≠ 0)
      ∧ (let s := routed 11 .alarm true false false 0 .online
        (∀ j : Fin 12, j ≠ 11 → s.inputMasked j ∨ s.mon.routing[j].qualifyTime ≠ 0)
          ∧ ¬ s.inputMasked 11 ∧ s.mon.routing[(11 : Fin 12)].qualifyTime = 0
          ∧ (true != s.mon.routing[(11 : Fin 12)].activeOpen) = true)
      ∧ (∀ e ∈ [EngineState.prelube, .claimWait, .claimSettle],
          (routed 0 .inhibitStart true false true 10 e).seq.state = e) := by
  refine ⟨?_, ?_, ?_, ?_, ?_, ⟨?_, ?_⟩, ?_⟩ <;> decide
theorem test_witness_ProtectiveInputs_conditionLaw :
    ConditionLaw (routed 11 .shutdown true false true 10 .online) := by
  unfold ConditionLaw; decide

/-- Each proved output with its feedback about to be qualified, matching its command and not, in each proof state; its proving timer
about to expire, with the command on and off. -/
theorem test_witness_FeedbackProvesTheOutputs :
    let s (e : EngineState) (o : ProvedOutput) (command level : Bool) (proof : ProofState) : State :=
      let q := notched 1 0 (st e)
      { q with
        ret := { q.ret with fuelLatch := command }
        out := { (q.out.setProving o ⟨first level, proof, run⟩) with crank := command, prelube := command } }
    (∀ o ∈ [ProvedOutput.crank, .fuel, .prelube], ∀ command ∈ [true, false], ∀ level ∈ [true, false],
      ∀ proof ∈ [ProofState.agree, .proving, .disagree],
        let q := s .online o command level proof
        (q.out.proving o).feedback.stability.isRunning = true ∧ (q.out.proving o).feedback.qualifiedYet = false
          ∧ (q.out.proving o).feedback.sampled = level ∧ q.command o = command ∧ (q.out.proving o).proof = proof
          ∧ (q.out.proving o).timer.isRunning = true
          ∧ hasCode q.mon.conditions (codeOfMismatch o command) = false)
      ∧ (let q := s .online .fuel true false .proving
        q.stepper.notch ≠ 0 ∧ q.params.dwellDown ≠ 0 ∧ q.cab.estop.qualified = false
          ∧ (∀ m ∈ q.mon.conditions, m.cls ≠ .shutdown) ∧ codeOfMismatch .fuel true = 30
          ∧ codeOfMismatch .crank false = 29 ∧ codeOfMismatch .prelube false = 32 ∧ q.seq.state.active = true)
      ∧ (⟨true, true, run, true, true⟩ : QualifiedInput).qualifiedYet = true := by decide

/-! ## Single steps -/

/-- R111: a lease from a CLAIM lasts 3.4 s to 26.4 s. -/
theorem test_claim_lease :
    (after .frameApplication (heardFrom 1 0 [20, 1] (st .online))).claim.lease = .running 3400
      ∧ (after .frameApplication (heardFrom 1 0 [250, 1] (st .online))).claim.lease = .running 26400 := by decide

/-- R22: ESTOP takes an ONLINE engine to STOPPING, FUEL and LOAD_PERMIT off, the notch to 0, the snapshot taken. -/
theorem test_estop_online :
    let s := notched 5 0 (lined .estop (changed true) (st .online))
    let t := after (.cabLineQualification .estop) { s with mon := { s.mon with speed := 700 } }
    t.seq.state = .stopping ∧ t.standingCommands = ⟨false, false, false, false⟩ ∧ t.stepper.notch = 0
      ∧ t.seq.snapshot = ⟨.online, 700, 5⟩ := by decide

/-- R34, R35: the code T1 + 2 T2 + 4 T3 + 8 T4 is taken as the demand; R36: code 9 is held for 2 s. -/
theorem test_throttle_code :
    let sampled (t1 t2 t3 t4 : Bool) : State :=
      after (.cabLineSample ⟨false, false, false, false, t1, t2, t3, t4⟩) (st .online)
    (after .throttleCodeQualification (sampled false true true false)).cab.demand = 6
      ∧ (after .throttleCodeQualification (sampled true false false true)).cab.invalidCode = .running 2000 := by
  decide

/-- R28, R29: ESTOP is asserted with its wire not energised, ISOLATE with its switch not closed; RUN with its wire energised. -/
theorem test_pin_levels :
    let s := after (.cabLineSample ⟨true, false, false, false, false, false, false, false⟩) (st .online)
    let t := after (.cabLineSample ⟨false, true, true, true, false, false, false, false⟩) (st .online)
    (s.cab.run.sampled = true ∧ s.cab.estop.sampled = true ∧ s.cab.faultReset.sampled = false
        ∧ s.cab.isolate.sampled = true)
      ∧ t.cab.run.sampled = false ∧ t.cab.estop.sampled = false ∧ t.cab.faultReset.sampled = true
      ∧ t.cab.isolate.sampled = false := by decide

set_option maxRecDepth 20000 in
/-- R86: a frame that arrived before a trigger is applied first; the pass begins at the end of its application. -/
theorem test_frame_before_pass :
    let s : State := { st .online with
      link := { (st .online).link with line := .inFrame, filling := some 7, freeList := [0, 1, 2, 3, 4, 5, 6] }
      alloc := { (st .online).alloc with evaluation := run } }
    let t := after .evaluationTimerExpiry (after (.frameArrival (buildFrame 1 1 [1])) s)
    let u := after .applicationEnd (after .frameApplication t)
    (after .passStart t).alloc.phase = .ready ∧ (after .frameApplication t).link.applying = some 7
      ∧ (after .passStart u).alloc.phase = .inPass := by decide

set_option maxRecDepth 20000 in
/-- R124: at ADDRESS_CONFLICT the RELEASE of a claim that settles is refused, and no slot is left in use. -/
theorem test_conflict_refuses_release :
    let t := after .frameApplication (posted (buildFrame 4 3 [1, 0]) (claiming .settling .self (st .claimSettle)))
    t.claim.holder = .none ∧ t.link.claimSlot = .empty ∧ t.link.txEnabled = false
      ∧ t.seq.state = .stopped := by decide

/-- R169, R170: CRANK commanded on and not proved within 300 ms raises CRANK_OPEN (28); in STOPPED nothing else follows. -/
theorem test_crank_open :
    let s := st .stopped
    let t := after (.provingTimerExpiry .crank) { s with out := { s.out with crank := true } }
    t.mon.conditions = [⟨28, .alarm, false, true, 0⟩] ∧ t.out.alarm = true ∧ t.seq.state = .stopped := by decide

/-- R56: the eighth bit error in a row enters LINK_FAULT and the station is ALONE; the seventh does not. -/
theorem test_link_fault :
    let s (n : Nat) : State :=
      let q := sending .status (st .online)
      after (.bitError .afterPriority) { q with link := { q.link with bitErrors := n } }
    (s 7).link.linkFault = true ∧ (s 7).view.alone = true ∧ (s 6).link.linkFault = false := by decide

/-- R65, R64: the head of the post list is applied, and its buffer joins the tail of the free list. -/
theorem test_application :
    let t := after .applicationEnd (after .frameApplication (heardFrom 1 1 [1] (st .online)))
    t.link.freeList = [1, 2, 3, 4, 5, 6, 7, 0] ∧ t.link.postList = [] ∧ t.link.applying = none := by decide

/-- R186, 11.3: READ_HOURS of 1305 hours and 17 minutes begins with the hours in three bytes and the minutes. -/
theorem test_read_hours :
    let s := st .online
    let t := after (.readHours 0)
      { s with load := { s.load with hours := 1305 }, ret := { s.ret with minutes := 17 } }
    t.link.replySlot.map (fun q => (q.code, q.result, q.data.take 4)) = some (5, 0, [0, 5, 25, 17]) := by decide

/-- R44: nine released bit times in a row after a frame's end make the line IDLE; a driven bit among them sets the count back to 0. -/
theorem test_released_bits :
    let ended : State := { st .online with
      link := { (st .online).link with line := .settling, releasedBits := 7 } }
    (after (.lineIdle 1) ended).link.line = .settling ∧ (after (.lineIdle 2) ended).link.line = .idle
      ∧ (after .startBitRead ended).link.releasedBits = 0
      ∧ (after (.lineIdle 8) (after .startBitRead ended)).link.line = .settling := by decide

/-- R44: at the first bit of the end field of a frame that is received the line state becomes SETTLING. -/
theorem test_end_field :
    let s : State := { st .online with
      link := { (st .online).link with line := .inFrame, filling := some 7, freeList := [0, 1, 2, 3, 4, 5, 6] } }
    (after (.lineIdle 1) s).link.line = .settling ∧ (after (.lineIdle 1) s).link.releasedBits = 1
      ∧ (after (.lineIdle 7) s).link.releasedBits = 7 := by decide

/-- R179, 10.7: the mark of the ONLINE entry at 100 ms sends no STATUS; the first heartbeat does. -/
theorem test_first_status :
    let s : State := { st .online with link := { (st .online).withMark.link with firstHeartbeat := false } }
    (after .frameStart s).link.sending = none
      ∧ ((after .frameStart (after .heartbeatExpiry s)).link.sending.map (·.kind)) = some .status := by decide

end Sys2Proof.Tests
end

section
/-! Marks and triggers in the words of the statements: what `markStatus` and `passTrigger` do is `withMark` and `withTrigger`, and
neither reads a block that it does not change. -/

namespace Sys2Proof.Machine

theorem markStatus_eq_withMark (s : State) : markStatus s = s.withMark := by
  rw [markStatus_eq, Bool.or_comm]; rfl

theorem markStatusIf_eq_withMarkIf (c : Bool) (s : State) : markStatusIf c s = s.withMarkIf c := by
  simp only [markStatusIf, State.withMarkIf, markStatus_eq_withMark]

theorem passTrigger_eq_withTrigger (s : State) : passTrigger s = s.withTrigger := by
  rw [passTrigger_eq, Bool.or_comm, ← Bool.or_assoc]; rfl

theorem passTriggerIf_eq_withTriggerIf (c : Bool) (s : State) : passTriggerIf c s = s.withTriggerIf c := by
  simp only [passTriggerIf, State.withTriggerIf, passTrigger_eq_withTrigger]

/-- A mark changes the Link Controller alone. -/
theorem withMarkIf_eq_link (c : Bool) (s : State) :
    s.withMarkIf c = { s with link := (s.withMarkIf c).link } := by cases c <;> rfl

/-- A trigger changes the Duty Allocator alone. -/
theorem withTriggerIf_eq_alloc (c : Bool) (s : State) :
    s.withTriggerIf c = { s with alloc := (s.withTriggerIf c).alloc } := by cases c <;> rfl

/-- What a mark makes of the Link Controller is read from the Link Controller alone. -/
theorem withMarkIf_link_congr (c : Bool) {s t : State} (h : t.link = s.link) :
    (t.withMarkIf c).link = (s.withMarkIf c).link := by
  cases c <;> simp [State.withMarkIf, State.withMark, h]

/-- What a trigger makes of the Duty Allocator is read from the Duty Allocator alone. -/
theorem withTriggerIf_alloc_congr (c : Bool) {s t : State} (h : t.alloc = s.alloc) :
    (t.withTriggerIf c).alloc = (s.withTriggerIf c).alloc := by
  cases c <;> simp [State.withTriggerIf, State.withTrigger, h]

end Sys2Proof.Machine
end

section
/-! RUN, the mode and the layover check (R30, R39 to R42, R105). -/

namespace Sys2Proof.Machine

theorem qualifies_iff (q : QualifiedInput) :
    q.qualifies = true ↔ q.qualifiedYet = false ∨ q.sampled ≠ q.qualified := by
  simp [QualifiedInput.qualifies, or_comm]

/-- The station with the sampled level of RUN qualified. -/
def State.withRunQualified (s : State) : State :=
  { s with cab := { s.cab with run := s.cab.run.nowQualified } }

/-- A running stability timer of RUN that ends on a level to qualify hands it on (R29, R30). -/
theorem exec_runQualification {s : State} (running : s.cab.run.stability.isRunning = true)
    (new : s.cab.run.qualifiedYet = false ∨ s.cab.run.sampled ≠ s.cab.run.qualified) :
    exec (.cabLineQualification .run) s = .next (runQualified s.withRunQualified) := by
  have qualifies := (qualifies_iff s.cab.run).2 new
  simp only [exec, execCabLineQualification, CabUnit.line, running, qualifies, if_true]
  rfl

/-- A level of RUN that agrees with the mode hands nothing on: asserted is SERVICE, released is LAYOVER (R30). -/
theorem runQualified_of_same {s : State}
    (same : (if s.cab.run.qualified then Mode.service else .layover) = s.cab.mode) : runQualified s = s := by
  simp only [runQualified, same, if_true]

/-- The change to SERVICE stops the layover timer and clears both need flags, with a trigger and a mark (R30, R41). -/
theorem runQualified_to_service {s : State} (run : s.cab.run.qualified = true) (mode : s.cab.mode = .layover) :
    runQualified s = { s with
      cab := { s.cab with mode := .service, layoverCheck := .stopped, coldRun := false, batteryNeed := false }
      link := s.withMark.link, alloc := s.withTrigger.alloc } := by
  simp only [runQualified, run, mode, if_true, reduceCtorEq, if_false, markStatus_eq_withMark,
    passTrigger_eq_withTrigger]
  rfl

/-- The change to LAYOVER starts the layover timer of a loaded station and stops the stop-delay timer (R30, R39, R105). -/
theorem runQualified_to_layover {s : State} (run : s.cab.run.qualified = false) (mode : s.cab.mode = .service) :
    runQualified s = { s with
      cab := { s.cab with
        mode := .layover
        layoverCheck := if s.loaded = true then .running (s.params.layoverCheck * 60000) else s.cab.layoverCheck }
      link := s.withMark.link, alloc := { s.withTrigger.alloc with stopDelay := .stopped } } := by
  simp only [runQualified, run, mode, Bool.false_eq_true, if_false, reduceCtorEq, if_true,
    markStatus_eq_withMark, passTrigger_eq_withTrigger]
  rfl

/-- A layover check sets cold run on a cool engine whose coolant channel can be trusted (R40). -/
theorem coldRunAfterCheck_iff (s : State) : s.coldRunAfterCheck = true ↔
    s.cab.coldRun = true ∨ s.mon.coolant.fault = false ∧ s.mon.coolant.value < s.params.tCold := by
  simp [State.coldRunAfterCheck]

/-- A layover check sets battery need on a low battery whose channel can be trusted (R40). -/
theorem batteryNeedAfterCheck_iff (s : State) : s.batteryNeedAfterCheck = true ↔
    s.cab.batteryNeed = true ∨ s.mon.battery.fault = false ∧ s.mon.battery.value < s.params.vLow := by
  simp [State.batteryNeedAfterCheck]

/-- The whole effect of a layover check: timer, flags, and the mark when a flag has changed (R40, R42). -/
theorem exec_layoverCheckExpiry {s : State} (running : s.cab.layoverCheck.isRunning = true) :
    exec .layoverCheckExpiry s = .next { s with
      cab := { s.cab with
        layoverCheck := .running (s.params.layoverCheck * 60000)
        coldRun := s.coldRunAfterCheck, batteryNeed := s.batteryNeedAfterCheck }
      link := (s.withMarkIf (s.coldRunAfterCheck != s.cab.coldRun
        || s.batteryNeedAfterCheck != s.cab.batteryNeed)).link } := by
  simp only [exec, execLayoverCheckExpiry, running, if_true, markStatusIf_eq_withMarkIf]
  rw [withMarkIf_eq_link, withMarkIf_link_congr _ (setCab_link s _)]
  rfl

/-- Settles O36: RUN's qualification falls into the two changes of mode and the two that leave it, and a layover check is one
equation whose flags are read off. -/
theorem modeFollowsRunAndLayoverIsChecked : Obligations.ModeFollowsRunAndLayoverIsChecked := by
  unfold Obligations.ModeFollowsRunAndLayoverIsChecked
  intro s q cab
  refine ⟨fun running new => ?_, fun running => ?_⟩
  · rw [exec_runQualification running new]
    refine ⟨fun asserted mode => ?toService, fun released mode => ?toLayover, fun asserted mode => ?inService,
      fun released mode => ?inLayover⟩
    case toService => exact ⟨_, rfl, runQualified_to_service (s := s.withRunQualified) asserted mode⟩
    case toLayover => exact ⟨_, rfl, runQualified_to_layover (s := s.withRunQualified) released mode⟩
    case inService =>
      exact ⟨_, rfl, runQualified_of_same (s := s.withRunQualified) ((if_pos asserted).trans mode.symm)⟩
    case inLayover =>
      have low : ¬ s.cab.run.sampled = true := Bool.eq_false_iff.1 released
      exact ⟨_, rfl, runQualified_of_same (s := s.withRunQualified) ((if_neg low).trans mode.symm)⟩
  · exact ⟨_, exec_layoverCheckExpiry running, coldRunAfterCheck_iff s, batteryNeedAfterCheck_iff s, rfl⟩

end Sys2Proof.Machine
end

section
/-! The demand decoder (R34 to R38). -/

namespace Sys2Proof.Machine

/-- A change of the decoder replaces the Cab Line Unit, with a trigger for a changed demand and a mark for a changed STATUS demand
field, and changes nothing else (R38). -/
theorem changeDecoder_eq (c : CabUnit) (s : State) :
    changeDecoder c s = { s with
      cab := c
      alloc := (s.withTriggerIf (c.demand != s.cab.demand)).alloc
      link := (s.withMarkIf (c.demandField != s.cab.demandField)).link } := by
  simp only [changeDecoder, markStatusIf_eq_withMarkIf, passTriggerIf_eq_withTriggerIf]
  rw [withTriggerIf_eq_alloc, withTriggerIf_alloc_congr _ (setCab_alloc s c), withMarkIf_eq_link,
    withMarkIf_link_congr (s := s)] <;> rfl

/-- A change of the decoder that leaves demand and STATUS demand field hands nothing on. -/
theorem changeDecoder_silent {c : CabUnit} {s : State} (demand : c.demand = s.cab.demand)
    (field : c.demandField = s.cab.demandField) : changeDecoder c s = { s with cab := c } := by
  simp only [changeDecoder, demand, field, bne_self_eq_false]
  rfl

/-! ### The qualification of a code -/

/-- The Cab Line Unit with its sampled throttle code qualified, before the decoder takes it (R34). -/
def CabUnit.withCodeQualified (c : CabUnit) : CabUnit :=
  { c with codeStability := .expired, qualifiedCode := some c.sampledCode }

/-- A code that is qualified already is handed nowhere (R34). -/
theorem exec_codeQualification_old {s : State} (running : s.cab.codeStability.isRunning = true)
    (old : s.cab.qualifiedCode = some s.cab.sampledCode) :
    exec .throttleCodeQualification s = .next { s with cab := s.cab.withCodeQualified } := by
  simp only [exec, execThrottleCodeQualification, running, old, if_true, CabUnit.withCodeQualified, State.setCab]

/-- A new code goes to the decoder (R34). -/
theorem exec_codeQualification_new {s : State} (running : s.cab.codeStability.isRunning = true)
    (new : s.cab.qualifiedCode ≠ some s.cab.sampledCode) :
    exec .throttleCodeQualification s = .next
      (changeDecoder (s.cab.withCodeQualified.qualifyCode s.cab.sampledCode) s) := by
  simp only [exec, execThrottleCodeQualification, running, new, if_true, if_false]
  rfl

section
variable {c : CabUnit} {code : Nat}

theorem qualifyCode_valid (low : code ≤ 8) :
    c.qualifyCode code = { c with
      qualifiedCode := some code, decoder := .valid, demand := code, source := .localLines
      lastValid := some code, invalidCode := .stopped } := if_pos low

theorem qualifyCode_of_valid (high : 8 < code) (d : c.decoder = .valid) :
    c.qualifyCode code = { c with
      qualifiedCode := some code, decoder := .invalidHold, source := .held, invalidCode := .running 2000 } := by
  simp only [CabUnit.qualifyCode, Nat.not_le.2 high, d, if_false]
  rfl

theorem qualifyCode_of_unqualified (high : 8 < code) (d : c.decoder = .unqualified) :
    c.qualifyCode code = { c with
      qualifiedCode := some code, decoder := .invalidHold, invalidCode := .running 2000 } := by
  simp only [CabUnit.qualifyCode, Nat.not_le.2 high, d, if_false]
  rfl

theorem qualifyCode_of_invalid (high : 8 < code) (d : c.decoder = .invalidHold ∨ c.decoder = .invalidPeers) :
    c.qualifyCode code = { c with qualifiedCode := some code } := by
  obtain d | d := d <;> simp only [CabUnit.qualifyCode, Nat.not_le.2 high, d, if_false]

end

/-! ### The end of the hold -/

/-- The peer majority as a notch and its source: without a majority the demand is 0 with DEFAULT (R37). -/
theorem takeMajority_eq (c : CabUnit) (peers : Option Nat) :
    c.takeMajority peers = { c with
      demand := peers.getD 0, source := if peers = none then .default else .peers } := by
  cases peers <;> rfl

/-- The invalid-code timer's end in INVALID_HOLD: from then on STATUS shows no demand (R36, R37). -/
theorem exec_invalidCodeTimerExpiry {s : State} (running : s.cab.invalidCode.isRunning = true)
    (hold : s.cab.decoder = .invalidHold) :
    exec .invalidCodeTimerExpiry s = .next (changeDecoder { s.cab with
      invalidCode := .expired, decoder := .invalidPeers, demand := (majority s.view.tally).getD 0
      source := if majority s.view.tally = none then .default else .peers } s) := by
  simp only [exec, execInvalidCodeTimerExpiry, running, hold, if_true, takeMajority_eq]

/-- Settles O40: what the decoder makes of a new code in each of its states, each handed on as one change; a code 9..15 changes
neither the demand nor its STATUS field. -/
theorem demandFollowsTheThrottleCode : Obligations.DemandFollowsTheThrottleCode := by
  unfold Obligations.DemandFollowsTheThrottleCode
  intro s cab
  refine ⟨fun running old => ?old, fun running new low => ?valid, fun running new high d => ?held,
    fun running new high d src => ?unqualified, fun running new high d => ?invalid, fun running d => ?peers⟩
  case old => exact ⟨_, exec_codeQualification_old running old, rfl⟩
  case valid =>
    refine ⟨_, exec_codeQualification_new running new, ?_⟩
    rw [qualifyCode_valid low, changeDecoder_eq]
    rfl
  case held =>
    refine ⟨_, exec_codeQualification_new running new, ?_⟩
    rw [qualifyCode_of_valid (c := s.cab.withCodeQualified) high d]
    exact changeDecoder_silent rfl (by simp [CabUnit.demandField, CabUnit.withCodeQualified, d])
  case unqualified =>
    refine ⟨_, exec_codeQualification_new running new, ?_⟩
    rw [qualifyCode_of_unqualified (c := s.cab.withCodeQualified) high d]
    exact changeDecoder_silent rfl (by simp [CabUnit.demandField, CabUnit.withCodeQualified, d, src])
  case invalid =>
    refine ⟨_, exec_codeQualification_new running new, ?_⟩
    rw [qualifyCode_of_invalid (c := s.cab.withCodeQualified) high d]
    exact changeDecoder_silent rfl rfl
  case peers =>
    refine ⟨_, exec_invalidCodeTimerExpiry running d, ?_⟩
    rw [changeDecoder_eq, bne_comm (a := CabUnit.demandField _)]
    rfl

end Sys2Proof.Machine
end

section
/-! The set E in rank order (R92 to R94): who takes part, and why the order is strict. -/

namespace Sys2Proof.Machine

/-! ### Eligibility (R92) -/

theorem hasClass_eq_false_iff (l : List Member) (c : CondClass) :
    hasClass l c = false ↔ ∀ m ∈ l, m.cls ≠ c := by
  simp [hasClass]

theorem hasCode_eq_false_iff (l : List Member) (code : Nat) :
    hasCode l code = false ↔ ∀ m ∈ l, m.code ≠ code := by
  simp [hasCode]

/-- The five conditions of R92, each in the words of the condition set. -/
theorem eligible_iff (s : State) : s.eligible = true ↔
    s.seq.state ∉ [.init, .isolated, .stopping, .faulted] ∧ s.cab.estop.qualified = false
      ∧ (∀ m ∈ s.mon.conditions, m.cls ≠ .stop ∧ m.cls ≠ .shutdown ∧ m.cls ≠ .unload)
      ∧ (s.seq.state = .stopped → ∀ m ∈ s.mon.conditions, m.cls ≠ .inhibitStart)
      ∧ ∀ m ∈ s.mon.conditions, m.code ≠ 34 := by
  simp only [State.eligible, State.estopActive, codeAddressConflict, Bool.and_eq_true, Bool.not_eq_true',
    Bool.and_eq_false_imp, beq_iff_eq, bne_iff_ne, hasClass_eq_false_iff, hasCode_eq_false_iff,
    List.mem_cons, List.not_mem_nil, or_false, not_or, forall_and, and_assoc]

/-- A state that R92 allows has a ranking class (section 1.1). -/
theorem rankClass_isSome_of_notMem {e : EngineState} (h : e ∉ [.init, .isolated, .stopping, .faulted]) :
    e.rankClass.isSome = true := by
  cases e <;> simp_all [EngineState.rankClass]

/-! ### Sorting -/

theorem insertBy_eq_orderedInsert {α : Type} (le : α → α → Bool) (x : α) (l : List α) :
    insertBy le x l = l.orderedInsert (fun a b => le a b = true) x := by
  induction l with
  | nil => rfl
  | cons y ys ih => simp only [insertBy, List.orderedInsert_cons, ih]

/-- The model's sort is the library's insertion sort. -/
theorem sortBy_eq_insertionSort {α : Type} (le : α → α → Bool) (l : List α) :
    sortBy le l = l.insertionSort fun a b => le a b = true := by
  induction l with
  | nil => rfl
  | cons x xs ih => rw [sortBy, ih, insertBy_eq_orderedInsert, List.insertionSort_cons]

theorem sortBy_perm {α : Type} (le : α → α → Bool) (l : List α) : (sortBy le l).Perm l := by
  rw [sortBy_eq_insertionSort]
  exact List.perm_insertionSort _ l

theorem sortBy_pairwise {α : Type} {le : α → α → Bool} (total : ∀ a b, le a b = true ∨ le b a = true)
    (trans : ∀ a b c, le a b = true → le b c = true → le a c = true) (l : List α) :
    (sortBy le l).Pairwise fun a b => le a b = true := by
  have : Std.Total fun a b => le a b = true := ⟨total⟩
  have : IsTrans α fun a b => le a b = true := ⟨trans⟩
  rw [sortBy_eq_insertionSort]
  exact List.pairwise_insertionSort _ l

/-! ### The ranking key (R94) -/

theorem before_iff (a b : Ranked) : a.before b = true ↔
    a.cls < b.cls ∨ a.cls = b.cls
      ∧ (a.bucket < b.bucket ∨ a.bucket = b.bucket ∧ a.number ≤ b.number) := by
  simp [Ranked.before]

theorem before_total (a b : Ranked) : a.before b = true ∨ b.before a = true := by
  simp only [before_iff]
  omega

theorem before_trans (a b c : Ranked) (ab : a.before b = true) (bc : b.before c = true) :
    a.before c = true := by
  rw [before_iff] at *
  omega

/-- Between stations of different number the key decides strictly. -/
theorem precedes_of_before {a b : Ranked} (h : a.before b = true) (ne : a.number ≠ b.number) :
    a.precedes b := by
  rw [before_iff] at h
  unfold Ranked.precedes
  omega

/-! ### The stations of E (R93) -/

theorem ranked_eq_some_iff (n : Nat) (r : StatusRecord) (x : Ranked) : r.ranked n = some x ↔
    r.eligible = true ∧ r.state.rankClass = some x.cls ∧ x.number = n ∧ x.bucket = r.bucket
      ∧ x.capacity = r.capacity ∧ x.online = (r.state == .online) ∧ x.batteryNeed = r.batteryNeed := by
  obtain ⟨cls, bucket, number, capacity, online, batteryNeed⟩ := x
  cases flag : r.eligible with
  | false => simp [StatusRecord.ranked, flag]
  | true => simp [StatusRecord.ranked, flag, eq_comm, and_left_comm]

/-- What the station at a place of the table brings into E, if anything. -/
def State.entrant (s : State) (i : Fin 7) : Option Ranked :=
  (s.passRecord i).bind (StatusRecord.ranked (i.val + 1))

theorem entrant_eq_some_iff (s : State) (i : Fin 7) (x : Ranked) : s.entrant i = some x ↔
    ∃ r, s.passRecord i = some r ∧ r.ranked (i.val + 1) = some x := by
  rw [State.entrant, Option.bind_eq_some_iff]

theorem entrant_number {s : State} {i : Fin 7} {x : Ranked} (h : s.entrant i = some x) :
    x.number = i.val + 1 := by
  obtain ⟨r, -, ranked⟩ := (entrant_eq_some_iff s i x).1 h
  obtain ⟨-, -, number, -⟩ := (ranked_eq_some_iff _ r x).1 ranked
  exact number

/-- E before the sort. -/
def State.entrants (s : State) : List Ranked := (List.finRange 7).filterMap s.entrant

theorem ranking_eq_sortBy_entrants (s : State) : s.ranking = sortBy Ranked.before s.entrants := rfl

theorem ranking_perm_entrants (s : State) : s.ranking.Perm s.entrants := sortBy_perm _ _

theorem mem_ranking_iff_entrant (s : State) (x : Ranked) :
    x ∈ s.ranking ↔ ∃ i, s.entrant i = some x := by
  simp [(ranking_perm_entrants s).mem_iff, State.entrants]

theorem ranking_length_le (s : State) : s.ranking.length ≤ 7 := by
  rw [(ranking_perm_entrants s).length_eq, State.entrants]
  simpa using List.length_filterMap_le s.entrant (List.finRange 7)

/-- Different places of the table give different numbers. -/
theorem entrants_numbers_differ (s : State) : s.entrants.Pairwise fun a b => a.number ≠ b.number :=
  List.Pairwise.filterMap s.entrant
    (fun i j ne a ha b hb same => ne (Fin.ext (by
      have := entrant_number ha
      have := entrant_number hb
      omega)))
    (List.nodup_finRange 7)

/-- The sort keeps the numbers apart, and its order is then strict (R94). -/
theorem ranking_pairwise_precedes (s : State) : s.ranking.Pairwise Ranked.precedes := by
  have sorted : s.ranking.Pairwise fun a b => a.before b = true :=
    sortBy_pairwise before_total before_trans _
  have apart : s.ranking.Pairwise fun a b => a.number ≠ b.number :=
    ((ranking_perm_entrants s).pairwise_iff Ne.symm).2 (entrants_numbers_differ s)
  exact (sorted.and apart).imp fun ⟨before, ne⟩ => precedes_of_before before ne

/-! ### The record that a pass reads (R89, R93) -/

theorem isSelf_iff (s : State) (i : Fin 7) : s.isSelf i = true ↔ s.load.station = i.val + 1 := by
  simp [State.isSelf]

theorem passRecord_self {s : State} {i : Fin 7} (own : s.load.station = i.val + 1) :
    s.passRecord i = s.alloc.snapshot.self :=
  if_pos ((isSelf_iff s i).2 own)

/-- A peer's record is read from the peer table. -/
theorem record_of_passRecord {s : State} {i : Fin 7} {r : StatusRecord} (peer : s.load.station ≠ i.val + 1)
    (h : s.passRecord i = some r) : (s.view.entry i).record = some r := by
  rw [State.passRecord, if_neg (mt (isSelf_iff s i).1 peer)] at h
  split at h
  · exact h
  · cases h

/-- A station of E stands with the fields of the record that the pass reads at its number. -/
theorem mem_ranking_iff (s : State) (x : Ranked) : x ∈ s.ranking ↔
    ∃ (i : Fin 7) (r : StatusRecord), s.passRecord i = some r ∧ r.ranked (i.val + 1) = some x := by
  simp only [mem_ranking_iff_entrant, entrant_eq_some_iff]

/-- Where a field of a station of E is read: from the snapshot at the own number, from the peer's record elsewhere. -/
theorem ranking_field_source {α : Type} {f : Ranked → α} {g : StatusRecord → α}
    (copied : ∀ n r x, StatusRecord.ranked n r = some x → f x = g r) {s : State} {x : Ranked} (mem : x ∈ s.ranking) :
    ∃ i : Fin 7, x.number = i.val + 1
      ∧ (s.load.station = i.val + 1 → ∃ me, s.alloc.snapshot.self = some me ∧ f x = g me)
      ∧ (s.load.station ≠ i.val + 1 → ∃ r, (s.view.entry i).record = some r ∧ f x = g r) := by
  obtain ⟨i, r, read, ranked⟩ := (mem_ranking_iff s x).1 mem
  obtain ⟨-, -, number, -⟩ := (ranked_eq_some_iff _ r x).1 ranked
  refine ⟨i, number, fun own => ⟨r, ?_, copied _ r x ranked⟩, fun peer => ⟨r, ?_, copied _ r x ranked⟩⟩
  · rw [← passRecord_self own, read]
  · exact record_of_passRecord peer read

/-- Settles O21: membership is the record's own test, the order is the sort's, made strict by the different numbers. -/
theorem rankingSortsTheEligibleStations : Obligations.RankingSortsTheEligibleStations := by
  unfold Obligations.RankingSortsTheEligibleStations
  intro s
  refine ⟨ranking_pairwise_precedes s, ranking_length_le s, fun x => ?_⟩
  simp only [mem_ranking_iff, ranked_eq_some_iff]

end Sys2Proof.Machine
end

section
/-! What a pass publishes, field by field (R85, R89, R92): each proof about a result goes through its own lemma. -/

namespace Sys2Proof.Machine

/-- The demand power of the pass in flight (R95). -/
def State.passDemand (s : State) : Nat :=
  demandPower s.params s.alloc.snapshot.mode s.alloc.snapshot.demand

/-- The stations of E whose rank is at most n (R98, R99). -/
def State.chosen (s : State) : List Ranked :=
  s.ranking.take (neededCount s.params s.alloc.snapshot.mode s.passDemand s.ranking)

section
variable {s : State} {me : StatusRecord} (self : s.alloc.snapshot.self = some me)
include self

theorem passResults_selfEligible : s.passResults.selfEligible = me.eligible := by
  simp only [State.passResults, self]

theorem passResults_rankedIn_iff : s.passResults.rankedIn = true ↔
    ∃ x ∈ s.chosen, x.number = s.load.station := by
  simp only [State.passResults, self, List.any_eq_true, beq_iff_eq]
  rfl

theorem passResults_sLoad : s.passResults.sLoad = loadSum s.chosen := by
  simp only [State.passResults, self]
  rfl

theorem passResults_share : s.passResults.share =
    if s.passResults.rankedIn && me.state == .online then
      shareOf s.passDemand me.capacity s.passResults.sLoad s.alloc.snapshot.sFrozen s.alloc.snapshot.alone
    else 0 := by
  simp only [State.passResults, self, State.passDemand]

theorem passResults_target : s.passResults.target =
    if s.passResults.rankedIn && me.state == .online && !s.alloc.snapshot.unload then
      min (uncappedTarget s.alloc.powerSteps s.passResults.share) (notchCap s.alloc.powerSteps me.capacity)
    else 0 := by
  simp only [State.passResults, self]

end

/-- A cold run is confirmed by the mode, the self entry's flag and membership in E (R97); without a self entry by nothing. -/
theorem passResults_coldRunConfirmed_iff (s : State) : s.passResults.coldRunConfirmed = true ↔
    s.alloc.snapshot.mode = .layover
      ∧ (∃ me, s.alloc.snapshot.self = some me ∧ me.coldRun = true)
      ∧ ∃ x ∈ s.ranking, x.number = s.load.station := by
  cases self : s.alloc.snapshot.self <;> simp [State.passResults, self, and_assoc]

theorem runBasis_iff (r : PassResults) :
    r.runBasis = true ↔ r.rankedIn = true ∨ r.coldRunConfirmed = true := by
  simp [PassResults.runBasis]

/-- Settles O20: the test is R92's, the self entry carries it, and the pass publishes the self entry's. -/
theorem eligibilityIsTheTestOfFiveConditions : Obligations.EligibilityIsTheTestOfFiveConditions := by
  unfold Obligations.EligibilityIsTheTestOfFiveConditions
  intro s
  refine ⟨eligible_iff s, rfl, fun eligible => ?_, fun me self => passResults_selfEligible self⟩
  obtain ⟨allowed, -⟩ := (eligible_iff s).1 eligible
  exact rankClass_isSome_of_notMem allowed

end Sys2Proof.Machine
end

section
/-! How many must run (R95 to R98). -/

namespace Sys2Proof.Machine

/-! ### Division rounded up -/

theorem ceilDiv_eq_zero (b : Nat) : ceilDiv 0 b = 0 := by
  cases b with
  | zero => rfl
  | succ b => exact Nat.div_eq_of_lt (by omega)

/-- A quotient rounded up stays within a whole bound of the quotient. -/
theorem ceilDiv_le {a b c : Nat} (positive : 0 < b) (h : a ≤ c * b) : ceilDiv a b ≤ c := by
  have : (a + (b - 1)) / b < c + 1 := (Nat.div_lt_iff_lt_mul positive).2 (by rw [Nat.succ_mul]; omega)
  exact Nat.lt_succ_iff.1 this

/-! ### The demand power (R95) -/

theorem getD_mem_of_lt {l : List Nat} {i : Nat} (inside : i < l.length) : l.getD i 0 ∈ l := by
  rw [List.getD_eq_getElem _ _ inside]
  exact List.getElem_mem inside

theorem demandPower_layover (p : Params) (notch : Nat) : demandPower p .layover notch = 0 := rfl

theorem demandPower_service_zero (p : Params) : demandPower p .service 0 = 0 := rfl

theorem demandPower_service_pos (p : Params) {notch : Nat} (pos : 1 ≤ notch) :
    demandPower p .service notch = p.npt.getD (notch - 1) 0 := by
  obtain ⟨n, rfl⟩ := Nat.exists_eq_add_of_le' pos
  rfl

/-- A bound of every entry of NPT bounds the demand power; an entry that is not there reads 0. -/
theorem demandPower_le {p : Params} {bound : Nat} (h : ∀ x ∈ p.npt, x ≤ bound) (mode : Mode) (notch : Nat) :
    demandPower p mode notch ≤ bound := by
  match mode, notch with
  | .layover, _ => exact Nat.zero_le _
  | .service, 0 => exact Nat.zero_le _
  | .service, n + 1 =>
    show p.npt.getD n 0 ≤ bound
    by_cases inside : n < p.npt.length
    · exact h _ (getD_mem_of_lt inside)
    · rw [List.getD_eq_default _ _ (Nat.le_of_not_lt inside)]
      exact Nat.zero_le _

theorem le_marginedDemand (p : Params) (d : Nat) : d ≤ marginedDemand p d := Nat.le_add_right _ _

theorem marginedDemand_sub (p : Params) (d : Nat) : marginedDemand p d - d = ceilDiv (d * p.margin) 100 :=
  Nat.add_sub_cancel_left ..

theorem marginedDemand_zero (p : Params) : marginedDemand p 0 = 0 := by simp [marginedDemand, ceilDiv_eq_zero]

theorem marginedDemand_of_margin_zero {p : Params} (margin : p.margin = 0) (d : Nat) : marginedDemand p d = d := by
  simp [marginedDemand, margin, ceilDiv_eq_zero]

/-- The margin is the least number of kW that is at least MARGIN percent (R95). -/
theorem margin_roundedUp (p : Params) (d : Nat) :
    (marginedDemand p d - d) * 100 < d * p.margin + 100 ∧ d * p.margin ≤ (marginedDemand p d - d) * 100 := by
  rw [marginedDemand_sub, ceilDiv]
  omega

theorem marginedDemand_le {p : Params} {d : Nat} (demand : d ≤ 20000) (margin : p.margin ≤ 50) :
    marginedDemand p d ≤ 30000 := by
  have product : d * p.margin ≤ 10000 * 100 := (Nat.mul_le_mul demand margin).trans (by norm_num)
  have added : ceilDiv (d * p.margin) 100 ≤ 10000 := ceilDiv_le (by norm_num) product
  exact Nat.add_le_add demand added

/-- Settles O22. -/
theorem demandPowerComesFromTheNotch : Obligations.DemandPowerComesFromTheNotch := by
  unfold Obligations.DemandPowerComesFromTheNotch
  intro p notch
  refine ⟨demandPower_layover p notch, demandPower_service_zero p, demandPower_service_pos p,
    marginedDemand_zero p, fun d => ?_, fun d margin => marginedDemand_of_margin_zero margin d, fun npt margin => ?_⟩
  · obtain ⟨least, enough⟩ := margin_roundedUp p d
    exact ⟨least, enough, le_marginedDemand p d⟩
  · have bounded : demandPower p .service notch ≤ 20000 := demandPower_le npt _ _
    exact ⟨bounded, marginedDemand_le bounded margin⟩

/-! ### The fewest stations that cover a need (R96) -/

/-- S_k: the capacity of the first `k` stations together (R96). -/
def firstCapacity (k : Nat) (e : List Ranked) : Nat := ((e.take k).map (·.capacity)).sum

theorem firstCapacity_succ_cons (k : Nat) (x : Ranked) (e : List Ranked) :
    firstCapacity (k + 1) (x :: e) = x.capacity + firstCapacity k e := by
  simp [firstCapacity]

theorem fewest_zero (e : List Ranked) : fewest 0 e = 0 := by cases e <;> rfl

theorem fewest_pos {need : Nat} {e : List Ranked} (positive : 0 < need) (nonempty : 0 < e.length) :
    1 ≤ fewest need e := by
  cases e with
  | nil => cases nonempty
  | cons x rest =>
    rw [fewest, if_neg (Nat.ne_of_gt positive)]
    split
    · exact le_rfl
    · exact Nat.le_add_right 1 _

theorem fewest_le_length (need : Nat) (e : List Ranked) : fewest need e ≤ e.length := by
  fun_induction fewest need e with
  | case1 | case2 | case3 => simp
  | case4 need x rest positive short ih =>
    rw [List.length_cons]
    omega

/-- Fewer stations do not reach the need. -/
theorem firstCapacity_lt_of_lt_fewest {need : Nat} {e : List Ranked} {k : Nat} (h : k < fewest need e) :
    firstCapacity k e < need := by
  fun_induction fewest need e generalizing k with
  | case1 | case2 => cases h
  | case3 need x rest positive =>
    obtain rfl : k = 0 := by omega
    exact Nat.pos_of_ne_zero positive
  | case4 need x rest positive short ih =>
    cases k with
    | zero => exact Nat.pos_of_ne_zero positive
    | succ k =>
      have tail : firstCapacity k rest < need - x.capacity := ih (by omega)
      rw [firstCapacity_succ_cons]
      omega

/-- They reach the need, or they are all there are. -/
theorem fewest_covers (need : Nat) (e : List Ranked) :
    need ≤ firstCapacity (fewest need e) e ∨ fewest need e = e.length := by
  fun_induction fewest need e with
  | case1 => exact .inr rfl
  | case2 => exact .inl (Nat.zero_le _)
  | case3 need x rest positive enough =>
    rw [firstCapacity_succ_cons]
    exact .inl (Nat.le_add_right_of_le enough)
  | case4 need x rest positive short ih =>
    rw [Nat.add_comm 1, firstCapacity_succ_cons, List.length_cons]
    omega

/-! ### The needed count (R96, R97) -/

theorem neededCount_service (p : Params) (d : Nat) (e : List Ranked) :
    neededCount p .service d e = max (fewest (marginedDemand p d) e) (min p.minRunEngines e.length) := rfl

theorem neededCount_layover_of_need {p : Params} {d : Nat} {e : List Ranked} (need : ∃ x ∈ e, x.batteryNeed = true) :
    neededCount p .layover d e = min 1 e.length :=
  if_pos (List.any_eq_true.2 need)

theorem neededCount_layover_of_no_need {p : Params} {d : Nat} {e : List Ranked}
    (unneeded : ∀ x ∈ e, x.batteryNeed = false) : neededCount p .layover d e = 0 :=
  if_neg (by simpa using unneeded)

/-- The needed count never exceeds |E| (R98). -/
theorem neededCount_le_length (p : Params) (mode : Mode) (d : Nat) (e : List Ranked) :
    neededCount p mode d e ≤ e.length := by
  cases mode with
  | service => exact Nat.max_le.2 ⟨fewest_le_length _ e, Nat.min_le_right _ _⟩
  | layover =>
    rw [neededCount]
    split
    · exact Nat.min_le_right _ _
    · exact Nat.zero_le _

/-- Settles O23: n_dem is `fewest`, by its lemmas; the capacities come from where the pass reads its records. -/
theorem neededCountInServiceCoversTheDemand : Obligations.NeededCountInServiceCoversTheDemand := by
  unfold Obligations.NeededCountInServiceCoversTheDemand
  refine ⟨fun p d e => ⟨fewest (marginedDemand p d) e, neededCount_service p d e, fewest_le_length _ e,
    fun nothing => ?_, fewest_pos, fun k _ fewer => firstCapacity_lt_of_lt_fewest fewer, fewest_covers _ e⟩,
    fun s x mem => ranking_field_source (fun n r x ranked => ?_) mem⟩
  · rw [nothing, fewest_zero]
  · obtain ⟨-, -, -, -, capacity, -⟩ := (ranked_eq_some_iff n r x).1 ranked
    exact capacity

/-- Settles O24: the needed count by the battery need of a member, and the cold run by the three conditions of its test. -/
theorem layoverServesBatteryAndColdRun : Obligations.LayoverServesBatteryAndColdRun := by
  unfold Obligations.LayoverServesBatteryAndColdRun
  intro p d e s
  refine ⟨neededCount_layover_of_need, neededCount_layover_of_no_need, passResults_coldRunConfirmed_iff s,
    fun x mem => ranking_field_source (fun n r x ranked => ?_) mem⟩
  obtain ⟨-, -, -, -, -, -, need⟩ := (ranked_eq_some_iff n r x).1 ranked
  exact need

/-! ### Ranked in (R98) -/

/-- A station stands at its own number in E only with the snapshot's self entry, and that is flagged eligible. -/
theorem self_eligible_of_mem_ranking {s : State} {me : StatusRecord} {x : Ranked}
    (self : s.alloc.snapshot.self = some me) (mem : x ∈ s.ranking) (own : x.number = s.load.station) :
    me.eligible = true := by
  obtain ⟨i, r, read, ranked⟩ := (mem_ranking_iff s x).1 mem
  obtain ⟨eligible, -, number, -⟩ := (ranked_eq_some_iff _ r x).1 ranked
  rw [passRecord_self (own.symm.trans number), self] at read
  cases read
  exact eligible

/-- Settles O25. -/
theorem rankedInMeansWithinTheNeededCount : Obligations.RankedInMeansWithinTheNeededCount := by
  unfold Obligations.RankedInMeansWithinTheNeededCount
  intro s me self _ _
  refine ⟨passResults_rankedIn_iff self, neededCount_le_length _ _ _ _, fun rankedIn => ?_, runBasis_iff _,
    fun law service => ?_⟩
  · obtain ⟨x, chosen, own⟩ := (passResults_rankedIn_iff self).1 rankedIn
    exact self_eligible_of_mem_ranking self (List.mem_of_mem_take chosen) own
  · obtain ⟨clear, -⟩ := law service
    exact clear

end Sys2Proof.Machine
end

section
/-! The share (R99 to R101). -/

namespace Sys2Proof.Machine

theorem loadSum_eq_onlineCapacity (e : List Ranked) : loadSum e = onlineCapacity e := by
  induction e with
  | nil => rfl
  | cons x rest ih => cases online : x.online <;> simp_all [loadSum, onlineCapacity]

theorem shareOf_zero (c l f : Nat) (alone : Bool) : shareOf 0 c l f alone = 0 := rfl

section
variable {d c l f : Nat} (demand : 0 < d)
include demand

theorem shareOf_full (short : l ≤ d) : shareOf d c l f false = c := by
  simp [shareOf, demand.ne', short]

theorem shareOf_part (covers : d < l) : shareOf d c l f false = ceilDiv (d * c) l := by
  simp [shareOf, demand.ne', covers]

theorem shareOf_alone_full (short : f ≤ d) : shareOf d c l f true = c := by
  simp [shareOf, demand.ne', short]

theorem shareOf_alone_part (covers : d < f) : shareOf d c l f true = min c (ceilDiv (d * c) f) := by
  simp [shareOf, demand.ne', covers]

end

/-- A part of the load takes no more than the capacity: the demand is below the load that is divided by. -/
theorem ceilDiv_mul_le {d c l : Nat} (covers : d < l) : ceilDiv (d * c) l ≤ c :=
  ceilDiv_le (by omega) (by rw [Nat.mul_comm c]; exact Nat.mul_le_mul_right c covers.le)

theorem shareOf_le (d c l f : Nat) (alone : Bool) : shareOf d c l f alone ≤ c := by
  rcases Nat.eq_zero_or_pos d with rfl | demand
  · exact Nat.zero_le c
  cases alone with
  | true =>
    rcases Nat.lt_or_ge d f with covers | short
    · rw [shareOf_alone_part demand covers]
      exact Nat.min_le_left _ _
    · exact (shareOf_alone_full demand short).le
  | false =>
    rcases Nat.lt_or_ge d l with covers | short
    · rw [shareOf_part demand covers]
      exact ceilDiv_mul_le covers
    · exact (shareOf_full demand short).le

section
variable {s : State} {me : StatusRecord} (self : s.alloc.snapshot.self = some me)
include self

theorem passResults_share_idle (idle : s.passResults.rankedIn = false ∨ me.state ≠ .online) :
    s.passResults.share = 0 := by
  rw [passResults_share self, if_neg]
  rcases idle with out | off <;> simp_all

theorem passResults_share_carrying (rankedIn : s.passResults.rankedIn = true) (online : me.state = .online) :
    s.passResults.share = shareOf s.passDemand me.capacity s.passResults.sLoad s.alloc.snapshot.sFrozen
      s.alloc.snapshot.alone := by
  rw [passResults_share self, if_pos (by simp [rankedIn, online])]

theorem passResults_share_le : s.passResults.share ≤ me.capacity := by
  rw [passResults_share self]
  split
  · exact shareOf_le ..
  · exact Nat.zero_le _

end

/-- Settles O26: a station that carries load has `shareOf`, case by case; any other has 0. -/
theorem shareIsTheFractionOfTheDemand : Obligations.ShareIsTheFractionOfTheDemand := by
  unfold Obligations.ShareIsTheFractionOfTheDemand
  intro s me self snap d r
  refine ⟨(passResults_sLoad self).trans (loadSum_eq_onlineCapacity _), passResults_share_idle self,
    fun rankedIn online => ?_, passResults_share_le self⟩
  have share : r.share = shareOf d me.capacity r.sLoad snap.sFrozen snap.alone :=
    passResults_share_carrying self rankedIn online
  rw [share]
  refine ⟨fun nothing => ?_, fun demand whole short => ?_, fun demand whole covers => ?_,
    fun demand alone short => ?_, fun demand alone covers => ?_⟩
  · rw [nothing, shareOf_zero]
  · rw [whole, shareOf_full demand short]
  · rw [whole, shareOf_part demand covers, ceilDiv]
  · rw [alone, shareOf_alone_full demand short]
  · rw [alone, shareOf_alone_part demand covers, ceilDiv]

end Sys2Proof.Machine
end

section
/-! The target notch (R103, R104). -/

namespace Sys2Proof.Machine

/-- The uncapped target is the first notch that carries the share; without one it is notch 8 (R103). -/
theorem uncappedTarget_cases {steps : List Nat} {share : Nat} (positive : 0 < share) :
    (∃ i < steps.length, uncappedTarget steps share = i + 1 ∧ share ≤ steps.getD i 0
        ∧ ∀ j < i, steps.getD j 0 < share)
      ∨ uncappedTarget steps share = 8 ∧ ∀ x ∈ steps, x < share := by
  rw [uncappedTarget, if_neg positive.ne']
  split
  next i found =>
    obtain ⟨inside, carries, lower⟩ := List.findIdx?_eq_some_iff_getElem.1 found
    refine .inl ⟨i, inside, rfl, ?_, fun j below => ?_⟩
    · rw [List.getD_eq_getElem _ _ inside]
      exact of_decide_eq_true carries
    · rw [List.getD_eq_getElem _ _ (below.trans inside)]
      simpa using lower j below
  next missing => exact .inr ⟨rfl, by simpa using missing⟩

theorem uncappedTarget_zero (steps : List Nat) : uncappedTarget steps 0 = 0 := rfl

/-- The cap is the last notch whose power step lies within the capacity; without one it is 0 (R104). -/
theorem notchCap_cases (steps : List Nat) (capacity : Nat) :
    (∃ i < steps.length, notchCap steps capacity = i + 1 ∧ steps.getD i 0 ≤ capacity
        ∧ ∀ j, i < j → j < steps.length → capacity < steps.getD j 0)
      ∨ notchCap steps capacity = 0 ∧ ∀ x ∈ steps, capacity < x := by
  rw [notchCap]
  split
  next k found =>
    obtain ⟨inside, within, higher⟩ := List.findIdx?_eq_some_iff_getElem.1 found
    rw [List.length_reverse] at inside
    refine .inl ⟨steps.length - 1 - k, by omega, by omega, ?_, fun j above top => ?_⟩
    · rw [List.getD_eq_getElem _ _ (by omega)]
      simpa [List.getElem_reverse] using within
    · have mirrored := higher (steps.length - 1 - j) (by omega)
      rw [List.getD_eq_getElem _ _ top]
      simpa [List.getElem_reverse, Nat.sub_sub_self (Nat.le_sub_one_of_lt top)] using mirrored
  next missing => exact .inr ⟨rfl, by simpa using missing⟩

section
variable {steps : List Nat} (eight : steps.length = 8)
include eight

theorem uncappedTarget_range {share : Nat} (positive : 0 < share) :
    1 ≤ uncappedTarget steps share ∧ uncappedTarget steps share ≤ 8 := by
  obtain ⟨i, inside, target, -⟩ | ⟨target, -⟩ := uncappedTarget_cases (steps := steps) positive <;> omega

theorem uncappedTarget_le (share : Nat) : uncappedTarget steps share ≤ 8 := by
  rcases Nat.eq_zero_or_pos share with rfl | positive
  · exact Nat.zero_le 8
  · exact (uncappedTarget_range eight positive).2

theorem notchCap_le (capacity : Nat) : notchCap steps capacity ≤ 8 := by
  obtain ⟨i, inside, cap, -⟩ | ⟨cap, -⟩ := notchCap_cases steps capacity <;> omega

/-- Every notch above the cap needs more than the capacity (R104). -/
theorem capacity_lt_of_notchCap_lt {capacity e : Nat} (above : notchCap steps capacity < e) (top : e ≤ 8) :
    capacity < steps.getD (e - 1) 0 := by
  obtain ⟨i, -, cap, -, higher⟩ | ⟨-, every⟩ := notchCap_cases steps capacity
  · exact higher _ (by omega) (by omega)
  · exact every _ (getD_mem_of_lt (by omega))

end

/-- The power step of the cap lies within the capacity (R104). -/
theorem step_notchCap_le {steps : List Nat} {capacity : Nat} (pos : 1 ≤ notchCap steps capacity) :
    steps.getD (notchCap steps capacity - 1) 0 ≤ capacity := by
  obtain ⟨i, -, cap, within, -⟩ | ⟨cap, -⟩ := notchCap_cases steps capacity
  · rw [cap]
    exact within
  · omega

/-- Where a step carries the share, the target's does, and no lower one (R103). -/
theorem uncappedTarget_lowest {steps : List Nat} {share : Nat} (positive : 0 < share)
    (reached : ∃ x ∈ steps, share ≤ x) :
    share ≤ steps.getD (uncappedTarget steps share - 1) 0
      ∧ ∀ e, 1 ≤ e → e < uncappedTarget steps share → steps.getD (e - 1) 0 < share := by
  obtain ⟨i, -, target, carries, lower⟩ | ⟨-, every⟩ := uncappedTarget_cases (steps := steps) positive
  · rw [target]
    exact ⟨carries, fun e _ _ => lower _ (by omega)⟩
  · obtain ⟨x, mem, reach⟩ := reached
    exact absurd (every x mem) reach.not_gt

theorem uncappedTarget_of_unreached {steps : List Nat} {share : Nat} (positive : 0 < share)
    (unreached : ∀ x ∈ steps, x < share) : uncappedTarget steps share = 8 := by
  obtain ⟨i, inside, -, carries, -⟩ | ⟨target, -⟩ := uncappedTarget_cases (steps := steps) positive
  · exact absurd (unreached _ (getD_mem_of_lt inside)) carries.not_gt
  · exact target

theorem getD_le_getD_of_pairwise {steps : List Nat} (rising : steps.Pairwise (· ≤ ·)) {i j : Nat} (le : i ≤ j)
    (inside : j < steps.length) : steps.getD i 0 ≤ steps.getD j 0 := by
  rw [List.getD_eq_getElem _ _ inside, List.getD_eq_getElem _ _ (le.trans_lt inside)]
  exact rising.sortedLE.getElem_le_getElem_of_le le

section
variable {s : State} {me : StatusRecord} (self : s.alloc.snapshot.self = some me)
include self

theorem passResults_target_forced
    (forced : me.state ≠ .online ∨ s.alloc.snapshot.unload = true ∨ s.passResults.rankedIn = false) :
    s.passResults.target = 0 := by
  rw [passResults_target self, if_neg]
  rcases forced with off | unload | out <;> simp_all

theorem passResults_target_free (online : me.state = .online) (unload : s.alloc.snapshot.unload = false)
    (rankedIn : s.passResults.rankedIn = true) : s.passResults.target =
      min (uncappedTarget s.alloc.powerSteps s.passResults.share) (notchCap s.alloc.powerSteps me.capacity) := by
  rw [passResults_target self, if_pos (by simp [rankedIn, online, unload])]

theorem passResults_target_le (eight : s.alloc.powerSteps.length = 8) : s.passResults.target ≤ 8 := by
  rw [passResults_target self]
  split
  · exact (Nat.min_le_left _ _).trans (uncappedTarget_le eight _)
  · exact Nat.zero_le 8

end

/-- Settles O28: the two searches by their cases, then the published target by what forces it to 0. -/
theorem targetNotchIsTheLowestThatCarriesAndIsCapped :
    Obligations.TargetNotchIsTheLowestThatCarriesAndIsCapped := by
  unfold Obligations.TargetNotchIsTheLowestThatCarriesAndIsCapped
  refine ⟨fun steps share eight => ?uncapped, fun steps c eight => ?cap, fun s me self eight => ?published⟩
  case uncapped =>
    refine ⟨fun nothing => by rw [nothing, uncappedTarget_zero], uncappedTarget_range eight, uncappedTarget_lowest,
      uncappedTarget_of_unreached, fun positive reached rising e above top => ?_⟩
    obtain ⟨low, -⟩ := uncappedTarget_range eight positive
    obtain ⟨carries, -⟩ := uncappedTarget_lowest positive reached
    exact carries.trans (getD_le_getD_of_pairwise rising (by omega) (by omega))
  case cap => exact ⟨notchCap_le eight c, step_notchCap_le, fun e => capacity_lt_of_notchCap_lt eight⟩
  case published =>
    exact ⟨passResults_target_le self eight, passResults_target_forced self, passResults_target_free self⟩

end Sys2Proof.Machine
end


section
/-! One command as a function of the state, and a step as a command or 10 ms: what every command and 10 ms keep, every step keeps. -/

namespace Sys2Proof.Machine

/-- The station after a command. -/
def State.after (s : State) (c : Instr) : State :=
  match exec c s with
  | .next t => t
  | .fault _ | .refused _ => s

/-- Every command answers a next state (log 26). -/
theorem exec_eq_after (c : Instr) (s : State) : exec c s = .next (s.after c) := by
  cases c <;> rfl

theorem after_eq_of_exec {c : Instr} {s t : State} (h : exec c s = .next t) : s.after c = t := by
  rw [exec_eq_after] at h
  exact Host.Outcome.next.inj h

/-- With no command waiting the part takes one command of its own, or 10 ms pass. -/
theorem idle_cases (s : State) : (∃ c, idle s = exec c s) ∨ idle s = .next (tick s) := by
  unfold idle
  split
  · exact .inl ⟨_, rfl⟩
  split
  · exact .inl ⟨_, rfl⟩
  split
  · exact .inl ⟨_, rfl⟩
  split
  · exact .inl ⟨_, rfl⟩
  · exact .inr rfl

/-- Every step is a command, on the rest of the queue or on the state as it is, or 10 ms. -/
theorem step_cases {s t : State} (h : step s = .next t) :
    (∃ c rest, s.pending = c :: rest ∧ t = (s.setPending rest).after c)
      ∨ (s.pending = [] ∧ ∃ c, t = s.after c) ∨ (s.pending = [] ∧ t = tick s) := by
  unfold step at h
  split at h
  case h_1 c rest queue => exact .inl ⟨c, rest, queue, (after_eq_of_exec h).symm⟩
  case h_2 queue =>
    obtain ⟨c, e⟩ | e := idle_cases s
    · exact .inr (.inl ⟨queue, c, (after_eq_of_exec (e ▸ h)).symm⟩)
    · exact .inr (.inr ⟨queue, (Host.Outcome.next.inj (e ▸ h)).symm⟩)

/-- What does not read the queue and is kept by every command and by 10 ms is kept by every step. -/
theorem step_keeps {P : State → Prop} (queue : ∀ s l, P s → P (s.setPending l))
    (command : ∀ c s, P s → P (s.after c)) (time : ∀ s, P s → P (tick s)) {s t : State}
    (h : step s = .next t) (hs : P s) : P t := by
  obtain ⟨c, rest, -, rfl⟩ | ⟨-, c, rfl⟩ | ⟨-, rfl⟩ := step_cases h
  · exact command c _ (queue s rest hs)
  · exact command c s hs
  · exact time s hs

end Sys2Proof.Machine
end


section
/-! What marks, triggers, the derate factor and a condition's leaving change: nothing but the STATUS mark, the re-evaluate flag, F and
C, the condition set and ALARM. -/

namespace Sys2Proof.Machine

/-- Nothing differs but the STATUS mark, the re-evaluate flag, F and C, the condition set and the ALARM command. -/
structure Quiet (s t : State) : Prop where
  seq : t.seq = s.seq
  cab : t.cab = s.cab
  link : t.link = { s.link with statusMarked := t.link.statusMarked }
  view : t.view = s.view
  alloc : t.alloc = { s.alloc with reEvaluate := t.alloc.reEvaluate }
  claim : t.claim = s.claim
  stepper : t.stepper = s.stepper
  port : t.port = s.port
  mon : t.mon = { s.mon with
    derate := t.mon.derate, capacity := t.mon.capacity, conditions := t.mon.conditions }
  out : t.out = { s.out with alarm := t.out.alarm }
  ret : t.ret = s.ret
  load : t.load = s.load
  params : t.params = s.params
  mailbox : t.mailbox = s.mailbox
  pending : t.pending = s.pending

section
variable {s t u : State}

theorem Quiet.refl (s : State) : Quiet s s := ⟨rfl, rfl, rfl, rfl, rfl, rfl, rfl, rfl, rfl, rfl, rfl, rfl, rfl, rfl, rfl⟩

theorem Quiet.trans (h : Quiet s t) (k : Quiet t u) : Quiet s u where
  seq := k.seq.trans h.seq
  cab := k.cab.trans h.cab
  link := by rw [k.link, h.link]
  view := k.view.trans h.view
  alloc := by rw [k.alloc, h.alloc]
  claim := k.claim.trans h.claim
  stepper := k.stepper.trans h.stepper
  port := k.port.trans h.port
  mon := by rw [k.mon, h.mon]
  out := by rw [k.out, h.out]
  ret := k.ret.trans h.ret
  load := k.load.trans h.load
  params := k.params.trans h.params
  mailbox := k.mailbox.trans h.mailbox
  pending := k.pending.trans h.pending

theorem Quiet.ite {c : Prop} [Decidable c] (ht : Quiet s t) (hu : Quiet s u) : Quiet s (if c then t else u) := by
  split
  · exact ht
  · exact hu

/-! ### The operations that are quiet -/

theorem Quiet.markStatusIf (h : Quiet s t) (c : Bool) : Quiet s (Machine.markStatusIf c t) :=
  h.trans (by rw [markStatusIf_eq]; exact ⟨rfl, rfl, rfl, rfl, rfl, rfl, rfl, rfl, rfl, rfl, rfl, rfl, rfl, rfl, rfl⟩)

theorem Quiet.markStatus (h : Quiet s t) : Quiet s (Machine.markStatus t) := h.markStatusIf true

theorem Quiet.passTriggerIf (h : Quiet s t) (c : Bool) : Quiet s (Machine.passTriggerIf c t) :=
  h.trans (by rw [passTriggerIf_eq]; exact ⟨rfl, rfl, rfl, rfl, rfl, rfl, rfl, rfl, rfl, rfl, rfl, rfl, rfl, rfl, rfl⟩)

theorem Quiet.passTrigger (h : Quiet s t) : Quiet s (Machine.passTrigger t) := h.passTriggerIf true

theorem Quiet.setConditions (h : Quiet s t) (l : List Member) : Quiet s (t.setConditions l) :=
  h.trans ⟨rfl, rfl, rfl, rfl, rfl, rfl, rfl, rfl, rfl, rfl, rfl, rfl, rfl, rfl, rfl⟩

theorem Quiet.setAlarm (h : Quiet s t) : Quiet s (Machine.setAlarm t) :=
  h.trans ⟨rfl, rfl, rfl, rfl, rfl, rfl, rfl, rfl, rfl, rfl, rfl, rfl, rfl, rfl, rfl⟩

theorem Quiet.computeDerate (h : Quiet s t) : Quiet s (Machine.computeDerate t) := by
  unfold Machine.computeDerate
  refine Quiet.ite (Quiet.markStatusIf (Quiet.passTriggerIf (h.trans ?_) _) _) h
  exact ⟨rfl, rfl, rfl, rfl, rfl, rfl, rfl, rfl, rfl, rfl, rfl, rfl, rfl, rfl, rfl⟩

theorem Quiet.handDerate (h : Quiet s t) (code : Nat) (cls : CondClass) :
    Quiet s (Machine.handDerate code cls t) := Quiet.ite h.computeDerate h

theorem Quiet.handChange (h : Quiet s t) (cls : CondClass) (differs : Bool) :
    Quiet s (Machine.handChange cls differs t) := ((h.passTriggerIf _).markStatusIf _).setAlarm

theorem Quiet.withMember (h : Quiet s t) (code : Nat) : Quiet s (t.withMember code) := h.setConditions _

theorem Quiet.leaveCondition (h : Quiet s t) (m : Member) : Quiet s (Machine.leaveCondition m t) :=
  ((h.setConditions _).handDerate _ _).handChange _ _

theorem Quiet.reportGone (h : Quiet s t) (code : Nat) : Quiet s (Machine.reportGone code t) := by
  unfold Machine.reportGone
  split
  · exact h
  · exact Quiet.ite (h.setConditions _) (h.leaveCondition _)

theorem Quiet.foldl {α : Type} {f : State → α → State} (hf : ∀ t a, Quiet s t → Quiet s (f t a)) (l : List α)
    (h : Quiet s t) : Quiet s (l.foldl f t) := by
  induction l generalizing t with
  | nil => exact h
  | cons a l ih => exact ih (hf t a h)

/-! ### What a quiet change leaves, read in the other blocks -/

theorem Quiet.linkField (h : Quiet s t) {α : Type} (f : LinkUnit → α)
    (unmarked : ∀ (l : LinkUnit) m, f { l with statusMarked := m } = f l) : f t.link = f s.link := by
  rw [h.link, unmarked]

theorem Quiet.claimSlot (h : Quiet s t) : t.link.claimSlot = s.link.claimSlot := h.linkField _ fun _ _ => rfl
theorem Quiet.sending (h : Quiet s t) : t.link.sending = s.link.sending := h.linkField _ fun _ _ => rfl
theorem Quiet.txEnabled (h : Quiet s t) : t.link.txEnabled = s.link.txEnabled := h.linkField _ fun _ _ => rfl
theorem Quiet.disablePending (h : Quiet s t) : t.link.disablePending = s.link.disablePending :=
  h.linkField _ fun _ _ => rfl
theorem Quiet.phase (h : Quiet s t) : t.alloc.phase = s.alloc.phase := by rw [h.alloc]
theorem Quiet.inputs (h : Quiet s t) : t.mon.inputs = s.mon.inputs := by rw [h.mon]
theorem Quiet.routing (h : Quiet s t) : t.mon.routing = s.mon.routing := by rw [h.mon]
theorem Quiet.proving (h : Quiet s t) (o : ProvedOutput) : t.out.proving o = s.out.proving o := by
  rw [h.out]; cases o <;> rfl
theorem Quiet.command (h : Quiet s t) (o : ProvedOutput) : t.command o = s.command o := by
  have out : t.out.crank = s.out.crank ∧ t.out.prelube = s.out.prelube := by rw [h.out]; exact ⟨rfl, rfl⟩
  cases o
  · exact out.1
  · exact congrArg RetainedStore.fuelLatch h.ret
  · exact out.2
theorem Quiet.standingCommands (h : Quiet s t) : t.standingCommands = s.standingCommands := by
  unfold State.standingCommands
  rw [h.out, h.ret]
theorem Quiet.loaded (h : Quiet s t) : t.loaded = s.loaded := by rw [State.loaded, h.load]; rfl

end

end Sys2Proof.Machine
end


section
/-! The laws of the outputs (R2), the own claim (R110, R116) and the notch (R127) under every command. -/

namespace Sys2Proof.Machine

/-! ### What both resets leave -/

theorem engineGood_afterReset (kind : ResetKind) (station rate : Nat) (ret : RetainedStore) (q : List Instr) :
    EngineGood (State.afterReset kind station rate ret q) := by
  refine (engineGood_iff _).1 ⟨rfl, ⟨Nat.zero_le 8, fun _ => rfl, Nat.zero_le 8, rfl⟩, rfl, rfl, rfl, rfl, rfl⟩

section
variable {s : State}

/-! ### Changes of one block -/

theorem EngineGood.setStepper (h : EngineGood s) {x : Stepper} (notch : x.notch = s.stepper.notch) :
    EngineGood (s.setStepper x) :=
  h.same (by simp [State.key, notch, State.standingCommands]) rfl rfl rfl rfl

theorem EngineGood.setSeq (h : EngineGood s) {x : Sequencer} (state : x.state = s.seq.state) :
    EngineGood (s.setSeq x) :=
  h.same (key_setSeq s x state) rfl rfl rfl rfl

theorem EngineGood.setRet (h : EngineGood s) {x : RetainedStore} (latch : x.fuelLatch = s.ret.fuelLatch) :
    EngineGood (s.setRet x) :=
  h.same (by simp [State.key, latch, State.standingCommands]) rfl rfl rfl rfl

theorem EngineGood.setOut (h : EngineGood s) {x : OutputStage} (crank : x.crank = s.out.crank)
    (prelube : x.prelube = s.out.prelube) (permit : x.loadPermit = s.out.loadPermit) :
    EngineGood (s.setOut x) :=
  h.same (by simp [State.key, State.standingCommands, crank, prelube, permit]) rfl rfl rfl rfl

/-- Of the Link Controller the three laws read the claim slot, the frame in transmission and the emptying alone. -/
theorem EngineGood.setLink (h : EngineGood s) {x : LinkUnit} (slot : x.claimSlot = s.link.claimSlot)
    (sending : x.sending = s.link.sending) (disable : x.disablePending = s.link.disablePending) :
    EngineGood (s.setLink x) :=
  h.same (key_setLink s x) rfl slot sending disable

/-- Of the Allocator the three laws read the published target and the number of power steps alone. -/
theorem EngineGood.setAlloc (h : EngineGood s) {x : Allocator} (target : x.results.target ≤ 8)
    (steps : x.powerSteps.length = 8) : EngineGood (s.setAlloc x) := by
  obtain ⟨⟨commands, ⟨notch, -, -⟩, zero, agrees, holds⟩, tidy⟩ := h
  exact ⟨⟨commands, ⟨notch, target, steps⟩, zero, agrees, holds⟩, tidy.of_eq rfl rfl rfl rfl⟩

theorem EngineGood.target_le (h : EngineGood s) : s.alloc.results.target ≤ 8 := h.1.bounded.2.1

theorem EngineGood.powerSteps (h : EngineGood s) : s.alloc.powerSteps.length = 8 := h.1.bounded.2.2

theorem EngineGood.setAllocTimers (h : EngineGood s) {x : Allocator} (results : x.results = s.alloc.results)
    (steps : x.powerSteps = s.alloc.powerSteps) : EngineGood (s.setAlloc x) :=
  h.setAlloc (by rw [results]; exact h.target_le) (by rw [steps]; exact h.powerSteps)

/-! ### The Sequencer's and the Stepper's examinations -/

theorem EngineGood.examineAllocationStop (h : EngineGood s) : EngineGood (Machine.examineAllocationStop s) :=
  h.acts (Acts.refl s).examineAllocationStop (examineAllocationStop_good h.1)

theorem EngineGood.stepperExamine (h : EngineGood s) : EngineGood (Machine.stepperExamine s) :=
  h.acts (Acts.refl s).stepperExamine (stepperExamine_good h.1)

theorem EngineGood.sequencerPassEnd (h : EngineGood s) : EngineGood (Machine.sequencerPassEnd s) :=
  h.acts (Acts.refl s).sequencerPassEnd (sequencerPassEnd_good h.1)

theorem EngineGood.sequencerSpeed (h : EngineGood s) : EngineGood (Machine.sequencerSpeed s) :=
  h.acts (Acts.refl s).sequencerSpeed (sequencerSpeed_good h.1)

theorem EngineGood.examineInit (h : EngineGood s) : EngineGood (Machine.examineInit s) :=
  h.acts (Acts.refl s).examineInit (examineInit_good h.1)

theorem EngineGood.stateTimerReaches (h : EngineGood s) (limit : Nat) :
    EngineGood (Machine.stateTimerReaches limit s) := h.setSeq rfl

theorem EngineGood.failedAttempt (h : EngineGood s) (cranking : s.seq.state = .cranking) :
    EngineGood (Machine.failedAttempt s) :=
  h.acts (Acts.refl s).failedAttempt (failedAttempt_good h.1 cranking)

/-- A state outside the three of the claim and outside ONLINE and UNLOADING has neither a claim nor a notch. -/
theorem EngineGood.rest (h : EngineGood s) (claimless : s.seq.state.claimless = true)
    (still : s.seq.state.steps = false) : s.key.Free ∧ s.key.notch = 0 :=
  ⟨h.1.free claimless, h.1.zero still⟩

theorem EngineGood.enterClaimWait (h : EngineGood s) (prelube : s.seq.state = .prelube) :
    EngineGood (Machine.enterClaimWait s) := by
  obtain ⟨free, notch⟩ := h.rest (by rw [prelube]; rfl) (by rw [prelube]; rfl)
  exact h.acts (Acts.refl s).enterClaimWait (enterClaimWait_good h.1.bounded notch free)

theorem EngineGood.enterStopping (h : EngineGood s) (claimless : s.seq.state.claimless = true) :
    EngineGood (Machine.enterStopping s) :=
  h.acts (Acts.refl s).enterStopping (enterStopping_good h.1.bounded (h.1.free claimless))

/-! ### Raising by the Sequencer -/

theorem EngineGood.raiseMomentary (h : EngineGood s) {code : Nat} (isCode : isConditionCode code = true)
    {f : State → State} (acts : ∀ {t u}, Acts t u → Acts t (f u))
    (good : ∀ u, u.key = s.key → (f u).key.Good) : EngineGood (Machine.raiseMomentary code f s) :=
  h.acts ((Acts.refl s).raiseMomentary isCode fun _ k => acts k) (raiseMomentary_good good)

theorem EngineGood.raiseBySequencer (h : EngineGood s) {code : Nat} (isCode : isConditionCode code = true)
    {f : State → State} (acts : ∀ {t u}, Acts t u → Acts t (f u))
    (good : ∀ u, u.key = s.key → (f u).key.Good) : EngineGood (Machine.raiseBySequencer code f s) :=
  h.acts ((Acts.refl s).raiseBySequencer isCode fun _ k => acts k) (raiseBySequencer_good good)

/-- Entry to FAULTED, with the snapshot of the state being left or without, from a state at rest. -/
theorem EngineGood.raiseFaulted (h : EngineGood s) (claimless : s.seq.state.claimless = true)
    (still : s.seq.state.steps = false) {u : State} (same : u.key = s.key) : (enterFaulted u).key.Good := by
  obtain ⟨free, notch⟩ := h.rest claimless still
  exact enterFaulted_good (same ▸ h.1.bounded) (same ▸ notch) (same ▸ free)

end

/-! ### The line's outcomes -/

section
variable {s : State}

/-- The slot after a failed CLAIM or RELEASE holds none in transmission. -/
theorem slot_failed_notSending (c : ClaimSlot) :
    c.failed.claimIsSending = false ∧ c.failed.releaseIsSending = false := by
  cases c with
  | claimSending f r w => cases r <;> cases w <;> exact ⟨rfl, rfl⟩
  | _ => exact ⟨rfl, rfl⟩

/-- With nothing in transmission the slot and the line agree when the slot holds nothing in transmission. -/
theorem slotSends_of_idle {l : LinkUnit} (idle : l.sending = none) (claim : l.claimSlot.claimIsSending = false)
    (release : l.claimSlot.releaseIsSending = false) : l.slotSends = true := by
  simp [LinkUnit.slotSends, LinkUnit.sendingKind, idle, claim, release]

/-- What is in the slot by the kind of the frame in transmission (R58). -/
theorem slot_of_sending {l : LinkUnit} (h : l.slotSends = true) {t : Transmission} (sends : l.sending = some t) :
    (l.claimSlot.claimIsSending = true ↔ t.kind = .claim)
      ∧ (l.claimSlot.releaseIsSending = true ↔ t.kind = .release) := by
  simp only [LinkUnit.slotSends, LinkUnit.sendingKind, sends, Option.map_some, Bool.and_eq_true, beq_iff_eq] at h
  obtain ⟨claim, release⟩ := h
  rw [claim, release]
  simp

theorem slot_of_notSending {l : LinkUnit} (h : l.slotSends = true) (sends : l.sending = none) :
    l.claimSlot.claimIsSending = false ∧ l.claimSlot.releaseIsSending = false := by
  simpa [LinkUnit.slotSends, LinkUnit.sendingKind, sends] using h

theorem slotAgrees_of_disabling (h : s.link.disablePending = true) : s.slotAgrees = true := by
  simp [State.slotAgrees, h]

theorem slotAgrees_of_empty (h : s.link.claimSlot = .empty) : s.slotAgrees = true := by
  simp [State.slotAgrees, h]

/-- A failed CLAIM waits again where it belongs to OFFERED and is gone where it has LAPSED (R58, R116). -/
theorem slotAgrees_failed {t : State} (h : s.slotAgrees = true) (disable : s.link.disablePending = false)
    (slot : t.link.claimSlot = s.link.claimSlot.failed) (claim : t.claim = s.claim) : t.slotAgrees = true := by
  simp only [State.slotAgrees, disable, Bool.false_or] at h
  simp only [State.slotAgrees, slot, claim]
  cases e : s.link.claimSlot with
  | claimSending f r w => cases r <;> cases w <;> simp_all [ClaimSlot.failed]
  | _ => simp_all [ClaimSlot.failed]

/-- The Link Controller once its frame has failed (R54, R55). -/
def LinkUnit.afterFailure (l : LinkUnit) (kind : TxKind) : LinkUnit :=
  ({ l with sending := none }.slotsAtFailure kind).atOutcome

theorem afterFailure_sending (l : LinkUnit) (kind : TxKind) : (l.afterFailure kind).sending = none := by
  by_cases disable : l.disablePending = true <;> cases kind <;>
    simp [LinkUnit.afterFailure, LinkUnit.slotsAtFailure, LinkUnit.atOutcome, LinkUnit.emptied, disable]

theorem afterFailure_disablePending (l : LinkUnit) (kind : TxKind) :
    (l.afterFailure kind).disablePending = false := by
  by_cases disable : l.disablePending = true <;> cases kind <;>
    simp [LinkUnit.afterFailure, LinkUnit.slotsAtFailure, LinkUnit.atOutcome, LinkUnit.emptied, disable]

/-- The slot once a frame has failed: emptied, a failed CLAIM or RELEASE, or as it was for another kind. -/
theorem afterFailure_claimSlot (l : LinkUnit) (kind : TxKind) :
    (l.afterFailure kind).claimSlot =
      if l.disablePending then .empty
      else if kind = .claim ∨ kind = .release then l.claimSlot.failed else l.claimSlot := by
  by_cases disable : l.disablePending = true <;> cases kind <;>
    simp [LinkUnit.afterFailure, LinkUnit.slotsAtFailure, LinkUnit.atOutcome, LinkUnit.emptied, disable]

theorem ClaimTidy.afterFailure (h : ClaimTidy s) {t : Transmission} (sends : s.link.sending = some t) :
    ClaimTidy (s.setLink (s.link.afterFailure t.kind)) := by
  obtain ⟨timers, agrees, slot⟩ := h
  have idle := afterFailure_sending s.link t.kind
  have kept := afterFailure_claimSlot s.link t.kind
  obtain ⟨claim, release⟩ := slot_of_sending slot sends
  by_cases disable : s.link.disablePending = true
  · rw [if_pos disable] at kept
    exact ⟨timers, slotAgrees_of_empty kept, slotSends_of_idle idle (by rw [setLink_link, kept]; rfl) (by rw [setLink_link, kept]; rfl)⟩
  rw [Bool.not_eq_true] at disable
  rw [disable, if_neg (by simp)] at kept
  by_cases own : t.kind = .claim ∨ t.kind = .release
  · rw [if_pos own] at kept
    obtain ⟨c, r⟩ := slot_failed_notSending s.link.claimSlot
    exact ⟨timers, slotAgrees_failed agrees disable kept rfl,
      slotSends_of_idle idle (by rw [setLink_link, kept, c]) (by rw [setLink_link, kept, r])⟩
  · rw [if_neg own] at kept
    rw [not_or] at own
    refine ⟨timers, ?_, slotSends_of_idle idle ?_ ?_⟩
    · simpa [State.slotAgrees, kept, disable] using Or.inr (by simpa [State.slotAgrees, disable] using agrees)
    · rw [setLink_link, kept, Bool.eq_false_iff]; exact fun c => own.1 (claim.1 c)
    · rw [setLink_link, kept, Bool.eq_false_iff]; exact fun c => own.2 (release.1 c)

/-- In LAPSED a slot that is not in transmission is free of the own CLAIM. -/
theorem EngineGood.slotFree_of_lapsed (h : EngineGood s) (lapsed : s.claim.phase = .lapsed)
    (idle : s.link.sending = none) (disable : s.link.disablePending = false) :
    (∀ c, s.link.claimSlot ≠ .claimPending c) ∧ s.link.claimSlot.claimIsSending = false := by
  obtain ⟨-, -, agrees, slot⟩ := h
  obtain ⟨pending, -⟩ := (slotAgrees_iff s).1 agrees disable
  refine ⟨fun c e => ?_, (slot_of_notSending slot idle).1⟩
  rw [pending c e] at lapsed
  cases lapsed

theorem endFailed_eq (kind : TxKind) (s : State) : endFailed kind s =
    if kind = .claim then ownClaimFailed (s.setLink (s.link.afterFailure kind))
    else s.setLink (s.link.afterFailure kind) := by
  cases kind <;> rfl

theorem EngineGood.endFailed (h : EngineGood s) {t : Transmission} (sends : s.link.sending = some t) :
    EngineGood (Machine.endFailed t.kind s) := by
  have ended : EngineGood (s.setLink (s.link.afterFailure t.kind)) := ⟨(key_setLink s _).symm ▸ h.1, h.2.afterFailure sends⟩
  rw [endFailed_eq]
  refine EngineGood.ite ?_ ended
  unfold Machine.ownClaimFailed
  split
  · next lapsed =>
    exact ended.lapsedEnds lapsed (ended.slotFree_of_lapsed lapsed (afterFailure_sending _ _)) rfl rfl rfl rfl
  · exact ended

end

end Sys2Proof.Machine
end


section
/-! R2, R110, R116, R127 at the line's other outcomes, at a frame's start and at its application. -/

namespace Sys2Proof.Machine

section
variable {s : State}

/-! ### Completion (R57) -/

theorem completed_sending (l : LinkUnit) (kind : TxKind) : (l.completed kind).sending = none := by
  by_cases disable : l.disablePending = true <;> cases kind <;>
    simp [LinkUnit.completed, LinkUnit.slotsAtCompletion, LinkUnit.settle, LinkUnit.atOutcome, LinkUnit.emptied, disable]

theorem completed_disablePending (l : LinkUnit) (kind : TxKind) : (l.completed kind).disablePending = false := by
  by_cases disable : l.disablePending = true <;> cases kind <;>
    simp [LinkUnit.completed, LinkUnit.slotsAtCompletion, LinkUnit.settle, LinkUnit.atOutcome, LinkUnit.emptied, disable]

theorem completed_txEnabled (l : LinkUnit) (kind : TxKind) : (l.completed kind).txEnabled = l.txEnabled := by
  by_cases disable : l.disablePending = true <;> cases kind <;>
    simp [LinkUnit.completed, LinkUnit.slotsAtCompletion, LinkUnit.settle, LinkUnit.atOutcome, LinkUnit.emptied, disable]

/-- The slot once a frame has completed: emptied, a completed CLAIM or RELEASE, or as it was for another kind. -/
theorem completed_claimSlot (l : LinkUnit) (kind : TxKind) :
    (l.completed kind).claimSlot =
      if l.disablePending then .empty
      else if kind = .claim ∨ kind = .release then l.claimSlot.complete else l.claimSlot := by
  by_cases disable : l.disablePending = true <;> cases kind <;>
    simp [LinkUnit.completed, LinkUnit.slotsAtCompletion, LinkUnit.settle, LinkUnit.atOutcome, LinkUnit.emptied, disable]

/-- The slot once a CLAIM or RELEASE of a tidy claim has completed is empty (R58, R116). -/
theorem slot_completed (h : ClaimTidy s) {t : Transmission} (sends : s.link.sending = some t)
    (own : t.kind = .claim ∨ t.kind = .release) : (s.link.completed t.kind).claimSlot = .empty := by
  obtain ⟨-, agrees, slot⟩ := h
  obtain ⟨claim, release⟩ := slot_of_sending slot sends
  rw [completed_claimSlot]
  split
  · rfl
  next disable =>
    rw [Bool.not_eq_true] at disable
    obtain ⟨-, -, -, held⟩ := (slotAgrees_iff s).1 agrees disable
    cases e : s.link.claimSlot with
    | claimSending c r w =>
      cases r with
      | none => rfl
      | some o => exact absurd e (held c o w)
    | releaseSending o => rfl
    | _ => simp_all [ClaimSlot.claimIsSending, ClaimSlot.releaseIsSending]

theorem ClaimTidy.completed (h : ClaimTidy s) {t : Transmission} (sends : s.link.sending = some t) :
    ClaimTidy (s.setLink (s.link.completed t.kind)) := by
  have emptied := slot_completed h sends
  obtain ⟨timers, agrees, slot⟩ := h
  have idle := completed_sending s.link t.kind
  by_cases own : t.kind = .claim ∨ t.kind = .release
  · have empty := emptied own
    exact ⟨timers, slotAgrees_of_empty empty,
      slotSends_of_idle idle (by rw [setLink_link, empty]; rfl) (by rw [setLink_link, empty]; rfl)⟩
  obtain ⟨claim, release⟩ := slot_of_sending slot sends
  have kept := completed_claimSlot s.link t.kind
  rw [if_neg own] at kept
  rw [not_or] at own
  have c : s.link.claimSlot.claimIsSending = false := by
    rw [Bool.eq_false_iff]; exact fun c => own.1 (claim.1 c)
  have r : s.link.claimSlot.releaseIsSending = false := by
    rw [Bool.eq_false_iff]; exact fun c => own.2 (release.1 c)
  refine ⟨timers, ?_, slotSends_of_idle idle ?_ ?_⟩
  · by_cases disable : s.link.disablePending = true
    · exact slotAgrees_of_empty (by rw [setLink_link, kept, if_pos disable])
    · rw [if_neg disable] at kept
      rw [Bool.not_eq_true] at disable
      simpa [State.slotAgrees, kept, completed_disablePending] using (by simpa [State.slotAgrees, disable] using agrees)
  all_goals rw [setLink_link, kept]; split
  · rfl
  · exact c
  · rfl
  · exact r

/-! ### LINK_FAULT ends -/

theorem EngineGood.linkFaultEnds (h : EngineGood s) : EngineGood (Machine.linkFaultEnds s) :=
  EngineGood.ite (h.reportGone _) (h.reportGone _).leaveAlone

theorem examineOffer_of_phase {s : State} (h : s.claim.phase ≠ .wanted) : examineOffer s = s := by
  simp [examineOffer, h]

/-- Leaving ALONE is quiet but for the view, where no CLAIM can be offered. -/
theorem leaveAlone_of_phase (h : s.claim.phase ≠ .wanted) :
    (leaveAlone s).claim = s.claim ∧ (leaveAlone s).link.claimSlot = s.link.claimSlot := by
  unfold leaveAlone
  split
  · rw [examineOffer_of_phase (by rw [markStatus_claim]; exact h), markStatus_eq]
    exact ⟨rfl, rfl⟩
  · exact ⟨rfl, rfl⟩

/-- The exit from LINK_FAULT leaves the slot as it is where no CLAIM can be offered. -/
theorem linkFaultEnds_claimSlot (h : s.claim.phase ≠ .wanted) :
    (linkFaultEnds s).link.claimSlot = s.link.claimSlot := by
  have quiet := (Quiet.refl s).reportGone codeLinkFault
  unfold linkFaultEnds
  dsimp only
  split
  · exact quiet.claimSlot
  · rw [(leaveAlone_of_phase (by rw [quiet.claim]; exact h)).2]
    exact quiet.claimSlot

theorem linkFaultEnds_untouched (s : State) : ∃ c m, (linkFaultEnds s).link =
    { s.link with claimSlot := c, statusMarked := m } :=
  Moves.link (Moves.ite ((Moves.refl s).reportGone _) ((Moves.refl s).reportGone _).leaveAlone)

theorem EngineGood.handCompletion_claim (h : EngineGood s)
    (empty : s.link.txEnabled = true → s.link.claimSlot = .empty) :
    EngineGood (Machine.handCompletion .claim s) := by
  unfold Machine.handCompletion
  dsimp only
  split
  · next enabled =>
    refine h.ownClaimCompleted fun _ => ?_
    rw [empty enabled]
    exact ⟨fun c => nofun, rfl⟩
  · exact h

theorem EngineGood.serveMailbox (h : EngineGood s) : EngineGood (Machine.serveMailbox s) := by
  unfold Machine.serveMailbox
  split
  · exact h
  · refine EngineGood.ite ?_ h
    exact (h.setLink (x := { s.link with replySlot := _ }) rfl rfl rfl).setMailbox none

theorem EngineGood.statusCompleted (h : EngineGood s) : EngineGood (Machine.statusCompleted s) :=
  h.setLink rfl rfl rfl

/-- A CLAIM in transmission whose slot is not to be emptied belongs to OFFERED or LAPSED. -/
theorem phase_of_claimSending (h : ClaimTidy s) {t : Transmission} (sends : s.link.sending = some t)
    (claim : t.kind = .claim) (disable : s.link.disablePending = false) :
    s.claim.phase = .offered ∨ s.claim.phase = .lapsed := by
  by_contra other
  rw [not_or] at other
  have free := (slot_free h.2.1 disable other).2
  rw [((slot_of_sending h.2.2 sends).1).2 claim] at free
  cases free

theorem EngineGood.transmissionCompletion (h : EngineGood s) (tr : TransmitterLaw s) :
    EngineGood (s.after .transmissionCompletion) := by
  simp only [State.after, exec, execTransmissionCompletion]
  split
  case h_2 => exact h
  case h_1 t sends =>
    have done : EngineGood (s.setLink (s.link.completed t.kind)) :=
      ⟨(key_setLink s _).symm ▸ h.1, h.2.completed sends⟩
    generalize hd : s.setLink (s.link.completed t.kind) = d at done
    have ended : EngineGood (if s.link.linkFault then Machine.linkFaultEnds d else d) :=
      EngineGood.ite done.linkFaultEnds done
    cases kind : t.kind with
    | claim =>
      refine ended.handCompletion_claim fun enabled => ?_
      have empty : d.link.claimSlot = .empty := by rw [← hd]; exact slot_completed h.2 sends (.inl kind)
      have tx : d.link.txEnabled = s.link.txEnabled := by rw [← hd]; exact completed_txEnabled _ _
      split at enabled
      · next fault =>
        rw [if_pos fault]
        obtain ⟨c, m, e⟩ := linkFaultEnds_untouched d
        rw [e] at enabled
        have disable : s.link.disablePending = false := by
          rw [Bool.eq_false_iff]
          intro pending
          have off := tr.2.2 pending
          rw [← tx] at off
          exact absurd enabled (by rw [off]; exact Bool.false_ne_true)
        have phase := phase_of_claimSending h.2 sends kind disable
        rw [linkFaultEnds_claimSlot, empty]
        rw [← hd]
        rcases phase with p | p <;> rw [setLink_claim, p] <;> nofun
      · next fault => rw [if_neg fault, empty]
    | release => exact EngineGood.ite ended.examineOffer ended
    | status => exact ended.statusCompleted
    | reply => exact ended.serveMailbox

/-! ### A frame's start (R53) -/

theorem candidate_claim {l : LinkUnit} (h : l.candidate = some .claim) : ∃ c, l.claimSlot = .claimPending c := by
  unfold LinkUnit.candidate at h
  split at h
  · cases h
  split at h
  · exact ⟨_, ‹_›⟩
  · cases h
  · split at h
    · cases h
    · split at h <;> cases h

theorem candidate_release {l : LinkUnit} (h : l.candidate = some .release) :
    ∃ o, l.claimSlot = .releasePending o := by
  unfold LinkUnit.candidate at h
  split at h
  · cases h
  split at h
  · cases h
  · exact ⟨_, ‹_›⟩
  · split at h
    · cases h
    · split at h <;> cases h

theorem startDue_iff (s : State) : s.startDue = true ↔
    s.link.line = .idle ∧ s.link.sending = none ∧ s.link.candidate.isSome = true := by
  simp [State.startDue, and_assoc]

/-- The Link Controller at the start bit of a candidate's frame (R53, R58, R59). -/
def State.linkAtStart (s : State) (kind : TxKind) : LinkUnit :=
  { s.link.slotsAtStart kind with line := .inFrame, sending := some ⟨kind, s.frameFor kind⟩ }

theorem after_frameStart (s : State) : s.after .frameStart =
    if s.startDue then
      match s.link.candidate with
      | some kind => s.setLink (s.linkAtStart kind)
      | none => s
    else s := rfl

/-- FRAME_START does nothing, or sends the candidate at an IDLE line. -/
theorem after_frameStart_cases (s : State) : s.after .frameStart = s
    ∨ ∃ kind, s.link.candidate = some kind ∧ s.link.line = .idle ∧ s.link.sending = none
        ∧ s.after .frameStart = s.setLink (s.linkAtStart kind) := by
  rw [after_frameStart]
  split
  · next due =>
    obtain ⟨line, idle, some⟩ := (startDue_iff s).1 due
    obtain ⟨kind, candidate⟩ := Option.isSome_iff_exists.1 some
    exact .inr ⟨kind, candidate, line, idle, by rw [candidate]⟩
  · exact .inl rfl

theorem ClaimTidy.linkAtStart (h : ClaimTidy s) {kind : TxKind} (candidate : s.link.candidate = some kind)
    (idle : s.link.sending = none) : ClaimTidy (s.setLink (s.linkAtStart kind)) := by
  obtain ⟨timers, agrees, slot⟩ := h
  obtain ⟨c, r⟩ := slot_of_notSending slot idle
  refine ⟨timers, ?_, ?_⟩
  · cases kind with
    | claim =>
      obtain ⟨f, e⟩ := candidate_claim candidate
      simpa [State.slotAgrees, State.linkAtStart, LinkUnit.slotsAtStart, e, ClaimSlot.start] using agrees
    | release =>
      obtain ⟨f, e⟩ := candidate_release candidate
      simp [State.slotAgrees, State.linkAtStart, LinkUnit.slotsAtStart, e, ClaimSlot.start]
    | status => exact agrees
    | reply => exact agrees
  · cases kind with
    | claim =>
      obtain ⟨f, e⟩ := candidate_claim candidate
      simp [LinkUnit.slotSends, LinkUnit.sendingKind, State.linkAtStart, LinkUnit.slotsAtStart, e, ClaimSlot.start,
        ClaimSlot.claimIsSending, ClaimSlot.releaseIsSending]
    | release =>
      obtain ⟨f, e⟩ := candidate_release candidate
      simp [LinkUnit.slotSends, LinkUnit.sendingKind, State.linkAtStart, LinkUnit.slotsAtStart, e, ClaimSlot.start,
        ClaimSlot.claimIsSending, ClaimSlot.releaseIsSending]
    | status => simp [LinkUnit.slotSends, LinkUnit.sendingKind, State.linkAtStart, LinkUnit.slotsAtStart, c, r]
    | reply => simp [LinkUnit.slotSends, LinkUnit.sendingKind, State.linkAtStart, LinkUnit.slotsAtStart, c, r]

theorem EngineGood.frameStart (h : EngineGood s) : EngineGood (s.after .frameStart) := by
  obtain e | ⟨kind, candidate, -, idle, e⟩ := after_frameStart_cases s
  · rw [e]; exact h
  · rw [e]; exact ⟨(key_setLink s _).symm ▸ h.1, h.2.linkAtStart candidate idle⟩

/-! ### Arrival of a foreign CLAIM (R58, R118) -/

theorem EngineGood.foreignClaim (h : EngineGood s) : EngineGood (Machine.foreignClaim s) := by
  unfold Machine.foreignClaim
  split
  case h_2 => exact h
  case h_1 c pending =>
    have slot : s.link.claimSlot.foreignClaim = .empty := by rw [pending]; rfl
    have idle : s.link.sendingKind ≠ some .claim ∧ s.link.sendingKind ≠ some .release := by
      have sends := h.2.2.2
      simpa [LinkUnit.slotSends, pending, ClaimSlot.claimIsSending, ClaimSlot.releaseIsSending] using sends
    have tidy : ClaimTidy (s.setLink { s.link with claimSlot := s.link.claimSlot.foreignClaim }) :=
      ⟨h.2.1, slotAgrees_of_empty slot, by
        simpa [LinkUnit.slotSends, LinkUnit.sendingKind, slot, ClaimSlot.claimIsSending,
          ClaimSlot.releaseIsSending] using idle⟩
    dsimp only
    have good : EngineGood (s.setLink { s.link with claimSlot := s.link.claimSlot.foreignClaim }) :=
      ⟨(key_setLink s _).symm ▸ h.1, tidy⟩
    split
    · next offered =>
      obtain ⟨g, timers, -, -⟩ := good
      refine ⟨?_, tidy.toPhase rfl rfl rfl (by rw [setLink_claim, offered]; nofun)
        (fun _ => by rw [setLink_link, slot]; exact ⟨fun c => nofun, rfl⟩) ⟨nofun, nofun⟩⟩
      rw [key_setClaim, key_setLink]
      obtain ⟨commands, bounded, zero, agrees, holds⟩ := h.1
      have phase : s.key.phase = .offered := offered
      rw [Key.agrees, phase] at agrees
      rw [Key.holds, phase] at holds
      have others : s.claim.holder ≠ .self := by simpa [State.key] using holds
      exact ⟨commands, bounded, zero, agrees, by simpa [Key.holds] using others⟩
    · exact good

/-! ### A frame's application (R70, R76) -/

theorem EngineGood.disableTransmitter (h : EngineGood s) : EngineGood (Machine.disableTransmitter s) := by
  unfold Machine.disableTransmitter
  refine EngineGood.claimWithoutTransmitter ((?_ : EngineGood (s.setLink _)).setMailbox none) ?_
  · refine ⟨(key_setLink s _).symm ▸ h.1, ?_⟩
    split
    · exact ⟨h.2.1, slotAgrees_of_disabling rfl, h.2.2.2⟩
    · next idle =>
      have none : s.link.sending = none := by simpa using idle
      exact ⟨h.2.1, slotAgrees_of_empty rfl, slotSends_of_idle none rfl rfl⟩
  · intro disable
    simp only [setMailbox_link, setLink_link] at disable ⊢
    split at disable
    · cases disable
    · next idle => rw [if_neg idle]; exact ⟨fun c => nofun, rfl⟩

theorem EngineGood.request (h : EngineGood s) (q : Request) : EngineGood (Machine.request q s) :=
  EngineGood.ite (h.setMailbox _).serveMailbox h

theorem EngineGood.applyFrame (h : EngineGood s) (f : RawFrame) : EngineGood (Machine.applyFrame f s) := by
  unfold Machine.applyFrame
  refine EngineGood.ite (EngineGood.ite (h.request _) h)
    (EngineGood.ite (h.disableTransmitter.reportPresent rfl) ?_)
  split
  · exact h.applyPeer _ _
  · exact h

end

end Sys2Proof.Machine
end


section
/-! R2, R110, R116, R127 under every command. -/

namespace Sys2Proof.Machine

section
variable {s : State}

theorem EngineGood.beginDrain (h : EngineGood s) : EngineGood (Machine.beginDrain s) := h.setLink rfl rfl rfl

theorem EngineGood.enterReady (h : EngineGood s) : EngineGood (Machine.enterReady s) := h.setAllocTimers rfl rfl

theorem EngineGood.publish (h : EngineGood s) {r : PassResults} (target : r.target ≤ 8) :
    EngineGood (Machine.publish r s) :=
  EngineGood.markStatusIf (h.setAlloc (x := { s.alloc with
    results := r, stopDelay := s.stopDelayAtPassEnd r }) target h.powerSteps) _

theorem EngineGood.passEnd (h : EngineGood s) : EngineGood (s.after .passEnd) := by
  have target : s.passResults.target ≤ 8 := by
    cases self : s.alloc.snapshot.self with
    | none => simp [State.passResults, self]
    | some me => exact passResults_target_le self h.powerSteps
  simp only [State.after, exec, execPassEnd]
  refine EngineGood.ite ?_ h
  exact (h.publish target).sequencerPassEnd.stepperExamine.enterReady.takeHeldExpiries.beginDrain

theorem raisedFrom_length (lo : Nat) (l : List Nat) : (raisedFrom lo l).length = l.length := by
  induction l generalizing lo with
  | nil => rfl
  | cons x xs ih => exact congrArg (· + 1) (ih _)

theorem powerStepsOf_paramsOf_length (image : List Byte) : (powerStepsOf (paramsOf image)).length = 8 := by
  rw [powerStepsOf, List.length_map]
  exact (raisedFrom_length 0 _).trans (by simp [Params.clamped, storedParams])

theorem EngineGood.loadParameters (h : EngineGood s) : EngineGood (Machine.loadParameters s) := by
  unfold Machine.loadParameters
  refine EngineGood.setAlloc (EngineGood.setMon ((EngineGood.setLoad ?_ _)) _) h.target_le
    (powerStepsOf_paramsOf_length _)
  exact h.same rfl rfl rfl rfl rfl

theorem EngineGood.loadHours (h : EngineGood s) : EngineGood (Machine.loadHours s) := by
  have set := (h.setLoad { s.load with
    hours := s.loadedHours, startRecord := ⟨s.load.resetKind, s.ret.wasRunning⟩ }).setRet
      (x := { s.ret with shadow := s.loadedHours }) rfl
  exact EngineGood.ite (set.portMark _) set

theorem EngineGood.startLoadTimers (h : EngineGood s) : EngineGood (Machine.startLoadTimers s) :=
  (((h.setClaim rfl rfl rfl rfl rfl).setAllocTimers rfl rfl).setCab _).setPort _

theorem EngineGood.judgeConfig (h : EngineGood s) : EngineGood (Machine.judgeConfig s) :=
  EngineGood.ite (h.reportPresent rfl) h

theorem EngineGood.enableTransmitter (h : EngineGood s) : EngineGood (Machine.enableTransmitter s) :=
  EngineGood.ite (h.setLink rfl rfl rfl) h

theorem EngineGood.configLoadCompletion (h : EngineGood s) : EngineGood (s.after .configLoadCompletion) := by
  simp only [State.after, exec, execConfigLoadCompletion]
  refine EngineGood.ite ?_ h
  have judged := h.loadParameters.loadHours.judgeConfig.computeDerate
  exact ((judged.unmaskInputs false).enableTransmitter).startLoadTimers.examineInit

theorem EngineGood.frameArrival (h : EngineGood s) (f : RawFrame) : EngineGood (s.after (.frameArrival f)) := by
  simp only [State.after, exec, execFrameArrival]
  split
  · next b filled =>
    have judged : EngineGood (s.setLink { s.link.settle (trailingReleased f.endField) with
        filling := none, buffers := s.link.buffers.set b f }) := h.setLink rfl rfl rfl
    refine EngineGood.ite ?_ (judged.setLink rfl rfl rfl)
    refine EngineGood.setLink (EngineGood.setLink (EngineGood.ite judged.foreignClaim judged) rfl rfl rfl) rfl rfl rfl
  · exact EngineGood.ite (h.setLink rfl rfl rfl) h

theorem takeBuffer_keeps (l : LinkUnit) : l.takeBuffer.claimSlot = l.claimSlot ∧ l.takeBuffer.sending = l.sending
    ∧ l.takeBuffer.disablePending = l.disablePending ∧ l.takeBuffer.txEnabled = l.txEnabled
    ∧ l.takeBuffer.linkFault = l.linkFault ∧ l.takeBuffer.statusMarked = l.statusMarked
    ∧ l.takeBuffer.replySlot = l.replySlot ∧ l.takeBuffer.heartbeat = l.heartbeat
    ∧ l.takeBuffer.bitErrors = l.bitErrors := by
  unfold LinkUnit.takeBuffer
  split
  · split <;> exact ⟨rfl, rfl, rfl, rfl, rfl, rfl, rfl, rfl, rfl⟩
  · exact ⟨rfl, rfl, rfl, rfl, rfl, rfl, rfl, rfl, rfl⟩

/-- A bit error leaves the slots, the transmission and the transmitter as the failure left them. -/
theorem afterBitError_keeps (l : LinkUnit) (place : BitErrorPlace) :
    (l.afterBitError place).claimSlot = l.claimSlot ∧ (l.afterBitError place).sending = l.sending
    ∧ (l.afterBitError place).disablePending = l.disablePending
    ∧ (l.afterBitError place).txEnabled = l.txEnabled ∧ (l.afterBitError place).linkFault = l.linkFault
    ∧ (l.afterBitError place).statusMarked = l.statusMarked ∧ (l.afterBitError place).replySlot = l.replySlot
    ∧ (l.afterBitError place).heartbeat = l.heartbeat ∧ (l.afterBitError place).bitErrors = l.bitErrors := by
  cases place
  · exact ⟨rfl, rfl, rfl, rfl, rfl, rfl, rfl, rfl, rfl⟩
  · exact ⟨rfl, rfl, rfl, rfl, rfl, rfl, rfl, rfl, rfl⟩
  · exact takeBuffer_keeps l
  · exact takeBuffer_keeps l

theorem countError_keeps (l : LinkUnit) : l.countError.claimSlot = l.claimSlot ∧ l.countError.sending = l.sending
    ∧ l.countError.disablePending = l.disablePending ∧ l.countError.txEnabled = l.txEnabled
    ∧ l.countError.statusMarked = l.statusMarked ∧ l.countError.replySlot = l.replySlot
    ∧ l.countError.heartbeat = l.heartbeat := by
  unfold LinkUnit.countError
  dsimp only
  split
  · exact ⟨rfl, rfl, rfl, rfl, rfl, rfl, rfl⟩
  · split <;> exact ⟨rfl, rfl, rfl, rfl, rfl, rfl, rfl⟩

theorem EngineGood.bitError (h : EngineGood s) (place : BitErrorPlace) : EngineGood (s.after (.bitError place)) := by
  simp only [State.after, exec, execBitError]
  split
  · next t sends =>
    have ended := h.endFailed sends
    obtain ⟨slot, sending, disable, -⟩ := countError_keeps ((Machine.endFailed t.kind s).link.afterBitError place)
    obtain ⟨slot', sending', disable', -⟩ := afterBitError_keeps (Machine.endFailed t.kind s).link place
    have counted := ended.setLink (slot.trans slot') (sending.trans sending') (disable.trans disable')
    exact EngineGood.ite (counted.reportPresent rfl).enterAlone counted
  · exact h

theorem EngineGood.setEntry (h : EngineGood s) (i : Fin 7) (e : PeerEntry) :
    EngineGood (s.setView (s.view.setEntry i e)) := h.setView _

theorem EngineGood.ageExpiry (h : EngineGood s) (n : Nat) : EngineGood (s.after (.ageExpiry n)) := by
  simp only [State.after, exec, execAgeExpiry]
  split
  · exact h
  · exact EngineGood.ite (EngineGood.ite ((h.setView _).setView _) ((h.setView _).ageTaken _)) h

theorem EngineGood.prelubeTimeExpiry (h : EngineGood s) : EngineGood (s.after .prelubeTimeExpiry) := by
  simp only [State.after, exec, execPrelubeTimeExpiry]
  split
  · next state =>
    refine EngineGood.ite ?_ ((h.stateTimerReaches _).enterClaimWait state)
    refine (h.stateTimerReaches _).raiseMomentary rfl (fun k => k.takeSnapshot.enterFaulted) fun u same => ?_
    refine (h.stateTimerReaches s.params.prelubeLimit).raiseFaulted (u := takeSnapshot u) ?_ ?_ (by rw [key_takeSnapshot, same])
    · exact (congrArg EngineState.claimless state)
    · exact (congrArg EngineState.steps state)
  · exact h

/-- CRANKING ends in the fire: the claim is released and RUNUP entered. -/
theorem EngineGood.fireConfirmExpiry (h : EngineGood s) : EngineGood (s.after .fireConfirmExpiry) := by
  simp only [State.after, exec, execFireConfirmExpiry]
  split
  · next c =>
    have cranking : s.seq.state = .cranking := by
      simp only [Bool.and_eq_true, decide_eq_true_eq] at c
      exact c.1
    have expired : EngineGood (s.setSeq { s.seq with fireConfirm := .expired }) := h.setSeq rfl
    exact expired.acts (Acts.refl _).fire (fire_good expired.1 cranking)
  · exact h

theorem EngineGood.runupTimeExpiry (h : EngineGood s) : EngineGood (s.after .runupTimeExpiry) := by
  simp only [State.after, exec, execRunupTimeExpiry]
  split
  · next state =>
    have reached := h.stateTimerReaches s.params.runupLimit
    refine reached.raiseMomentary rfl Acts.enterStopping fun u same => ?_
    exact enterStopping_good (same ▸ reached.1.bounded)
      (same ▸ reached.1.free (congrArg EngineState.claimless state))
  · exact h

theorem EngineGood.cooldownExpiry (h : EngineGood s) : EngineGood (s.after .cooldownExpiry) := by
  simp only [State.after, exec, execCooldownExpiry]
  split
  · next state =>
    exact (h.stateTimerReaches _).enterStopping (congrArg EngineState.claimless state)
  · exact h

theorem EngineGood.stopLimitExpiry (h : EngineGood s) : EngineGood (s.after .stopLimitExpiry) := by
  simp only [State.after, exec, execStopLimitExpiry]
  split
  · next state =>
    refine (h.stateTimerReaches _).raiseBySequencer rfl Acts.enterFaulted fun u same => ?_
    exact (h.stateTimerReaches s.params.stopLimitMs).raiseFaulted (congrArg EngineState.claimless state)
      (congrArg EngineState.steps state) same
  · exact h

theorem EngineGood.crankTimeExpiry (h : EngineGood s) : EngineGood (s.after .crankTimeExpiry) := by
  simp only [State.after, exec, execCrankTimeExpiry]
  split
  · next state => exact (h.stateTimerReaches _).failedAttempt state
  · exact h

theorem EngineGood.leaseExpiry (h : EngineGood s) : EngineGood (s.after .leaseExpiry) := by
  simp only [State.after, exec, execLeaseExpiry]
  split
  · next running =>
    obtain ⟨-, timers, -, -⟩ := id h
    rw [timersAgree_iff, running] at timers
    exact (h.released timers.1.symm).examineOffer
  · exact h

/-- SETTLING ends in CRANKING with the claim held (R120). -/
theorem EngineGood.settleExpiry (h : EngineGood s) : EngineGood (s.after .settleExpiry) := by
  simp only [State.after, exec, execSettleExpiry]
  split
  · next c =>
    simp only [Bool.and_eq_true, beq_iff_eq] at c
    obtain ⟨-, settling⟩ := c
    obtain ⟨⟨commands, bounded, zero, agrees, holds⟩, tidy⟩ := id h
    have phase : s.key.phase = .settling := settling
    rw [Key.agrees, phase] at agrees
    have state : s.seq.state = .claimSettle := agrees
    have holder : s.claim.holder = .self := holds.2 (.inl settling)
    rw [if_pos state]
    have cranking : ClaimTidy (s.setClaim { s.claim with settle := .expired, phase := .cranking }) := by
      obtain ⟨timers, slot, sends⟩ := tidy
      rw [timersAgree_iff] at timers
      refine ⟨(timersAgree_iff _).2 ⟨timers.1, rfl, nofun⟩, ?_, sends⟩
      rw [slotAgrees_iff]
      intro disable
      obtain ⟨free, notSending⟩ := slot_free slot disable (by rw [settling]; exact ⟨nofun, nofun⟩)
      refine ⟨fun c e => absurd e (free c), fun c e => ?_, fun c e => ?_, fun c o w e => ?_⟩ <;>
        · have e' : s.link.claimSlot = _ := e
          rw [e'] at notSending
          cases notSending
    have tidyHold : HoldTidy (s.setClaim { s.claim with settle := .expired, phase := .cranking }) :=
      ⟨(holds_iff _).2 (by simp [Key.holds, State.key, holder]), cranking⟩
    refine ⟨enterCranking_good bounded (zero (by rw [agrees]; rfl)) rfl holder, ?_⟩
    exact ((Acts.refl _).enterCranking.holdTidy tidyHold).2
  · exact h

theorem EngineGood.heatUpdate (h : EngineGood s) : EngineGood (s.after .heatUpdate) := by
  simp only [State.after, exec, execHeatUpdate]
  split
  · have updated : EngineGood (s.setClaim { s.claim with
        heat := heatAfter s.params s.claim.heat s.out.crank, heatTimer := .running Config.heatMs }) :=
      h.setClaim rfl rfl rfl rfl rfl
    split
    · exact updated.examineOffer
    · split
      · next c =>
        simp only [Bool.and_eq_true, decide_eq_true_eq] at c
        exact updated.failedAttempt c.2
      · exact updated
    all_goals exact updated
  · exact h

theorem isRunning_advance (t : Timer) (dt : Nat) : (t.advance dt).isRunning = t.isRunning := by
  cases t <;> rfl

theorem EngineGood.tick (h : EngineGood s) : EngineGood (Machine.tick s) := by
  obtain ⟨good, timers, slot, sends⟩ := h
  refine ⟨good, ?_, slot, sends⟩
  rw [timersAgree_iff] at timers ⊢
  simpa only [Machine.tick, ClaimUnit.tick, isRunning_advance] using timers

end

end Sys2Proof.Machine
end


section
/-! R2, R52, R58, R110, R116, R127 as one invariant. -/

namespace Sys2Proof.Machine

section
variable {s : State}

theorem EngineGood.stallTest (h : EngineGood s) : EngineGood (Machine.stallTest s) :=
  EngineGood.ite (h.setMon _) (EngineGood.ite (h.setMon _) h)

theorem EngineGood.failToStopCause (h : EngineGood s) : EngineGood (Machine.failToStopCause s) :=
  EngineGood.ite (h.reportCause rfl _) h

theorem EngineGood.runningTime (h : EngineGood s) : EngineGood (Machine.runningTime s) :=
  EngineGood.ite h.countWindow h

theorem EngineGood.overspeedTest (h : EngineGood s) : EngineGood (Machine.overspeedTest s) :=
  EngineGood.ite (h.reportCause rfl _) h

theorem EngineGood.speedValue (h : EngineGood s) (pulses : Nat) : EngineGood (s.after (.speedValue pulses)) := by
  have sampled := h.setMon { s.mon with speed := speedOf s.params.teeth pulses, speedYet := true }
  exact sampled.overspeedTest.stallTest.failToStopCause.runningTime.sequencerSpeed

theorem EngineGood.graceTimerExpiry (h : EngineGood s) : EngineGood (s.after .graceTimerExpiry) := by
  have tested := (h.setMon { s.mon with runPhase := .run, grace := .expired }).lowOilTest
  exact EngineGood.ite (EngineGood.ite (tested.unmaskInputs true) tested) h

end

/-- Every command keeps the laws of the outputs, the own claim and the notch. -/
theorem EngineGood.after {s : State} (h : EngineGood s) (tr : TransmitterLaw s) (c : Instr) :
    EngineGood (s.after c) := by
  cases c with
  | powerOnReset p => exact engineGood_afterReset _ _ _ _ _
  | coreReset p => exact engineGood_afterReset _ _ _ _ _
  | cabLineQualification line =>
    exact EngineGood.ite (EngineGood.ite ((h.setCab _).lineQualified _ _) (h.setCab _)) h
  | throttleCodeQualification => exact EngineGood.ite (EngineGood.ite (h.setCab _) (h.changeDecoder _)) h
  | invalidCodeTimerExpiry => exact EngineGood.ite (EngineGood.ite (h.changeDecoder _) (h.setCab _)) h
  | layoverCheckExpiry => exact EngineGood.ite ((h.setCab _).markStatusIf _) h
  | frameStart => exact h.frameStart
  | arbitrationLoss =>
    simp only [State.after, exec, execArbitrationLoss]
    split
    · next t sends => exact h.endFailed sends
    · exact h
  | bitError place => exact h.bitError place
  | holdOffExpiry => exact EngineGood.ite (h.setLink rfl rfl rfl) h
  | transmissionCompletion => exact h.transmissionCompletion tr
  | frameArrival f => exact h.frameArrival f
  | heartbeatExpiry => exact EngineGood.ite (EngineGood.markStatus (h.setLink rfl rfl rfl)) h
  | spacingTimerExpiry => exact EngineGood.ite (h.setLink rfl rfl rfl) h
  | frameApplication =>
    simp only [State.after, exec, execFrameApplication]
    refine EngineGood.ite ?_ h
    split
    · refine EngineGood.applyFrame ?_ _
      exact h.setLink rfl rfl rfl
    · exact h
  | applicationEnd =>
    simp only [State.after, exec, execApplicationEnd]
    split
    · exact EngineGood.setLink (h.setLink rfl rfl rfl) rfl rfl rfl
    · exact h
  | ageExpiry n => exact h.ageExpiry n
  | listenTimerExpiry => exact EngineGood.ite (h.setAllocTimers rfl rfl) h
  | evaluationTimerExpiry => exact EngineGood.ite (EngineGood.passTrigger (h.setAllocTimers rfl rfl)) h
  | passStart => exact EngineGood.ite (EngineGood.setView (h.setAllocTimers rfl rfl) _) h
  | passEnd => exact h.passEnd
  | stopDelayExpiry => exact EngineGood.ite (h.setStopDelay _).examineAllocationStop h
  | prelubeTimeExpiry => exact h.prelubeTimeExpiry
  | crankTimeExpiry => exact h.crankTimeExpiry
  | fireConfirmExpiry => exact h.fireConfirmExpiry
  | runupTimeExpiry => exact h.runupTimeExpiry
  | warmMinExpiry => exact EngineGood.ite (h.stateTimerReaches _).examineWarm h
  | warmMaxExpiry => exact EngineGood.ite (h.stateTimerReaches _).examineWarm h
  | cooldownExpiry => exact h.cooldownExpiry
  | stopLimitExpiry => exact h.stopLimitExpiry
  | restTimerExpiry => exact EngineGood.ite (EngineGood.examineOffer (h.setSeq rfl)) h
  | minRunExpiry => exact EngineGood.ite (EngineGood.examineAllocationStop (h.setSeq rfl)) h
  | leaseExpiry => exact h.leaseExpiry
  | recoveryTimerExpiry => exact EngineGood.ite (EngineGood.examineOffer (h.setClaim rfl rfl rfl rfl rfl)) h
  | settleExpiry => exact h.settleExpiry
  | heatUpdate => exact h.heatUpdate
  | upDwellEvent => exact EngineGood.ite (EngineGood.stepperExamine (h.setStepper rfl)) h
  | downDwellEvent => exact EngineGood.ite (EngineGood.stepperExamine (h.setStepper rfl)) h
  | configReadCompletion bytes =>
    simp only [State.after, exec, execConfigReadCompletion]
    split
    · exact ((h.setPort _).setLoad _).portRelease
    · exact h
  | setpointWriteCompletion =>
    exact EngineGood.ite (EngineGood.portRelease (EngineGood.ite (h.setPort _) h)) h
  | hoursWriteCompletion => exact EngineGood.ite h.portRelease h
  | statusReadCompletion sig st code fuel =>
    exact EngineGood.ite (EngineGood.ite (h.setPort _).portRelease ((h.setPort _).portRelease.reportCause rfl _)) h
  | setpointRefreshExpiry => exact EngineGood.ite ((h.setPort _).portMark _) h
  | governorStatusTimerExpiry => exact EngineGood.ite ((h.setPort _).portMark _) h
  | analogSample ch raw =>
    exact EngineGood.channelValue
      (EngineGood.ite (h.setMon _) ((h.setMon _).reportCause (sensorCode_isCode ch) _)) ch
  | speedValue pulses => exact h.speedValue pulses
  | graceTimerExpiry => exact h.graceTimerExpiry
  | stallTimerExpiry => exact EngineGood.ite (((h.setMon _).reportPresent rfl).reportGone _) h
  | protectiveInputQualification k =>
    simp only [State.after, exec, execProtectiveInputQualification]
    split
    · exact h
    · exact EngineGood.ite (EngineGood.compareInput (h.setMon _) _) h
  | feedbackQualification o =>
    exact EngineGood.ite (EngineGood.ite ((h.setProving _ _).feedbackQualified _) (h.setProving _ _)) h
  | provingTimerExpiry o =>
    exact EngineGood.ite ((h.setProving _ _).reportPresent (mismatchCode_isCode _ _)) h
  | configLoadCompletion => exact h.configLoadCompletion
  | readSelf a => exact h.request _
  | readPeer a => exact h.request _
  | readConditions a => exact h.request _
  | readFaultRecord a => exact h.request _
  | readHours a => exact h.request _
  | readInputs a => exact h.request _
  | badCode c a => exact h.request _
  | cabLineSample l => exact h.setCab _
  | protectiveInputSample l => exact EngineGood.foldl (fun _ _ k => k.sampleInput _ _) _ h
  | feedbackSample a b c => exact h.setOut rfl rfl rfl
  | lineIdle n =>
    obtain e | ⟨count, e, -⟩ | ⟨-, -, -, e⟩ := readReleased_cases s.link n
    · exact (show EngineGood (s.setLink (s.link.readReleased n)) by rw [e]; exact h)
    · exact (show EngineGood (s.setLink (s.link.readReleased n)) by rw [e]; exact h.setLink rfl rfl rfl)
    · exact (show EngineGood (s.setLink (s.link.readReleased n)) by rw [e]; exact h.setLink rfl rfl rfl)
  | startBitRead =>
    obtain ⟨-, e⟩ | ⟨-, e⟩ | ⟨-, e⟩ := readDriven_cases s.link
    · exact (show EngineGood (s.setLink s.link.readDriven) by rw [e]; exact h)
    · exact (show EngineGood (s.setLink s.link.readDriven) by rw [e]; exact h.setLink rfl rfl rfl)
    · exact (show EngineGood (s.setLink s.link.readDriven) by rw [e]; exact h.setLink rfl rfl rfl)
  | endOfPriorityField =>
    obtain ⟨slot, sending, disable, -⟩ := takeBuffer_keeps s.link
    exact EngineGood.ite (h.setLink slot sending disable) h

/-! ### The commands that are chains of moves -/

/-- The commands that touch neither the line, the pool and the transmitter nor the mailbox and the load. -/
def isMoving (c : Instr) : Prop :=
  match c with
  | .powerOnReset _ | .coreReset _ | .frameStart | .arbitrationLoss | .bitError _ | .holdOffExpiry
  | .transmissionCompletion | .frameArrival _ | .heartbeatExpiry | .spacingTimerExpiry | .frameApplication
  | .applicationEnd | .passEnd | .configReadCompletion _ | .configLoadCompletion | .readSelf _ | .readPeer _
  | .readConditions _ | .readFaultRecord _ | .readHours _ | .readInputs _ | .badCode _ _ | .lineIdle _
  | .startBitRead | .endOfPriorityField => False
  | _ => True

section
variable {s t : State}

theorem Moves.stateTimerReaches (h : Moves s t) (limit : Nat) : Moves s (Machine.stateTimerReaches limit t) :=
  h.setSeq _

theorem Moves.prelubeTimeExpiry (s : State) : Moves s (s.after .prelubeTimeExpiry) := by
  have reached := (Moves.refl s).stateTimerReaches s.params.prelubeLimit
  exact Moves.ite (Moves.ite
    (reached.acts ((Acts.refl _).raiseMomentary rfl fun _ k => k.takeSnapshot.enterFaulted))
    (reached.acts (Acts.refl _).enterClaimWait)) (Moves.refl s)

theorem Moves.heatUpdate (s : State) : Moves s (s.after .heatUpdate) := by
  have updated := (Moves.refl s).setClaim { s.claim with
    heat := heatAfter s.params s.claim.heat s.out.crank, heatTimer := .running Config.heatMs }
  simp only [State.after, exec, execHeatUpdate]
  refine Moves.ite ?_ (Moves.refl s)
  split
  · exact updated.examineOffer
  · exact Moves.ite (updated.acts (Acts.refl _).failedAttempt) updated
  all_goals exact updated

theorem Moves.settleExpiry (s : State) : Moves s (s.after .settleExpiry) := by
  have cranking := (Moves.refl s).setClaim { s.claim with settle := .expired, phase := .cranking }
  exact Moves.ite (Moves.ite (cranking.acts (Acts.refl _).enterCranking) cranking) (Moves.refl s)

theorem Moves.fireConfirmExpiry (s : State) : Moves s (s.after .fireConfirmExpiry) :=
  Moves.ite (((Moves.refl s).setSeq { s.seq with fireConfirm := .expired }).acts (Acts.refl _).fire) (Moves.refl s)

theorem Moves.ageExpiry (s : State) (n : Nat) : Moves s (s.after (.ageExpiry n)) := by
  simp only [State.after, exec, execAgeExpiry]
  split
  · exact Moves.refl s
  · next i _ =>
    have expired := (Moves.refl s).setView (s.view.setEntry i { s.view.entry i with age := .expired })
    exact Moves.ite (Moves.ite (expired.setView _) (expired.ageTaken _)) (Moves.refl s)

theorem Moves.protectiveInputQualification (s : State) (k : Nat) :
    Moves s (s.after (.protectiveInputQualification k)) := by
  simp only [State.after, exec, execProtectiveInputQualification]
  split
  · exact Moves.refl s
  · exact Moves.ite (((Moves.refl s).setInput _ _).compareInput _) (Moves.refl s)

theorem Moves.stepperExamine (h : Moves s t) : Moves s (Machine.stepperExamine t) :=
  h.acts (Acts.refl t).stepperExamine

theorem Moves.examineAllocationStop (h : Moves s t) : Moves s (Machine.examineAllocationStop t) :=
  h.acts (Acts.refl t).examineAllocationStop

theorem Moves.examineWarm (h : Moves s t) : Moves s (Machine.examineWarm t) := h.acts (Acts.refl t).examineWarm

theorem Moves.analogSample (s : State) (ch : Channel) (raw : Nat) : Moves s (s.after (.analogSample ch raw)) := by
  have sampled := (Moves.refl s).setChannel ch ((s.mon.channel ch).sample ch raw)
  exact (Moves.ite sampled (sampled.reportCause (sensorCode_isCode ch) _)).channelValue ch

theorem Moves.speedValue (s : State) (pulses : Nat) : Moves s (s.after (.speedValue pulses)) := by
  have sampled : Moves s (s.setMon { s.mon with speed := speedOf s.params.teeth pulses, speedYet := true }) :=
    (Moves.refl s).setMon ⟨rfl, rfl, rfl, rfl⟩
  exact sampled.overspeedTest.stallTest.failToStopCause.runningTime.acts (Acts.refl _).sequencerSpeed

theorem Moves.graceTimerExpiry (s : State) : Moves s (s.after .graceTimerExpiry) := by
  have tested := ((Moves.refl s).setMon (x := { s.mon with runPhase := .run, grace := .expired })
    ⟨rfl, rfl, rfl, rfl⟩).lowOilTest
  exact Moves.ite (Moves.ite (tested.unmaskInputs true) tested) (Moves.refl s)

theorem Moves.statusReadCompletion (s : State) (sig st code fuel : Byte) :
    Moves s (s.after (.statusReadCompletion sig st code fuel)) :=
  Moves.ite (Moves.ite ((Moves.refl s).setPort _).portRelease
    (((Moves.refl s).setPort _).portRelease.reportCause rfl _)) (Moves.refl s)

end

/-- The commands that are chains of moves. -/
theorem moves_after (s : State) {c : Instr} (moving : isMoving c) : Moves s (s.after c) := by
  have h := Moves.refl s
  cases c with
  | cabLineQualification line => exact Moves.ite (Moves.ite ((h.setCab _).lineQualified _ _) (h.setCab _)) h
  | throttleCodeQualification => exact Moves.ite (Moves.ite (h.setCab _) (h.changeDecoder _)) h
  | invalidCodeTimerExpiry => exact Moves.ite (Moves.ite (h.changeDecoder _) (h.setCab _)) h
  | layoverCheckExpiry => exact Moves.ite ((h.setCab _).markStatusIf _) h
  | ageExpiry n => exact Moves.ageExpiry s n
  | listenTimerExpiry => exact Moves.ite (h.setAlloc _) h
  | evaluationTimerExpiry => exact Moves.ite (h.setAlloc _).passTrigger h
  | passStart => exact Moves.ite ((h.setAlloc _).setView _) h
  | stopDelayExpiry => exact Moves.ite (h.setAlloc _).examineAllocationStop h
  | prelubeTimeExpiry => exact Moves.prelubeTimeExpiry s
  | crankTimeExpiry => exact Moves.ite ((h.stateTimerReaches _).acts (Acts.refl _).failedAttempt) h
  | fireConfirmExpiry => exact Moves.fireConfirmExpiry s
  | runupTimeExpiry =>
    exact Moves.ite ((h.stateTimerReaches _).acts ((Acts.refl _).raiseMomentary rfl fun _ k => k.enterStopping)) h
  | warmMinExpiry => exact Moves.ite (h.stateTimerReaches _).examineWarm h
  | warmMaxExpiry => exact Moves.ite (h.stateTimerReaches _).examineWarm h
  | cooldownExpiry => exact Moves.ite ((h.stateTimerReaches _).acts (Acts.refl _).enterStopping) h
  | stopLimitExpiry =>
    exact Moves.ite ((h.stateTimerReaches _).acts ((Acts.refl _).raiseBySequencer rfl fun _ k => k.enterFaulted)) h
  | restTimerExpiry => exact Moves.ite (h.setSeq _).examineOffer h
  | minRunExpiry => exact Moves.ite (h.setSeq _).examineAllocationStop h
  | leaseExpiry => exact Moves.ite (h.setClaim _).examineOffer h
  | recoveryTimerExpiry => exact Moves.ite (h.setClaim _).examineOffer h
  | settleExpiry => exact Moves.settleExpiry s
  | heatUpdate => exact Moves.heatUpdate s
  | upDwellEvent => exact Moves.ite (h.setStepper _).stepperExamine h
  | downDwellEvent => exact Moves.ite (h.setStepper _).stepperExamine h
  | setpointWriteCompletion => exact Moves.ite (Moves.ite (h.setPort _) h).portRelease h
  | hoursWriteCompletion => exact Moves.ite h.portRelease h
  | statusReadCompletion sig st code fuel => exact Moves.statusReadCompletion s sig st code fuel
  | setpointRefreshExpiry => exact Moves.ite ((h.setPort _).portMark _) h
  | governorStatusTimerExpiry => exact Moves.ite ((h.setPort _).portMark _) h
  | analogSample ch raw => exact Moves.analogSample s ch raw
  | speedValue pulses => exact Moves.speedValue s pulses
  | graceTimerExpiry => exact Moves.graceTimerExpiry s
  | stallTimerExpiry =>
    have expired := h.setMon (x := { s.mon with stall := .expired }) ⟨rfl, rfl, rfl, rfl⟩
    exact Moves.ite ((expired.reportPresent rfl).reportGone _) h
  | protectiveInputQualification k => exact Moves.protectiveInputQualification s k
  | feedbackQualification o =>
    exact Moves.ite (Moves.ite ((h.setProving _ _).feedbackQualified _) (h.setProving _ _)) h
  | provingTimerExpiry o => exact Moves.ite ((h.setProving _ _).reportPresent (mismatchCode_isCode _ _)) h
  | cabLineSample l => exact h.setCab _
  | protectiveInputSample l => exact Moves.foldl (fun _ _ k => k.sampleInput _ _) _ h
  | feedbackSample a b c => exact h.setOut _
  | _ => exact moving.elim

end Sys2Proof.Machine
end


section
/-! R52 under every command: the transmitter, its slots and the mailbox. -/

namespace Sys2Proof.Machine

section
variable {s t : State}

/-- R52 reads the transmitter, the heartbeat, the slots, the frame in transmission, the mailbox and the load alone. -/
theorem TransmitterLaw.of_same (h : TransmitterLaw s) (enabled : t.link.txEnabled = s.link.txEnabled)
    (pending : t.link.disablePending = s.link.disablePending) (beat : t.link.heartbeat = s.link.heartbeat)
    (slot : t.link.claimSlot = s.link.claimSlot) (mark : t.link.statusMarked = s.link.statusMarked)
    (reply : t.link.replySlot = s.link.replySlot) (sending : t.link.sending = s.link.sending)
    (mailbox : t.mailbox = s.mailbox) (load : t.loaded = s.loaded) : TransmitterLaw t := by
  simpa only [TransmitterLaw, DisabledLaw, EnabledLaw, enabled, pending, beat, slot, mark, reply, sending, mailbox,
    load] using h

/-- With the transmitter enabled nothing is to be emptied and the load has completed. -/
theorem TransmitterLaw.of_enabled (h : TransmitterLaw s) (enabled : s.link.txEnabled = true) :
    s.link.disablePending = false ∧ s.loaded = true := by
  obtain ⟨-, before, pending⟩ := h
  constructor
  · rw [Bool.eq_false_iff]
    intro p
    exact absurd (pending p) (by rw [enabled]; nofun)
  · by_contra unloaded
    exact absurd (before (by simpa using unloaded)).1 (by rw [enabled]; nofun)

/-- While a frame is in transmission the load has completed, and a disabled transmitter is to empty its slots. -/
theorem TransmitterLaw.of_sending (h : TransmitterLaw s) (sends : s.link.sending ≠ none) :
    s.loaded = true ∧ (s.link.txEnabled = false → s.link.disablePending = true) := by
  obtain ⟨disabled, before, -⟩ := h
  constructor
  · by_contra unloaded
    exact sends (before (by simpa using unloaded)).2.1
  · intro off
    by_contra none
    exact sends ((disabled off).2.2 (by simpa using none)).2.2.2

/-- An enabled transmitter of a loaded station meets R52. -/
theorem transmitterLaw_of_enabled (enabled : s.link.txEnabled = true) (pending : s.link.disablePending = false)
    (load : s.loaded = true) : TransmitterLaw s :=
  ⟨fun off => absurd off (by rw [enabled]; nofun), fun unloaded => absurd unloaded (by rw [load]; nofun),
    fun p => absurd p (by rw [pending]; nofun)⟩

/-- The outcome of a frame in transmission: nothing is sending, and the slots that wait to be emptied are. -/
theorem TransmitterLaw.outcome (h : TransmitterLaw s) (sends : s.link.sending ≠ none) {x : LinkUnit}
    (enabled : x.txEnabled = s.link.txEnabled) (beat : x.heartbeat = s.link.heartbeat) (idle : x.sending = none)
    (done : x.disablePending = false) (emptied : s.link.disablePending = true →
      x.claimSlot = .empty ∧ x.statusMarked = false ∧ x.replySlot = none) : TransmitterLaw (s.setLink x) := by
  obtain ⟨load, waits⟩ := h.of_sending sends
  refine ⟨fun off => ?_, fun unloaded => absurd unloaded (by rw [State.loaded, setLink_load]; exact (by rw [load]; nofun : ¬ s.loaded = false)), fun p => ?_⟩
  · have off' : s.link.txEnabled = false := enabled ▸ off
    obtain ⟨mailbox, stopped, -⟩ := h.1 off'
    obtain ⟨slot, mark, reply⟩ := emptied (waits off')
    exact ⟨mailbox, beat.trans stopped, fun _ => ⟨slot, mark, reply, idle⟩⟩
  · exact absurd p (by rw [setLink_link, done]; nofun)

theorem afterFailure_keeps (l : LinkUnit) (kind : TxKind) : (l.afterFailure kind).txEnabled = l.txEnabled
    ∧ (l.afterFailure kind).heartbeat = l.heartbeat ∧ (l.disablePending = true →
      (l.afterFailure kind).claimSlot = .empty ∧ (l.afterFailure kind).statusMarked = false
        ∧ (l.afterFailure kind).replySlot = none) := by
  by_cases disable : l.disablePending = true <;> cases kind <;>
    simp [LinkUnit.afterFailure, LinkUnit.slotsAtFailure, LinkUnit.atOutcome, LinkUnit.emptied, disable]

theorem completed_keeps (l : LinkUnit) (kind : TxKind) : (l.completed kind).txEnabled = l.txEnabled
    ∧ (l.completed kind).heartbeat = l.heartbeat ∧ (l.disablePending = true →
      (l.completed kind).claimSlot = .empty ∧ (l.completed kind).statusMarked = false
        ∧ (l.completed kind).replySlot = none) := by
  by_cases disable : l.disablePending = true <;> cases kind <;>
    simp [LinkUnit.completed, LinkUnit.slotsAtCompletion, LinkUnit.settle, LinkUnit.atOutcome, LinkUnit.emptied, disable]

theorem TransmitterLaw.endFailed (h : TransmitterLaw s) (sends : s.link.sending ≠ none) (kind : TxKind) :
    TransmitterLaw (Machine.endFailed kind s) := by
  obtain ⟨enabled, beat, emptied⟩ := afterFailure_keeps s.link kind
  have ended := h.outcome sends enabled beat (afterFailure_sending _ _) (afterFailure_disablePending _ _) emptied
  rw [endFailed_eq]
  split
  · exact ((Moves.refl _).ownClaimFailed).transmitterLaw ended
  · exact ended

theorem Moves.linkFaultEnds (h : Moves s t) : Moves s (Machine.linkFaultEnds t) :=
  Moves.ite (h.reportGone _) (h.reportGone _).leaveAlone

theorem TransmitterLaw.serveMailbox (h : TransmitterLaw s) : TransmitterLaw (Machine.serveMailbox s) := by
  unfold Machine.serveMailbox
  split
  · exact h
  split
  · next c =>
    simp only [Bool.and_eq_true] at c
    obtain ⟨pending, load⟩ := h.of_enabled c.2
    exact transmitterLaw_of_enabled c.2 pending load
  · exact h

theorem TransmitterLaw.request (h : TransmitterLaw s) (q : Request) : TransmitterLaw (Machine.request q s) := by
  unfold Machine.request
  split
  · next c =>
    simp only [State.takesRequest, Bool.and_eq_true] at c
    obtain ⟨pending, load⟩ := h.of_enabled c.1.2
    exact TransmitterLaw.serveMailbox (transmitterLaw_of_enabled c.1.2 pending load)
  · exact h

theorem TransmitterLaw.statusCompleted (h : TransmitterLaw s) : TransmitterLaw (Machine.statusCompleted s) := by
  cases enabled : s.link.txEnabled with
  | true =>
    obtain ⟨pending, load⟩ := h.of_enabled enabled
    exact transmitterLaw_of_enabled enabled pending load
  | false => exact h.of_same rfl rfl (by simp [Machine.statusCompleted, enabled]) rfl rfl rfl rfl rfl rfl

theorem TransmitterLaw.transmissionCompletion (h : TransmitterLaw s) :
    TransmitterLaw (s.after .transmissionCompletion) := by
  simp only [State.after, exec, execTransmissionCompletion]
  split
  · next f sends =>
    obtain ⟨enabled, beat, emptied⟩ := completed_keeps s.link f.kind
    have done := h.outcome (by rw [sends]; nofun) enabled beat (completed_sending _ _) (completed_disablePending _ _)
      emptied
    generalize s.setLink (s.link.completed f.kind) = d at done
    have ended : TransmitterLaw (if s.link.linkFault then Machine.linkFaultEnds d else d) :=
      (Moves.ite (Moves.refl d).linkFaultEnds (Moves.refl d)).transmitterLaw done
    generalize (if s.link.linkFault then Machine.linkFaultEnds d else d) = e at ended
    cases f.kind with
    | claim => exact (Moves.ite (Moves.refl e).ownClaimCompleted (Moves.refl e)).transmitterLaw ended
    | release => exact (Moves.ite (Moves.refl e).examineOffer (Moves.refl e)).transmitterLaw ended
    | status => exact ended.statusCompleted
    | reply => exact ended.serveMailbox
  · exact h

theorem TransmitterLaw.bitError (h : TransmitterLaw s) (place : BitErrorPlace) :
    TransmitterLaw (s.after (.bitError place)) := by
  simp only [State.after, exec, execBitError]
  split
  · next f sends =>
    have ended := h.endFailed (by rw [sends]; nofun) f.kind
    obtain ⟨slot, sending, disable, tx, mark, reply, beat⟩ :=
      countError_keeps ((Machine.endFailed f.kind s).link.afterBitError place)
    obtain ⟨slot', sending', disable', tx', -, mark', reply', beat', -⟩ :=
      afterBitError_keeps (Machine.endFailed f.kind s).link place
    have counted := ended.of_same (t := (Machine.endFailed f.kind s).setLink
      ((Machine.endFailed f.kind s).link.afterBitError place).countError) (tx.trans tx') (disable.trans disable')
      (beat.trans beat') (slot.trans slot') (mark.trans mark') (reply.trans reply') (sending.trans sending') rfl rfl
    exact (Moves.ite ((Moves.refl _).reportPresent rfl).enterAlone (Moves.refl _)).transmitterLaw counted
  · exact h

theorem Moves.foreignClaim (h : Moves s t) : Moves s (Machine.foreignClaim t) := by
  unfold Machine.foreignClaim
  split
  · next c pending =>
    have emptied : Moves s (t.setLink { t.link with claimSlot := t.link.claimSlot.foreignClaim }) :=
      h.then (.slot t _ (.inr fun e => by rw [e]; rfl))
    exact Moves.ite (emptied.setClaim _) emptied
  · exact h

theorem TransmitterLaw.frameArrival (h : TransmitterLaw s) (f : RawFrame) :
    TransmitterLaw (s.after (.frameArrival f)) := by
  simp only [State.after, exec, execFrameArrival]
  split
  · next b filled =>
    have judged : TransmitterLaw (s.setLink { s.link.settle (trailingReleased f.endField) with
        filling := none, buffers := s.link.buffers.set b f }) := h.of_same rfl rfl rfl rfl rfl rfl rfl rfl rfl
    split
    · have told := (Moves.ite (c := s.isForeignClaim f = true) (Moves.refl _).foreignClaim (Moves.refl _)).transmitterLaw judged
      exact told.of_same rfl rfl rfl rfl rfl rfl rfl rfl rfl
    · exact h.of_same rfl rfl rfl rfl rfl rfl rfl rfl rfl
  · split
    · exact h.of_same rfl rfl rfl rfl rfl rfl rfl rfl rfl
    · exact h

theorem TransmitterLaw.heartbeatExpiry (h : TransmitterLaw s) : TransmitterLaw (s.after .heartbeatExpiry) := by
  simp only [State.after, exec, execHeartbeatExpiry]
  split
  · next running =>
    have enabled : s.link.txEnabled = true := by
      by_contra off
      rw [(h.1 (by simpa using off)).2.1] at running
      cases running
    obtain ⟨pending, load⟩ := h.of_enabled enabled
    exact ((Moves.refl _).markStatus).transmitterLaw (transmitterLaw_of_enabled enabled pending load)
  · exact h

theorem TransmitterLaw.frameStart (h : TransmitterLaw s) : TransmitterLaw (s.after .frameStart) := by
  obtain e | ⟨kind, candidate, -, -, e⟩ := after_frameStart_cases s
  · rw [e]; exact h
  · have enabled : s.link.txEnabled = true := by
      by_contra off
      simp [LinkUnit.candidate, off] at candidate
    obtain ⟨pending, load⟩ := h.of_enabled enabled
    rw [e]
    exact transmitterLaw_of_enabled (by cases kind <;> exact enabled) (by cases kind <;> exact pending) load

theorem TransmitterLaw.disableTransmitter (h : TransmitterLaw s) :
    TransmitterLaw (Machine.disableTransmitter s) := by
  refine ((Moves.refl _).claimWithoutTransmitter).transmitterLaw ⟨fun _ => ?_, fun unloaded => ?_, fun _ => ?_⟩
  · refine ⟨rfl, ?_, ?_⟩ <;> dsimp only [setMailbox_link, setLink_link] <;> split
    · rfl
    · rfl
    · nofun
    · next idle => exact fun _ => ⟨rfl, rfl, rfl, (by simpa using idle : s.link.sending = none)⟩
  · obtain ⟨-, idle, none⟩ := h.2.1 unloaded
    dsimp only [setMailbox_link, setLink_link]
    simp [idle, LinkUnit.emptied]
  · dsimp only [setMailbox_link, setLink_link]
    split <;> rfl

theorem TransmitterLaw.applyFrame (h : TransmitterLaw s) (f : RawFrame) :
    TransmitterLaw (Machine.applyFrame f s) := by
  unfold Machine.applyFrame
  split
  · unfold Machine.requestFrame
    split
    · exact h.request _
    · exact h
  split
  · exact ((Moves.refl _).reportPresent rfl).transmitterLaw h.disableTransmitter
  split
  · exact ((Moves.refl _).applyPeer _ _).transmitterLaw h
  · exact h

theorem TransmitterLaw.frameApplication (h : TransmitterLaw s) : TransmitterLaw (s.after .frameApplication) := by
  simp only [State.after, exec, execFrameApplication]
  split
  · split
    · refine TransmitterLaw.applyFrame ?_ _
      exact h.of_same rfl rfl rfl rfl rfl rfl rfl rfl rfl
    · exact h
  · exact h

theorem Moves.beforeDrain (s : State) : Moves s (Machine.takeHeldExpiries (Machine.enterReady
    (Machine.stepperExamine (Machine.sequencerPassEnd (Machine.publish s.passResults s))))) := by
  have published : Moves s (Machine.publish s.passResults s) := ((Moves.refl s).setAlloc _).markStatusIf _
  exact ((((published.acts (Acts.refl _).sequencerPassEnd).stepperExamine).setAlloc _)).takeHeldExpiries

theorem TransmitterLaw.beginDrain (h : TransmitterLaw s) : TransmitterLaw (Machine.beginDrain s) :=
  h.of_same rfl rfl rfl rfl rfl rfl rfl rfl rfl

theorem TransmitterLaw.passEnd (h : TransmitterLaw s) : TransmitterLaw (s.after .passEnd) := by
  simp only [State.after, exec, execPassEnd]
  split
  · exact ((Moves.beforeDrain s).transmitterLaw h).beginDrain
  · exact h

theorem received_done (p : LoadProgress) : (p.received == .done) = (p == .done) := by
  cases p <;> rfl

theorem Moves.loadHours (h : Moves s t) : Moves s (Machine.loadHours t) := by
  have set := (h.setLoad (x := { t.load with
    hours := t.loadedHours, startRecord := ⟨t.load.resetKind, t.ret.wasRunning⟩ }) rfl).setRet
      { t.ret with shadow := t.loadedHours }
  exact Moves.ite (set.portMark _) set

theorem Moves.judgeConfig (h : Moves s t) : Moves s (Machine.judgeConfig t) :=
  Moves.ite (h.reportPresent rfl) h

/-- The load from the parameters to the derate factor and the inputs that become unmasked. -/
theorem Moves.loadHandedOn (s : State) : Moves (Machine.loadParameters s) (Machine.unmaskInputs false
    (Machine.computeDerate (Machine.judgeConfig (Machine.loadHours (Machine.loadParameters s))))) :=
  (((Moves.refl _).loadHours.judgeConfig).acts (Acts.refl _).computeDerate).unmaskInputs false

theorem Moves.startLoadTimers (h : Moves s t) : Moves s (Machine.startLoadTimers t) :=
  (((h.setClaim _).setAlloc _).setCab _).setPort _

theorem loaded_loadParameters (s : State) : (Machine.loadParameters s).loaded = true := rfl

theorem TransmitterLaw.configLoadCompletion (h : TransmitterLaw s) :
    TransmitterLaw (s.after .configLoadCompletion) := by
  simp only [State.after, exec, execConfigLoadCompletion]
  split
  · next reading =>
    obtain ⟨off, idle, pending⟩ := h.2.1 (by rw [State.loaded, reading]; rfl)
    have loaded : TransmitterLaw (Machine.loadParameters s) := by
      refine ⟨h.1, fun unloaded => ?_, h.2.2⟩
      rw [loaded_loadParameters] at unloaded
      cases unloaded
    have moves := Moves.loadHandedOn s
    have handedOn := moves.transmitterLaw loaded
    have load := moves.loaded
    obtain ⟨c, m, link⟩ := moves.link
    generalize Machine.unmaskInputs false _ = u at handedOn load link
    have enabled : TransmitterLaw (Machine.enableTransmitter u) := by
      unfold Machine.enableTransmitter
      split
      · exact transmitterLaw_of_enabled rfl (by rw [setLink_link, link]; exact pending) load
      · exact handedOn
    exact ((Moves.refl _).startLoadTimers.acts (Acts.refl _).examineInit).transmitterLaw enabled
  · exact h

theorem transmitterLaw_afterReset (kind : ResetKind) (station rate : Nat) (ret : RetainedStore) (q : List Instr) :
    TransmitterLaw (State.afterReset kind station rate ret q) :=
  ⟨fun _ => ⟨rfl, rfl, fun _ => ⟨rfl, rfl, rfl, rfl⟩⟩, fun _ => ⟨rfl, rfl, rfl⟩, nofun⟩

/-- R52 is kept by every command. -/
theorem TransmitterLaw.after (h : TransmitterLaw s) (c : Instr) : TransmitterLaw (s.after c) := by
  by_cases moving : isMoving c
  · exact (moves_after s moving).transmitterLaw h
  cases c with
  | powerOnReset p => exact transmitterLaw_afterReset _ _ _ _ _
  | coreReset p => exact transmitterLaw_afterReset _ _ _ _ _
  | frameStart => exact h.frameStart
  | arbitrationLoss =>
    simp only [State.after, exec, execArbitrationLoss]
    split
    · next f sends => exact h.endFailed (by rw [sends]; nofun) _
    · exact h
  | bitError place => exact h.bitError place
  | holdOffExpiry =>
    simp only [State.after, exec, execHoldOffExpiry]
    split
    · exact h.of_same rfl rfl rfl rfl rfl rfl rfl rfl rfl
    · exact h
  | transmissionCompletion => exact h.transmissionCompletion
  | frameArrival f => exact h.frameArrival f
  | heartbeatExpiry => exact h.heartbeatExpiry
  | spacingTimerExpiry =>
    simp only [State.after, exec, execSpacingTimerExpiry]
    split
    · exact h.of_same rfl rfl rfl rfl rfl rfl rfl rfl rfl
    · exact h
  | frameApplication => exact h.frameApplication
  | applicationEnd =>
    simp only [State.after, exec, execApplicationEnd]
    split
    · exact h.of_same rfl rfl rfl rfl rfl rfl rfl rfl rfl
    · exact h
  | passEnd => exact h.passEnd
  | configReadCompletion bytes =>
    simp only [State.after, exec, execConfigReadCompletion]
    split
    · refine ((Moves.refl _).portRelease).transmitterLaw ?_
      exact h.of_same rfl rfl rfl rfl rfl rfl rfl rfl (received_done _)
    · exact h
  | configLoadCompletion => exact h.configLoadCompletion
  | readSelf a => exact h.request _
  | readPeer a => exact h.request _
  | readConditions a => exact h.request _
  | readFaultRecord a => exact h.request _
  | readHours a => exact h.request _
  | readInputs a => exact h.request _
  | badCode c a => exact h.request _
  | lineIdle n =>
    show TransmitterLaw (s.setLink (s.link.readReleased n))
    obtain e | ⟨count, e, -⟩ | ⟨-, -, -, e⟩ := readReleased_cases s.link n <;> rw [e]
    · exact h
    · exact h.of_same rfl rfl rfl rfl rfl rfl rfl rfl rfl
    · exact h.of_same rfl rfl rfl rfl rfl rfl rfl rfl rfl
  | startBitRead =>
    show TransmitterLaw (s.setLink s.link.readDriven)
    obtain ⟨-, e⟩ | ⟨-, e⟩ | ⟨-, e⟩ := readDriven_cases s.link <;> rw [e]
    · exact h
    · exact h.of_same rfl rfl rfl rfl rfl rfl rfl rfl rfl
    · exact h.of_same rfl rfl rfl rfl rfl rfl rfl rfl rfl
  | endOfPriorityField =>
    simp only [State.after, exec, execEndOfPriorityField]
    obtain ⟨slot, sending, disable, tx, -, mark, reply, beat, -⟩ := takeBuffer_keeps s.link
    split
    · exact h.of_same tx disable beat slot mark reply sending rfl rfl
    · exact h
  | _ => exact (moving trivial).elim

theorem TransmitterLaw.tick (h : TransmitterLaw s) : TransmitterLaw (Machine.tick s) := by
  refine ⟨fun off => ?_, h.2⟩
  obtain ⟨mailbox, beat, rest⟩ := h.1 off
  exact ⟨mailbox, by simp [Machine.tick, LinkUnit.tick, beat, Timer.advance], rest⟩

end

/-- Settles O3: with the laws of engine, claim and notch as one law of the key and of the claim's tidiness, every command keeps it
together with R52. -/
theorem engineClaimAndNotchLawsAreKept : Obligations.EngineClaimAndNotchLawsAreKept := by
  intro s t output claim notch transmitter next
  have kept : EngineGood t ∧ TransmitterLaw t := by
    refine step_keeps (P := fun s => EngineGood s ∧ TransmitterLaw s) (fun s l h => ⟨h.1.setPending l, h.2⟩)
      (fun c s h => ⟨h.1.after h.2 c, h.2.after c⟩) (fun s h => ⟨h.1.tick, h.2.tick⟩) next
      ⟨(engineGood_iff s).1 ⟨output, notch, claim⟩, transmitter⟩
  obtain ⟨output', notch', claim'⟩ := (engineGood_iff t).2 kept.1
  exact ⟨output', claim', notch', kept.2⟩

end Sys2Proof.Machine
end


section
/-! The parts of the station, as the manual gives them their own events, and what a change leaves alone: every part outside a list. -/

namespace Sys2Proof.Machine

/-- A part of the station: one field, or the few that change together. -/
inductive Part where
  | engine | rest | minRun | lines | sampledCode | codeStability | qualifiedCode | decoder | demand | mode |
  layoverCheck | needs | line | sending | txEnabled | disablePending | bitErrors | holdOff | heartbeat |
  firstHeartbeat | spacing | claimSlot | statusMarked | replySlot | buffers | filling | freeList | postList | applying
  | draining | drainLeft | headTaken | peers | everSeen | alone | sFrozen | tally | phase | reEvaluate | listen |
  evaluation | stopDelay | results | snapshot | claimPhase | holder | recovery | settle | lease | foreignMark | heat |
  stepper | port | report | statusTimer | coolant | oil | battery | speed | runPhase | derate | inputs | conditions |
  commands | alarm | proof | feedback | record | windows | hours | straps | config | startRecord | progress | image |
  mailbox | queue

/-- What a part holds. -/
def Part.Value : Part → Type
  | .engine => EngineState × Nat × Nat × Timer × StopReason × Bool × StopSnapshot
  | .rest => Timer
  | .minRun => Timer
  | .lines => QualifiedInput × QualifiedInput × QualifiedInput × QualifiedInput
  | .sampledCode => Nat × Bool
  | .codeStability => Timer
  | .qualifiedCode => Option Nat × Option Nat
  | .decoder => DecoderState × Timer
  | .demand => Nat × DemandSource
  | .mode => Mode
  | .layoverCheck => Timer
  | .needs => Bool × Bool
  | .line => LineState × Nat
  | .sending => Option Transmission
  | .txEnabled => Bool
  | .disablePending => Bool
  | .bitErrors => Nat × Bool
  | .holdOff => Bool × Timer
  | .heartbeat => Timer
  | .firstHeartbeat => Bool
  | .spacing => Timer
  | .claimSlot => ClaimSlot
  | .statusMarked => Bool
  | .replySlot => Option Reply
  | .buffers => Vector RawFrame 8
  | .filling => Option (Fin 8) × Bool
  | .freeList => List (Fin 8)
  | .postList => List (Fin 8)
  | .applying => Option (Fin 8)
  | .draining => Bool
  | .drainLeft => Nat
  | .headTaken => Bool
  | .peers => Vector PeerEntry 7
  | .everSeen => Bool
  | .alone => Bool
  | .sFrozen => Nat
  | .tally => List Nat
  | .phase => AllocPhase
  | .reEvaluate => Bool
  | .listen => Timer
  | .evaluation => Timer
  | .stopDelay => Timer
  | .results => PassResults
  | .snapshot => PassSnapshot
  | .claimPhase => ClaimPhase
  | .holder => Holder
  | .recovery => Timer
  | .settle => Timer × Stopwatch × Nat × Bool
  | .lease => Timer
  | .foreignMark => Bool
  | .heat => Nat × Timer
  | .stepper => Stepper
  | .port => Bool × Bool × Bool × Bool × Nat × Option Transaction × List Byte × Timer
  | .report => GovernorReport × Bool × Nat × Nat
  | .statusTimer => Timer
  | .coolant => AnalogChannel
  | .oil => AnalogChannel
  | .battery => AnalogChannel
  | .speed => Nat × Bool
  | .runPhase => RunPhase × Timer × Timer
  | .derate => Nat × Nat
  | .inputs => Vector ProtectiveInput 12
  | .conditions => List Member
  | .commands => CommandSet
  | .alarm => Bool
  | .proof => (ProofState × Timer) × (ProofState × Timer) × (ProofState × Timer)
  | .feedback => QualifiedInput × QualifiedInput × QualifiedInput
  | .record => Option FaultRecord × Bool
  | .windows => Nat × Nat
  | .hours => Nat × Nat
  | .straps => Nat × Nat × ResetKind
  | .config => Params × Vector RoutingEntry 12 × List Nat × Bool
  | .startRecord => StartRecord
  | .progress => LoadProgress
  | .image => List Byte
  | .mailbox => Option Request
  | .queue => List Instr

/-- What a part holds in a state. -/
def Part.read (s : State) : (p : Part) → p.Value
  | .engine => (s.seq.state, s.seq.stateTimer, s.seq.attempts, s.seq.fireConfirm, s.seq.stopReason, s.seq.resumed,
      s.seq.snapshot)
  | .rest => s.seq.rest
  | .minRun => s.seq.minRun
  | .lines => (s.cab.run, s.cab.estop, s.cab.faultReset, s.cab.isolate)
  | .sampledCode => (s.cab.sampledCode, s.cab.codeSampledYet)
  | .codeStability => s.cab.codeStability
  | .qualifiedCode => (s.cab.qualifiedCode, s.cab.lastValid)
  | .decoder => (s.cab.decoder, s.cab.invalidCode)
  | .demand => (s.cab.demand, s.cab.source)
  | .mode => s.cab.mode
  | .layoverCheck => s.cab.layoverCheck
  | .needs => (s.cab.coldRun, s.cab.batteryNeed)
  | .line => (s.link.line, s.link.releasedBits)
  | .sending => s.link.sending
  | .txEnabled => s.link.txEnabled
  | .disablePending => s.link.disablePending
  | .bitErrors => (s.link.bitErrors, s.link.linkFault)
  | .holdOff => (s.link.granted, s.link.holdOff)
  | .heartbeat => s.link.heartbeat
  | .firstHeartbeat => s.link.firstHeartbeat
  | .spacing => s.link.spacing
  | .claimSlot => s.link.claimSlot
  | .statusMarked => s.link.statusMarked
  | .replySlot => s.link.replySlot
  | .buffers => s.link.buffers
  | .filling => (s.link.filling, s.link.intoNothing)
  | .freeList => s.link.freeList
  | .postList => s.link.postList
  | .applying => s.link.applying
  | .draining => s.link.draining
  | .drainLeft => s.link.drainLeft
  | .headTaken => s.link.headTaken
  | .peers => s.view.peers
  | .everSeen => s.view.everSeen
  | .alone => s.view.alone
  | .sFrozen => s.view.sFrozen
  | .tally => s.view.tally
  | .phase => s.alloc.phase
  | .reEvaluate => s.alloc.reEvaluate
  | .listen => s.alloc.listen
  | .evaluation => s.alloc.evaluation
  | .stopDelay => s.alloc.stopDelay
  | .results => s.alloc.results
  | .snapshot => s.alloc.snapshot
  | .claimPhase => s.claim.phase
  | .holder => s.claim.holder
  | .recovery => s.claim.recovery
  | .settle => (s.claim.settle, s.claim.clock, s.claim.attempt, s.claim.needStands)
  | .lease => s.claim.lease
  | .foreignMark => s.claim.foreignMark
  | .heat => (s.claim.heat, s.claim.heatTimer)
  | .stepper => s.stepper
  | .port => (s.port.pendConfigRead, s.port.pendSetpointWrite, s.port.pendHoursWrite, s.port.pendStatusRead,
      s.port.nextConfigRead, s.port.inFlight, s.port.buffer, s.port.refresh)
  | .report => (s.port.report, s.port.governorFault, s.port.badReads, s.port.goodReads)
  | .statusTimer => s.port.statusTimer
  | .coolant => s.mon.coolant
  | .oil => s.mon.oil
  | .battery => s.mon.battery
  | .speed => (s.mon.speed, s.mon.speedYet)
  | .runPhase => (s.mon.runPhase, s.mon.grace, s.mon.stall)
  | .derate => (s.mon.derate, s.mon.capacity)
  | .inputs => s.mon.inputs
  | .conditions => s.mon.conditions
  | .commands => s.standingCommands
  | .alarm => s.out.alarm
  | .proof => ((s.out.crankProving.proof, s.out.crankProving.timer), (s.out.fuelProving.proof, s.out.fuelProving.timer),
      (s.out.prelubeProving.proof, s.out.prelubeProving.timer))
  | .feedback => (s.out.crankProving.feedback, s.out.fuelProving.feedback, s.out.prelubeProving.feedback)
  | .record => (s.ret.record, s.ret.wasRunning)
  | .windows => (s.load.runningWindows, s.ret.minutes)
  | .hours => (s.load.hours, s.ret.shadow)
  | .straps => (s.load.station, s.load.linkRate, s.load.resetKind)
  | .config => (s.params, s.mon.routing, s.alloc.powerSteps, s.load.markerFault)
  | .startRecord => s.load.startRecord
  | .progress => s.load.progress
  | .image => s.load.image
  | .mailbox => s.mailbox
  | .queue => s.pending

/-- Nothing differs outside the parts listed. -/
def Only (l : List Part) (s t : State) : Prop := ∀ p, p ∉ l → p.read t = p.read s

section
variable {l k : List Part} {s t u : State}

theorem Only.refl (s : State) : Only l s s := fun _ _ => rfl

theorem Only.trans (h : Only l s t) (g : Only l t u) : Only l s u := fun p hp => (g p hp).trans (h p hp)

theorem Only.mono (h : Only l s t) (sub : l ⊆ k) : Only k s t := fun p hp => h p fun hl => hp (sub hl)

theorem Only.ite {c : Prop} [Decidable c] (ht : Only l s t) (hu : Only l s u) : Only l s (if c then t else u) := by
  split
  · exact ht
  · exact hu

theorem Only.foldl {α : Type} {f : State → α → State} (hf : ∀ t a, Only l s t → Only l s (f t a)) (as : List α)
    (h : Only l s t) : Only l s (as.foldl f t) := by
  induction as generalizing t with
  | nil => exact h
  | cons a as ih => exact ih (hf t a h)

/-- A quiet change written out. -/
theorem Quiet.eq (h : Quiet s t) : ∃ mark again f c l alarm, t = { s with
    link := { s.link with statusMarked := mark }, alloc := { s.alloc with reEvaluate := again }
    mon := { s.mon with derate := f, capacity := c, conditions := l }, out := { s.out with alarm := alarm } } := by
  refine ⟨t.link.statusMarked, t.alloc.reEvaluate, t.mon.derate, t.mon.capacity, t.mon.conditions, t.out.alarm, ?_⟩
  rw [← h.link, ← h.alloc, ← h.mon, ← h.out, ← h.seq, ← h.cab, ← h.view, ← h.claim, ← h.stepper, ← h.port, ← h.ret, ← h.load,
    ← h.params, ← h.mailbox, ← h.pending]

theorem Quiet.only (h : Quiet s t) : Only [.statusMarked, .reEvaluate, .derate, .conditions, .alarm] s t := by
  obtain ⟨mark, again, f, c, l, alarm, rfl⟩ := h.eq
  intro p outside
  cases p <;> simp at outside <;> rfl

end

end Sys2Proof.Machine
end


section
/-! What one event can do, said finer than as a chain of acts: an entry with its setpoint, a command set with its proving, a joining
and a leaving with their handing on are one link of the chain each, so that every law of Safety.lean holds again after each link. The
scope says what a chain may touch. -/

namespace Sys2Proof.Machine

/-- What a chain of deeds may touch: the codes that may join, leave or change their cause besides those of an entry; whether the
engine state may change; the parts that may change freely besides, the rest and the minimum-run timer among them. -/
structure Scope where
  raised : List Nat
  entries : Bool
  parts : List Part

/-- In INIT no cause acts and no entry is made; elsewhere the scope has to allow entries. -/
def Scope.opened (r : Scope) (s : State) : Prop := r.entries = true ∨ s.seq.state = .init

/-- The codes that a chain may touch. -/
def Scope.codes (r : Scope) : List Nat := r.raised ++ entryCodes

/-- An entry as far as the Allocator: state and state timer, the STATUS mark, the trigger, the stop-delay timer (R1, R105). -/
def entryTold (st : EngineState) (s : State) : State :=
  let told := passTrigger (markStatus (s.setSeq { s.seq with state := st, stateTimer := 0, fireConfirm := .stopped }))
  if st.rankClass = some 0 then told else told.setAlloc { told.alloc with stopDelay := .stopped }

theorem entryBase_eq (st : EngineState) (s : State) : entryBase st s =
    monitorEntry st (commandSet (st.commands (stepperEntry st (entryTold st s)).ret.fuelLatch)
      (stepperEntry st (entryTold st s))) := rfl

/-- The states from which a crank attempt is made (R13). -/
def EngineState.starts : EngineState → Bool
  | .stopped | .prelube | .claimWait | .claimSettle | .cranking => true
  | .init | .isolated | .runup | .warmup | .online | .unloading | .cooldown | .stopping | .faulted => false

/-- An attempt may be made from here: one is on its way already, none has failed yet, or fewer than MAX_ATTEMPTS have (R13). -/
def State.mayTry (s : State) : Prop :=
  s.seq.state.starts = true ∨ s.seq.attempts = 0 ∨ s.seq.attempts < s.params.maxAttempts

/-- A chain of deeds within a scope. The count of failed attempts grows only where the rest timer may be
started (R13). -/
inductive Deeds (r : Scope) : State → State → Prop
  | refl (s : State) (o : r.opened s) : Deeds r s s
  | records {s t} (h : Deeds r s t) (x : Sequencer) (state : x.state = t.seq.state)
      (rest : x.rest = t.seq.rest ∨ Part.rest ∈ r.parts) (minRun : x.minRun = t.seq.minRun ∨ Part.minRun ∈ r.parts)
      (attempts : x.attempts = t.seq.attempts ∨ x.attempts = 0 ∨ Part.rest ∈ r.parts ∧ r.entries = true) : Deeds r s (t.setSeq x)
  | entered {s t} (h : Deeds r s t) (st : EngineState) (e : r.entries = true)
      (start : st.starts = true → t.mayTry) : Deeds r s (stepperEntry st (entryTold st t))
  | mark {s t} (h : Deeds r s t) : Deeds r s (markStatus t)
  | trigger {s t} (h : Deeds r s t) : Deeds r s (passTrigger t)
  | slot {s t} (h : Deeds r s t) (x : ClaimSlot) : Deeds r s (t.setLink { t.link with claimSlot := x })
  | own {s t} (h : Deeds r s t) (x : ClaimUnit) (heat : x.heat = t.claim.heat ∧ x.heatTimer = t.claim.heatTimer)
      (record : x.lease = t.claim.lease ∧ x.foreignMark = t.claim.foreignMark) : Deeds r s (t.setClaim x)
  | step {s t} (h : Deeds r s t) (n : Nat) : Deeds r s (stepNotch n t)
  | commands {s t} (h : Deeds r s t) (c : CommandSet) : Deeds r s (commandSet c t)
  | store {s t} (h : Deeds r s t) (x : Option FaultRecord) (w : Bool) :
      Deeds r s (t.setRet { t.ret with record := x, wasRunning := w })
  | phases {s t} (h : Deeds r s t) (p : RunPhase) (g k : Timer) :
      Deeds r s (t.setMon { t.mon with runPhase := p, grace := g, stall := k })
  | input {s t} (h : Deeds r s t) (k : Fin 12) (i : ProtectiveInput) :
      Deeds r s (t.setMon { t.mon with inputs := t.mon.inputs.set k i })
  | derate {s t} (h : Deeds r s t) : Deeds r s (computeDerate t)
  | cause {s t} (h : Deeds r s t) {code : Nat} (mem : code ∈ r.codes) (b : Bool) :
      Deeds r s (t.setConditions (setCause code b t.mon.conditions))
  | join {s t u} (h : Deeds r s t) {code : Nat} (mem : code ∈ r.codes) (isCode : isConditionCode code = true)
      (new : hasCode t.mon.conditions code = false)
      (k : Deeds r (handDerate code (t.classOf code) (t.withMember code)) u) :
      Deeds r s (handChange (t.classOf code) (reportDiffers t (t.withMember code)) (handSensorFault code u))
  | leave {s t} (h : Deeds r s t) (m : Member) (mem : m.code ∈ r.codes)
      (there : ConditionLaw s → m ∈ t.mon.conditions) : Deeds r s (leaveCondition m t)
  | cleared {s t} (h : Deeds r s t) (o : codeCoolantSensor ∈ r.codes ∨ codeBatterySensor ∈ r.codes) (c b : Bool) : Deeds r s
      (t.setCab { t.cab with coldRun := t.cab.coldRun && c, batteryNeed := t.cab.batteryNeed && b })
  | dwell {s t} (h : Deeds r s t) (d : Dwell) : Deeds r s (t.setStepper { t.stepper with dwell := d })
  | hoursWrite {s t} (h : Deeds r s t) : Deeds r s (portMark .hoursWrite t)
  | other {s t u} (h : Deeds r s t) (o : Only r.parts t u) (state : u.seq.state = t.seq.state) : Deeds r s u

/-! ### The state while no entry is made -/

theorem Quiet.markStatus_self (s : State) : Quiet s (Machine.markStatus s) := (Quiet.refl s).markStatus
theorem Quiet.passTrigger_self (s : State) : Quiet s (Machine.passTrigger s) := (Quiet.refl s).passTrigger

theorem state_eq_key (s : State) : s.seq.state = s.key.state := rfl

@[simp] theorem commandSet_state (c : CommandSet) (s : State) : (commandSet c s).seq.state = s.seq.state := by
  rw [state_eq_key, key_commandSet]; rfl

@[simp] theorem stepNotch_state (n : Nat) (s : State) : (stepNotch n s).seq.state = s.seq.state := by
  rw [state_eq_key, key_stepNotch]; rfl

theorem handSensorFault_keeps (code : Nat) (s : State) : (handSensorFault code s).seq = s.seq
    ∧ (handSensorFault code s).mon = s.mon ∧ (handSensorFault code s).out = s.out
    ∧ (handSensorFault code s).stepper = s.stepper ∧ (handSensorFault code s).port = s.port
    ∧ (handSensorFault code s).ret = s.ret ∧ (handSensorFault code s).load = s.load
    ∧ (handSensorFault code s).params = s.params ∧ (handSensorFault code s).claim = s.claim
    ∧ (handSensorFault code s).view = s.view ∧ (handSensorFault code s).mailbox = s.mailbox
    ∧ (handSensorFault code s).pending = s.pending ∧ (handSensorFault code s).alloc = s.alloc := by
  simp only [handSensorFault, clearColdRun, clearBatteryNeed, markStatusIf_eq]
  split
  · exact ⟨rfl, rfl, rfl, rfl, rfl, rfl, rfl, rfl, rfl, rfl, rfl, rfl, rfl⟩
  · split <;> exact ⟨rfl, rfl, rfl, rfl, rfl, rfl, rfl, rfl, rfl, rfl, rfl, rfl, rfl⟩

section
variable {r : Scope} {s t : State}

/-- Without entries the engine state stands. -/
theorem Deeds.state (h : Deeds r s t) (e : r.entries = false) : t.seq.state = s.seq.state := by
  induction h with
  | refl => rfl
  | records h x state _ _ _ ih => exact state.trans ih
  | entered h st e' _ ih => rw [e] at e'; cases e'
  | mark h ih => rw [(Quiet.markStatus_self _).seq]; exact ih
  | trigger h ih => rw [(Quiet.passTrigger_self _).seq]; exact ih
  | step h n ih => rw [stepNotch_state]; exact ih
  | commands h c ih => rw [commandSet_state]; exact ih
  | derate h ih => rw [((Quiet.refl _).computeDerate).seq]; exact ih
  | @join s t u h code mem isCode new k ih ihk =>
    obtain ⟨seq, -⟩ := handSensorFault_keeps code u
    rw [((Quiet.refl _).handChange _ _).seq, seq, ihk, (((Quiet.refl t).withMember code).handDerate code _).seq]
    exact ih
  | leave h m _ _ ih => rw [((Quiet.refl _).leaveCondition m).seq]; exact ih
  | other h _ state ih => exact state.trans ih
  | hoursWrite h ih => rw [state_eq_key, key_portMark]; exact ih
  | slot h _ ih | own h _ _ _ ih | store h _ _ ih | phases h _ _ _ ih | input h _ _ ih | cause h _ _ ih
  | cleared h _ _ _ ih | dwell h _ ih => exact ih

/-- A chain starts in INIT or may make entries, and it ends so. -/
theorem Deeds.opened (h : Deeds r s t) : r.opened t := by
  by_cases e : r.entries = true
  · exact .inl e
  rw [Bool.not_eq_true] at e
  have start : r.opened s := by
    clear e
    induction h with
    | refl s o => exact o
    | _ => assumption
  rw [Scope.opened, h.state e]
  exact start

/-! ### The shared operations as chains of deeds -/

theorem Deeds.ite {u : State} {c : Prop} [Decidable c] (ht : Deeds r s t) (hu : Deeds r s u) :
    Deeds r s (if c then t else u) := by
  split
  · exact ht
  · exact hu

theorem Deeds.foldl {α : Type} {f : State → α → State} (hf : ∀ t a, Deeds r s t → Deeds r s (f t a))
    (l : List α) (h : Deeds r s t) : Deeds r s (l.foldl f t) := by
  induction l generalizing t with
  | nil => exact h
  | cons a l ih => exact ih (hf t a h)

theorem Deeds.markIf (h : Deeds r s t) (c : Bool) : Deeds r s (markStatusIf c t) := Deeds.ite h.mark h

theorem Deeds.triggerIf (h : Deeds r s t) (c : Bool) : Deeds r s (passTriggerIf c t) := Deeds.ite h.trigger h

/-- A Sequencer update that leaves the engine state and the two timers. -/
theorem Deeds.setSeq (h : Deeds r s t) {x : Sequencer} (state : x.state = t.seq.state) (rest : x.rest = t.seq.rest)
    (minRun : x.minRun = t.seq.minRun)
    (attempts : x.attempts = t.seq.attempts ∨ x.attempts = 0 ∨ Part.rest ∈ r.parts ∧ r.entries = true := by exact .inl rfl) :
    Deeds r s (t.setSeq x) := h.records x state (.inl rest) (.inl minRun) attempts

/-! #### Conditions -/

theorem mem_of_findMember {code : Nat} {l : List Member} {m : Member} (h : findMember code l = some m) :
    m ∈ l ∧ m.code = code :=
  ⟨List.mem_of_find?_eq_some h, by simpa using List.find?_some h⟩

theorem Deeds.reportGone (h : Deeds r s t) {code : Nat} (mem : code ∈ r.codes) :
    Deeds r s (Machine.reportGone code t) := by
  unfold Machine.reportGone
  split
  · exact h
  · next m found =>
    obtain ⟨there, same⟩ := mem_of_findMember found
    exact Deeds.ite (h.cause mem false) (h.leave m (same ▸ mem) fun _ => there)

theorem mem_codes_of_entry {code : Nat} (h : code ∈ entryCodes) : code ∈ r.codes :=
  List.mem_append_right _ h

theorem Deeds.reportGone_entry (h : Deeds r s t) {code : Nat} (mem : code ∈ entryCodes) :
    Deeds r s (Machine.reportGone code t) := h.reportGone (mem_codes_of_entry mem)

theorem Deeds.joinCondition (h : Deeds r s t) {code : Nat} (mem : code ∈ r.codes)
    (isCode : isConditionCode code = true) (new : hasCode t.mon.conditions code = false) {react : State → State}
    (hr : ∀ {u v}, Deeds r u v → Deeds r u (react v)) : Deeds r s (Machine.joinCondition code react t) := by
  refine h.join mem isCode new (hr (Deeds.refl _ ?_))
  rw [Scope.opened, (((Quiet.refl t).withMember code).handDerate code _).seq]
  exact h.opened

theorem Deeds.reportPresentWith (h : Deeds r s t) {code : Nat} (mem : code ∈ r.codes)
    (isCode : isConditionCode code = true) {react : State → State}
    (hr : ∀ {u v}, Deeds r u v → Deeds r u (react v)) : Deeds r s (Machine.reportPresentWith code react t) := by
  unfold Machine.reportPresentWith
  split
  · exact h.cause mem true
  · next new => exact h.joinCondition mem isCode (Bool.eq_false_iff.2 new) hr

theorem Deeds.raiseBySequencer (h : Deeds r s t) {code : Nat} (mem : code ∈ r.codes)
    (isCode : isConditionCode code = true) {f : State → State} (hf : ∀ {u v}, Deeds r u v → Deeds r u (f v)) :
    Deeds r s (Machine.raiseBySequencer code f t) := by
  unfold Machine.raiseBySequencer
  split
  · exact hf (h.cause mem true)
  · next new => exact h.joinCondition mem isCode (Bool.eq_false_iff.2 new) hf

theorem Deeds.raiseMomentary (h : Deeds r s t) {code : Nat} (mem : code ∈ r.codes)
    (isCode : isConditionCode code = true) {f : State → State} (hf : ∀ {u v}, Deeds r u v → Deeds r u (f v)) :
    Deeds r s (Machine.raiseMomentary code f t) := (h.raiseBySequencer mem isCode hf).reportGone mem

/-! #### Stepper -/

theorem Deeds.examineStep (h : Deeds r s t) : Deeds r s (Machine.examineStep t) :=
  Deeds.ite (Deeds.ite (Deeds.ite (h.step _) h) (Deeds.ite (Deeds.ite (h.step _) h) h)) h

/-! #### The own claim -/

theorem Deeds.setClaim (h : Deeds r s t) {x : ClaimUnit} (heat : x.heat = t.claim.heat)
    (timer : x.heatTimer = t.claim.heatTimer) (lease : x.lease = t.claim.lease)
    (foreign : x.foreignMark = t.claim.foreignMark) : Deeds r s (t.setClaim x) :=
  h.own x ⟨heat, timer⟩ ⟨lease, foreign⟩

theorem Deeds.offerRelease (h : Deeds r s t) (o : ReleaseOutcome) : Deeds r s (Machine.offerRelease o t) := by
  unfold Machine.offerRelease
  split
  · split
    · exact h.slot _
    · exact h
  · exact h

theorem Deeds.examineOffer (h : Deeds r s t) : Deeds r s (Machine.examineOffer t) := by
  unfold Machine.examineOffer
  split
  · split
    · exact (h.slot _).setClaim rfl rfl rfl rfl
    · exact h
  · exact h

theorem Deeds.claimNeed (h : Deeds r s t) (n : Nat) : Deeds r s (Machine.claimNeed n t) := by
  unfold Machine.claimNeed
  dsimp only
  split
  · apply Deeds.examineOffer
    exact h.setClaim rfl rfl rfl rfl
  all_goals exact h.setClaim rfl rfl rfl rfl

theorem Deeds.withdrawOffer (h : Deeds r s t) (b : Bool) (p : ClaimPhase) :
    Deeds r s (Machine.withdrawOffer b p t) :=
  Deeds.ite ((h.slot t.link.claimSlot.withdraw).setClaim rfl rfl rfl rfl)
    ((h.slot t.link.claimSlot.withdraw).setClaim rfl rfl rfl rfl)

theorem Deeds.claimWithdrawNeed (h : Deeds r s t) : Deeds r s (Machine.claimWithdrawNeed t) := by
  unfold Machine.claimWithdrawNeed
  split
  · exact h.setClaim rfl rfl rfl rfl
  · exact h.withdrawOffer _ _
  · exact h.setClaim rfl rfl rfl rfl
  all_goals exact h

theorem Deeds.claimSeesPeer (h : Deeds r s t) : Deeds r s (Machine.claimSeesPeer t) :=
  Deeds.ite (h.withdrawOffer _ _) h

theorem Deeds.claimRelease (h : Deeds r s t) (o : ReleaseOutcome) : Deeds r s (Machine.claimRelease o t) := by
  unfold Machine.claimRelease
  dsimp only
  refine Deeds.ite (Deeds.offerRelease (Deeds.mark ?_) o) h
  exact h.setClaim rfl rfl rfl rfl

theorem Deeds.dropClaim (h : Deeds r s t) : Deeds r s (Machine.dropClaim t) := by
  unfold Machine.dropClaim
  split
  · exact h.claimWithdrawNeed
  · exact h.claimRelease _
  · exact h.claimRelease _
  · exact h

/-! #### Entries -/

theorem State.mayTry_of_state {st : EngineState} (h : t.seq.state = st) (starts : st.starts = true) : t.mayTry :=
  .inl (h ▸ starts)

theorem inputCode_mem_entryCodes (k : Fin 12) : k.val + 1 ∈ entryCodes := by
  revert k; decide

theorem Deeds.maskInput (h : Deeds r s t) (k : Fin 12) : Deeds r s (Machine.maskInput k t) := by
  unfold Machine.maskInput
  dsimp only
  exact Deeds.ite ((h.input k _).reportGone_entry (inputCode_mem_entryCodes k)) (h.input k _)

theorem Deeds.maskStartMasked (h : Deeds r s t) : Deeds r s (Machine.maskStartMasked t) :=
  Deeds.foldl (fun _ k h => Deeds.ite (h.maskInput k) h) _ h

theorem Deeds.monitorEntry (h : Deeds r s t) (st : EngineState) : Deeds r s (Machine.monitorEntry st t) := by
  have halted : Deeds r s (if st.stalls then t else t.setMon { t.mon with stall := .stopped }) :=
    Deeds.ite h (h.phases t.mon.runPhase t.mon.grace .stopped)
  unfold Machine.monitorEntry
  dsimp only
  generalize (if st.stalls then t else t.setMon { t.mon with stall := .stopped }) = u at halted
  exact Deeds.ite halted (((halted.phases .notRun .stopped u.mon.stall).reportGone_entry (by decide)).maskStartMasked)

theorem Deeds.setStopReason (h : Deeds r s t) (x : StopReason) : Deeds r s (Machine.setStopReason x t) :=
  h.setSeq rfl rfl rfl

theorem Deeds.takeSnapshot (h : Deeds r s t) : Deeds r s (Machine.takeSnapshot t) := h.setSeq rfl rfl rfl

theorem Deeds.replaceAllocationReason (h : Deeds r s t) : Deeds r s (Machine.replaceAllocationReason t) :=
  Deeds.ite (Deeds.ite (h.setStopReason _) (Deeds.ite (h.setStopReason _) h)) h

section
variable (e : r.entries = true)
include e

theorem Deeds.entryBase (h : Deeds r s t) (st : EngineState) (start : st.starts = true → t.mayTry := by nofun) :
    Deeds r s (Machine.entryBase st t) := by
  rw [entryBase_eq]
  exact ((h.entered st e start).commands _).monitorEntry st

theorem Deeds.enterStopped (h : Deeds r s t) : Deeds r s (Machine.enterStopped t) := by
  unfold Machine.enterStopped
  refine Deeds.entryBase e ?_ _ fun _ => .inr (.inl rfl)
  exact h.setSeq rfl rfl rfl (.inr (.inl rfl))

theorem Deeds.enterFaulted (h : Deeds r s t) : Deeds r s (Machine.enterFaulted t) :=
  (Deeds.entryBase e (h.setStopReason .none) .faulted).store _ _

theorem Deeds.stoppingExit (h : Deeds r s t) : Deeds r s (Machine.stoppingExit t) :=
  Deeds.ite (Deeds.ite (h.enterFaulted e) (h.enterStopped e)) h

theorem Deeds.enterStopping (h : Deeds r s t) : Deeds r s (Machine.enterStopping t) := by
  unfold Machine.enterStopping
  dsimp only
  apply Deeds.stoppingExit e
  refine Deeds.store (Deeds.entryBase e ?_ .stopping) _ _
  exact h.takeSnapshot.setSeq rfl rfl rfl

theorem Deeds.goStopping (h : Deeds r s t) : Deeds r s (Machine.goStopping t) := h.dropClaim.enterStopping e

theorem Deeds.cancelStart (h : Deeds r s t) : Deeds r s (Machine.cancelStart t) := h.dropClaim.enterStopped e

theorem Deeds.enterCooldown (h : Deeds r s t) : Deeds r s (Machine.enterCooldown t) := by
  have entered := h.entryBase e .cooldown
  unfold Machine.enterCooldown
  dsimp only
  exact Deeds.ite (entered.goStopping e)
    (Deeds.ite (entered.replaceAllocationReason.enterStopping e) entered.replaceAllocationReason)

theorem Deeds.enterUnloading (h : Deeds r s t) : Deeds r s (Machine.enterUnloading t) := by
  have entered := h.entryBase e .unloading
  unfold Machine.enterUnloading
  dsimp only
  exact Deeds.ite (entered.goStopping e)
    (Deeds.ite (entered.replaceAllocationReason.enterCooldown e) entered.replaceAllocationReason)

/-- A start's entry is followed by the standing causes (R4, R9, R11). -/
theorem Deeds.startCauses (h : Deeds r s t) :
    Deeds r s (if t.hardCause then Machine.goStopping t else if t.cancelCause then Machine.cancelStart t else t) :=
  Deeds.ite (h.goStopping e) (Deeds.ite (h.cancelStart e) h)

theorem Deeds.enterCranking (h : Deeds r s t) (start : t.mayTry) : Deeds r s (Machine.enterCranking t) := by
  have entered := h.entryBase e .cranking fun _ => start
  unfold Machine.enterCranking
  exact Deeds.ite (entered.goStopping e) entered

theorem Deeds.enterClaimSettle (h : Deeds r s t) (start : t.mayTry) : Deeds r s (Machine.enterClaimSettle t) := by
  unfold Machine.enterClaimSettle
  exact (h.entryBase e .claimSettle fun _ => start).startCauses e

theorem Deeds.enterClaimWait (h : Deeds r s t) (start : t.mayTry) : Deeds r s (Machine.enterClaimWait t) := by
  unfold Machine.enterClaimWait
  exact ((h.entryBase e .claimWait fun _ => start).claimNeed _).startCauses e

theorem Deeds.enterPrelube (h : Deeds r s t) (start : t.mayTry) : Deeds r s (Machine.enterPrelube t) := by
  unfold Machine.enterPrelube
  exact (h.entryBase e .prelube fun _ => start).startCauses e

end

/-! #### Examinations and reactions: in INIT they do nothing -/

/-- What an operation does where the scope allows entries, it may do where in INIT it does nothing. -/
theorem Deeds.opens {u : State} (h : Deeds r s t) (still : t.seq.state = .init → u = t)
    (entering : r.entries = true → Deeds r s u) : Deeds r s u := by
  obtain e | i := h.opened
  · exact entering e
  · rw [still i]; exact h

theorem Deeds.examineAllocationStop (h : Deeds r s t) : Deeds r s (Machine.examineAllocationStop t) :=
  h.opens (fun i => by simp [Machine.examineAllocationStop, i]) fun e =>
    Deeds.ite ((h.setStopReason _).enterUnloading e) h

theorem Deeds.enterOnline (h : Deeds r s t) (e : r.entries = true) : Deeds r s (Machine.enterOnline t) := by
  have entered := h.entryBase e .online
  unfold Machine.enterOnline
  dsimp only
  exact Deeds.ite (entered.goStopping e) (Deeds.ite ((entered.setStopReason _).enterUnloading e)
    (Deeds.ite ((entered.setStopReason _).enterUnloading e) entered.examineAllocationStop))

theorem Deeds.examineWarm (h : Deeds r s t) : Deeds r s (Machine.examineWarm t) :=
  h.opens (fun i => by simp [Machine.examineWarm, i]) fun e => Deeds.ite (h.enterOnline e) h

theorem Deeds.coolOrElse (h : Deeds r s t) (e : r.entries = true) {f : State → State} (hf : Deeds r s (f t)) :
    Deeds r s (Machine.coolOrElse f t) :=
  Deeds.ite ((h.setStopReason _).enterCooldown e) (Deeds.ite ((h.setStopReason _).enterCooldown e) hf)

theorem Deeds.enterWarmup (h : Deeds r s t) (e : r.entries = true) : Deeds r s (Machine.enterWarmup t) := by
  have entered := h.entryBase e .warmup
  unfold Machine.enterWarmup
  dsimp only
  exact Deeds.ite (entered.goStopping e) (entered.coolOrElse e entered.examineWarm)

theorem Deeds.enterRunup (h : Deeds r s t) (e : r.entries = true) : Deeds r s (Machine.enterRunup t) := by
  have entered := (h.store t.ret.record true).entryBase e .runup
  unfold Machine.enterRunup
  dsimp only
  exact Deeds.ite (entered.goStopping e) (entered.coolOrElse e entered)

theorem Deeds.hardAppears (h : Deeds r s t) : Deeds r s (Machine.hardAppears t) :=
  h.opens (fun i => by simp [Machine.hardAppears, i, EngineState.active]) fun e => Deeds.ite (h.goStopping e) h

theorem Deeds.isolateAppears (h : Deeds r s t) : Deeds r s (Machine.isolateAppears t) := by
  refine h.opens (fun i => by simp [Machine.isolateAppears, i]) fun e => ?_
  unfold Machine.isolateAppears
  split
  case h_1 => exact h.enterStopped e
  case h_2 | h_3 | h_4 => exact h.cancelStart e
  case h_5 => exact h.goStopping e
  case h_6 | h_7 => exact (h.setStopReason _).enterCooldown e
  case h_8 => exact (h.setStopReason _).enterUnloading e
  case h_9 | h_10 => exact h.setStopReason _
  all_goals exact h

theorem Deeds.isolateEnds (h : Deeds r s t) : Deeds r s (Machine.isolateEnds t) :=
  h.opens (fun i => by simp [Machine.isolateEnds, i]) fun e => Deeds.ite (h.enterStopped e) h

theorem Deeds.stopAppears (h : Deeds r s t) : Deeds r s (Machine.stopAppears t) := by
  refine h.opens (fun i => by simp [Machine.stopAppears, i]) fun e => ?_
  unfold Machine.stopAppears
  split
  case h_1 | h_2 | h_3 => exact h.cancelStart e
  case h_4 | h_5 => exact (h.setStopReason _).enterCooldown e
  case h_6 => exact (h.setStopReason _).enterUnloading e
  case h_7 | h_8 => exact h.setStopReason _
  all_goals exact h

theorem Deeds.inhibitAppears (h : Deeds r s t) : Deeds r s (Machine.inhibitAppears t) := by
  refine h.opens (fun i => by simp [Machine.inhibitAppears, i]) fun e => ?_
  unfold Machine.inhibitAppears
  split
  case h_1 | h_2 | h_3 => exact h.cancelStart e
  case h_4 => exact h

theorem Deeds.aloneAppears (h : Deeds r s t) : Deeds r s (Machine.aloneAppears t) := by
  refine h.opens (fun i => by simp [Machine.aloneAppears, i]) fun e => ?_
  unfold Machine.aloneAppears
  split
  case h_1 | h_2 => exact h.cancelStart e
  case h_3 => exact h

/-- A release touches neither Sequencer nor parameters (R122). -/
theorem claimRelease_keeps (o : ReleaseOutcome) (s : State) :
    (claimRelease o s).seq = s.seq ∧ (claimRelease o s).params = s.params := by
  have offered (u : State) : (offerRelease o u).seq = u.seq ∧ (offerRelease o u).params = u.params := by
    unfold offerRelease
    split
    · split <;> exact ⟨rfl, rfl⟩
    · exact ⟨rfl, rfl⟩
  unfold claimRelease
  split
  · obtain ⟨seq, params⟩ := offered (markStatus (s.setClaim _))
    exact ⟨seq.trans (Quiet.markStatus_self _).seq, params.trans (Quiet.markStatus_self _).params⟩
  · exact ⟨rfl, rfl⟩

theorem Deeds.failedAttempt (h : Deeds r s t) (e : r.entries = true) (ts : Part.rest ∈ r.parts)
    (mem : codeFailToStart ∈ r.codes) : Deeds r s (Machine.failedAttempt t) := by
  have released : Deeds r s (Machine.claimRelease .failed (t.setSeq { t.seq with attempts := t.seq.attempts + 1 })) :=
    Deeds.claimRelease (Deeds.setSeq h (x := { t.seq with attempts := t.seq.attempts + 1 }) rfl rfl rfl (.inr (.inr ⟨ts, e⟩))) .failed
  obtain ⟨seq, params⟩ := claimRelease_keeps .failed (t.setSeq { t.seq with attempts := t.seq.attempts + 1 })
  unfold Machine.failedAttempt
  dsimp only
  generalize Machine.claimRelease .failed (t.setSeq { t.seq with attempts := t.seq.attempts + 1 }) = u at released seq params
  split
  · next again =>
    refine Deeds.enterClaimWait e (released.records _ rfl (.inr ts) (.inl rfl) (.inl rfl)) (.inr (.inr ?_))
    show u.seq.attempts < u.params.maxAttempts
    rw [seq, params]
    exact again
  · exact released.raiseMomentary mem rfl (Deeds.enterStopping e)

/-- The scope covers what the reaction to the joining of a code may do: CRANK_OPEN fails a crank attempt. -/
def Scope.covers (r : Scope) (code : Nat) : Prop :=
  code ∈ r.codes ∧ (code = codeCrankOpen → Part.rest ∈ r.parts ∧ codeFailToStart ∈ r.codes)

theorem Deeds.crankOpenAppears (h : Deeds r s t) (ts : Part.rest ∈ r.parts) (mem : codeFailToStart ∈ r.codes) :
    Deeds r s (Machine.crankOpenAppears t) :=
  h.opens (fun i => by simp [Machine.crankOpenAppears, i]) fun e => Deeds.ite (h.failedAttempt e ts mem) h

theorem Deeds.joiningAppears (h : Deeds r s t) {code : Nat} (covers : r.covers code) (cls : CondClass) :
    Deeds r s (Machine.joiningAppears code cls t) := by
  have other : Deeds r s (if code = codeCrankOpen then Machine.crankOpenAppears t else t) := by
    split
    · next open' => exact h.crankOpenAppears (covers.2 open').1 (covers.2 open').2
    · exact h
  unfold Machine.joiningAppears
  split
  · exact h.hardAppears
  · exact h.stopAppears
  · exact h.inhibitAppears
  all_goals exact other

theorem Deeds.reportPresent (h : Deeds r s t) {code : Nat} (covers : r.covers code)
    (isCode : isConditionCode code = true) : Deeds r s (Machine.reportPresent code t) :=
  h.reportPresentWith covers.1 isCode fun k => k.joiningAppears covers _

theorem Deeds.reportCause (h : Deeds r s t) {code : Nat} (covers : r.covers code)
    (isCode : isConditionCode code = true) (b : Bool) : Deeds r s (Machine.reportCause code b t) :=
  Deeds.ite (h.reportPresent covers isCode) (h.reportGone covers.1)

/-! #### Events of other blocks -/

theorem Deeds.sequencerPassEnd (h : Deeds r s t) : Deeds r s (Machine.sequencerPassEnd t) := by
  refine h.opens (fun i => by simp [Machine.sequencerPassEnd, i]) fun e => ?_
  unfold Machine.sequencerPassEnd
  dsimp only
  split
  case h_1 stopped =>
    have start := State.mayTry_of_state stopped rfl
    exact Deeds.ite (Deeds.ite (h.enterClaimWait e start) (h.enterPrelube e start)) h
  case h_2 | h_3 | h_4 => exact Deeds.ite h (h.cancelStart e)
  case h_5 => exact h.examineAllocationStop
  case h_6 | h_7 => exact Deeds.ite ((h.setStopReason _).enterOnline e) h
  all_goals exact h

theorem Deeds.startMinRun (h : Deeds r s t) (ts : Part.minRun ∈ r.parts) : Deeds r s (Machine.startMinRun t) :=
  h.records _ rfl (.inl rfl) (.inr ts) (.inl rfl)

theorem Deeds.startGrace (h : Deeds r s t) : Deeds r s (Machine.startGrace t) := h.phases _ _ _

theorem Deeds.initExit (h : Deeds r s t) (e : r.entries = true) (ts : Part.minRun ∈ r.parts) :
    Deeds r s (Machine.initExit t) := by
  have resumed : Deeds r s (Machine.startGrace (Machine.startMinRun (t.setSeq { t.seq with resumed := true }))) :=
    Deeds.startGrace (Deeds.startMinRun (Deeds.setSeq h (x := { t.seq with resumed := true }) rfl rfl rfl) ts)
  unfold Machine.initExit
  exact Deeds.ite (Deeds.ite (h.enterStopping e) (h.takeSnapshot.enterFaulted e))
    (Deeds.ite (Deeds.ite ((resumed.store _ true).enterOnline e) (h.enterStopping e)) (h.enterStopped e))

/-- The end of INIT needs the load, so a scope without entries is one of a station that has not loaded. -/
theorem Deeds.examineInit (h : Deeds r s t) (ts : Part.minRun ∈ r.parts) (e : r.entries = true ∨ t.loaded = false) :
    Deeds r s (Machine.examineInit t) := by
  unfold Machine.examineInit
  split
  · next c =>
    simp only [Bool.and_eq_true] at c
    obtain e | unloaded := e
    · exact h.initExit e ts
    · rw [unloaded] at c; cases c.1.2
  · exact h

theorem Deeds.fire (h : Deeds r s t) (e : r.entries = true) (ts : Part.minRun ∈ r.parts) : Deeds r s (Machine.fire t) := by
  unfold Machine.fire
  dsimp only
  refine Deeds.enterRunup (Deeds.startGrace (Deeds.startMinRun ?_ ts)) e
  exact (h.claimRelease .fired).setSeq rfl rfl rfl (.inr (.inl rfl))

theorem Deeds.sequencerSpeed (h : Deeds r s t) (ts : Part.minRun ∈ r.parts) (e : r.entries = true ∨ t.loaded = false) :
    Deeds r s (Machine.sequencerSpeed t) := by
  by_cases i : t.seq.state = .init
  · simp only [Machine.sequencerSpeed, i]
    exact h.examineInit ts e
  have e : r.entries = true := h.opened.resolve_right i
  unfold Machine.sequencerSpeed
  split
  · exact h.examineInit ts (.inl e)
  · split
    · exact Deeds.ite (h.setSeq rfl rfl rfl) h
    · exact h.setSeq rfl rfl rfl
  · exact Deeds.ite (h.enterWarmup e) h
  · exact h.stoppingExit e
  · exact h

theorem Deeds.sequencerFaultReset (h : Deeds r s t) : Deeds r s (Machine.sequencerFaultReset t) :=
  h.opens (fun i => by simp [Machine.sequencerFaultReset, i]) fun e => Deeds.ite (h.enterStopped e) h

theorem Deeds.stepperExamine (h : Deeds r s t) : Deeds r s (Machine.stepperExamine t) := by
  refine h.opens (fun i => by simp [Machine.stepperExamine, Machine.examineStep, i, EngineState.steps]) fun e => ?_
  exact Deeds.ite (h.examineStep.enterCooldown e) h.examineStep

end

end Sys2Proof.Machine
end


section
/-! The laws of ALARM (R163), of the need flags (R39, R41), of the setpoint (R133, R134), of the proof states (R169) and of the derate
factor (R151, R152) under chains of deeds. -/

namespace Sys2Proof.Machine

/-! ### ALARM -/

theorem alarmLaw_handChange (cls : CondClass) (differs : Bool) (s : State) : AlarmLaw (handChange cls differs s) := rfl

theorem alarmLaw_of_same {s t : State} (h : AlarmLaw s) (alarm : t.out.alarm = s.out.alarm)
    (conditions : t.mon.conditions = s.mon.conditions) : AlarmLaw t := by
  rw [AlarmLaw, alarm, conditions]; exact h

theorem setCause_isEmpty (code : Nat) (b : Bool) (l : List Member) : (setCause code b l).isEmpty = l.isEmpty := by
  cases l <;> rfl

theorem AlarmLaw.reportGone {s : State} (h : AlarmLaw s) (code : Nat) : AlarmLaw (Machine.reportGone code s) := by
  unfold Machine.reportGone
  split
  · exact h
  split
  · show s.out.alarm = _
    rw [h]
    exact congrArg (!·) (setCause_isEmpty _ _ _).symm
  · exact alarmLaw_handChange _ _ _

/-! ### What the Stepper leaves -/

/-- The Stepper's operations change the Stepper, the port, the STATUS mark, and of the Sequencer, the Allocator nothing. -/
structure Stepped (s t : State) : Prop where
  seq : t.seq = s.seq
  cab : t.cab = s.cab
  link : t.link = { s.link with statusMarked := t.link.statusMarked }
  view : t.view = s.view
  alloc : t.alloc = s.alloc
  claim : t.claim = s.claim
  mon : t.mon = s.mon
  out : t.out = s.out
  ret : t.ret = s.ret
  load : t.load = s.load
  params : t.params = s.params
  mailbox : t.mailbox = s.mailbox
  pending : t.pending = s.pending
  port : t.port = { s.port with
    pendConfigRead := t.port.pendConfigRead, pendSetpointWrite := t.port.pendSetpointWrite
    pendHoursWrite := t.port.pendHoursWrite, pendStatusRead := t.port.pendStatusRead
    nextConfigRead := t.port.nextConfigRead, inFlight := t.port.inFlight
    buffer := t.port.buffer, refresh := t.port.refresh }

section
variable {s t u : State}

theorem Stepped.refl (s : State) : Stepped s s := ⟨rfl, rfl, rfl, rfl, rfl, rfl, rfl, rfl, rfl, rfl, rfl, rfl, rfl, rfl⟩

theorem Stepped.trans (h : Stepped s t) (k : Stepped t u) : Stepped s u where
  seq := k.seq.trans h.seq
  cab := k.cab.trans h.cab
  link := by rw [k.link, h.link]
  view := k.view.trans h.view
  alloc := k.alloc.trans h.alloc
  claim := k.claim.trans h.claim
  mon := k.mon.trans h.mon
  out := k.out.trans h.out
  ret := k.ret.trans h.ret
  load := k.load.trans h.load
  params := k.params.trans h.params
  mailbox := k.mailbox.trans h.mailbox
  pending := k.pending.trans h.pending
  port := by rw [k.port, h.port]

theorem Stepped.ite {c : Prop} [Decidable c] (ht : Stepped s t) (hu : Stepped s u) :
    Stepped s (if c then t else u) := by
  split
  · exact ht
  · exact hu

theorem Stepped.markStatus (h : Stepped s t) : Stepped s (Machine.markStatus t) :=
  h.trans (by rw [markStatus_eq]; exact ⟨rfl, rfl, rfl, rfl, rfl, rfl, rfl, rfl, rfl, rfl, rfl, rfl, rfl, rfl⟩)

theorem Stepped.setStepper (h : Stepped s t) (x : Stepper) : Stepped s (t.setStepper x) :=
  h.trans ⟨rfl, rfl, rfl, rfl, rfl, rfl, rfl, rfl, rfl, rfl, rfl, rfl, rfl, rfl⟩

/-- A change of the port's pending set, its grant, its buffer and its refresh timer. -/
theorem Stepped.setPort (h : Stepped s t) {x : Port} (port : x = { t.port with
    pendConfigRead := x.pendConfigRead, pendSetpointWrite := x.pendSetpointWrite
    pendHoursWrite := x.pendHoursWrite, pendStatusRead := x.pendStatusRead
    nextConfigRead := x.nextConfigRead, inFlight := x.inFlight
    buffer := x.buffer, refresh := x.refresh }) : Stepped s (t.setPort x) :=
  h.trans ⟨rfl, rfl, rfl, rfl, rfl, rfl, rfl, rfl, rfl, rfl, rfl, rfl, rfl, port⟩

theorem Stepped.portGrant (h : Stepped s t) : Stepped s (Machine.portGrant t) := by
  unfold Machine.portGrant
  dsimp only
  exact Stepped.ite h (Stepped.ite (h.setPort rfl) (Stepped.ite (h.setPort rfl) (Stepped.ite (h.setPort rfl)
    (Stepped.ite (h.setPort rfl) h))))

theorem Stepped.portMark (h : Stepped s t) (k : PortKind) : Stepped s (Machine.portMark k t) :=
  (h.setPort (by cases k <;> rfl)).portGrant

theorem Stepped.portRelease (h : Stepped s t) : Stepped s (Machine.portRelease t) := (h.setPort rfl).portGrant

theorem Stepped.deriveSetpoint (h : Stepped s t) : Stepped s (Machine.deriveSetpoint t) := by
  unfold Machine.deriveSetpoint
  dsimp only
  refine Stepped.ite h ?_
  split
  · exact (h.setStepper _).portMark _
  · exact (h.setStepper _).setPort rfl

theorem Stepped.setNotch (h : Stepped s t) (n : Nat) : Stepped s (Machine.setNotch n t) :=
  Stepped.ite h (h.setStepper _).deriveSetpoint.markStatus

theorem Stepped.stepNotch (h : Stepped s t) (n : Nat) : Stepped s (Machine.stepNotch n t) :=
  (h.setStepper _).setNotch n

theorem Stepped.examineStep (h : Stepped s t) : Stepped s (Machine.examineStep t) :=
  Stepped.ite (Stepped.ite (Stepped.ite (h.stepNotch _) h) (Stepped.ite (Stepped.ite (h.stepNotch _) h) h)) h

theorem Stepped.stepperEntry (h : Stepped s t) (st : EngineState) : Stepped s (Machine.stepperEntry st t) := by
  unfold Machine.stepperEntry
  exact (Stepped.deriveSetpoint (Stepped.ite ((h.setStepper _).setNotch 0) (h.setStepper _))).examineStep

end

/-- An entry as far as the Allocator touches the Sequencer's state and timers, the mark, the trigger and the stop-delay timer. -/
theorem entryTold_keeps (st : EngineState) (s : State) :
    (entryTold st s).seq = { s.seq with state := st, stateTimer := 0, fireConfirm := .stopped }
      ∧ (entryTold st s).cab = s.cab ∧ (entryTold st s).view = s.view ∧ (entryTold st s).claim = s.claim
      ∧ (entryTold st s).stepper = s.stepper ∧ (entryTold st s).port = s.port ∧ (entryTold st s).mon = s.mon
      ∧ (entryTold st s).out = s.out ∧ (entryTold st s).ret = s.ret ∧ (entryTold st s).load = s.load
      ∧ (entryTold st s).params = s.params ∧ (entryTold st s).mailbox = s.mailbox
      ∧ (entryTold st s).pending = s.pending := by
  unfold entryTold
  dsimp only
  rw [passTrigger_eq, markStatus_eq]
  split <;> exact ⟨rfl, rfl, rfl, rfl, rfl, rfl, rfl, rfl, rfl, rfl, rfl, rfl, rfl⟩

/-- An entry tells nothing that ALARM, need flags, proof states and derate factor read. -/
theorem entered_keeps (st : EngineState) (s : State) :
    (stepperEntry st (entryTold st s)).cab = s.cab ∧ (stepperEntry st (entryTold st s)).mon = s.mon
      ∧ (stepperEntry st (entryTold st s)).out = s.out ∧ (stepperEntry st (entryTold st s)).ret = s.ret
      ∧ (stepperEntry st (entryTold st s)).load = s.load ∧ (stepperEntry st (entryTold st s)).params = s.params := by
  have stepped := (Stepped.refl (entryTold st s)).stepperEntry st
  obtain ⟨-, cab, -, -, -, -, mon, out, ret, load, params, -⟩ := entryTold_keeps st s
  exact ⟨stepped.cab.trans cab, stepped.mon.trans mon, stepped.out.trans out, stepped.ret.trans ret,
    stepped.load.trans load, stepped.params.trans params⟩

/-! ### The command set -/

/-- The four commands driven. -/
def drive (c : CommandSet) (s : State) : State :=
  (s.setOut { s.out with crank := c.crank, prelube := c.prelube, loadPermit := c.loadPermit }).setRet
    { s.ret with fuelLatch := c.fuel }

theorem commandSet_eq (c : CommandSet) (s : State) : commandSet c s =
    proveCommand .prelube s.out.prelube c.prelube (proveCommand .fuel s.ret.fuelLatch c.fuel
      (proveCommand .crank s.out.crank c.crank (drive c s))) := rfl

/-- What holds of a driven state, of a changed proving and of a mismatch reported gone, holds after a command set. -/
theorem commandSet_keeps {P : State → Prop} {c : CommandSet} {s : State} (hs : P s)
    (driven : ∀ c s, P s → P (drive c s)) (proving : ∀ s o p, P s → P (s.setProving o p))
    (gone : ∀ s code, code ∈ entryCodes → P s → P (reportGone code s)) : P (commandSet c s) := by
  have prove (o a b) (t : State) (ht : P t) : P (proveCommand o a b t) := by
    unfold proveCommand
    dsimp only
    split
    · exact ht
    split
    · refine gone _ _ ?_ (proving _ _ _ ht)
      cases o <;> cases a <;> decide
    · exact proving _ _ _ ht
  rw [commandSet_eq]
  exact prove _ _ _ _ (prove _ _ _ _ (prove _ _ _ _ (driven c s hs)))

/-- A proving that is quiet but for one output. -/
theorem proveCommand_frame (o : ProvedOutput) (a b : Bool) (s : State) :
    ∃ p, Quiet (s.setProving o p) (proveCommand o a b s) := by
  unfold proveCommand
  dsimp only
  split
  · refine ⟨s.out.proving o, ?_⟩
    have same : s.setProving o (s.out.proving o) = s := by cases o <;> rfl
    rw [same]; exact Quiet.refl s
  split
  · exact ⟨_, (Quiet.refl _).reportGone _⟩
  · exact ⟨_, Quiet.refl _⟩

/-! ### The laws -/

section
variable {r : Scope} {s t : State}

theorem AlarmLaw.commandSet (h : AlarmLaw s) (c : CommandSet) : AlarmLaw (Machine.commandSet c s) :=
  commandSet_keeps h (fun _ _ h => h) (fun s o p h => by cases o <;> exact h) (fun _ code _ h => h.reportGone code)

theorem AlarmLaw.stepped (h : AlarmLaw s) (k : Stepped s t) : AlarmLaw t := by
  rw [AlarmLaw, k.out, k.mon]; exact h

theorem AlarmLaw.computeDerate (h : AlarmLaw s) : AlarmLaw (Machine.computeDerate s) := by
  refine alarmLaw_of_same h ?_ (computeDerate_conditions s)
  unfold Machine.computeDerate
  split
  · rw [markStatusIf_eq, passTriggerIf_eq]; rfl
  · rfl

/-- R163 along every chain. -/
theorem AlarmLaw.deeds (h : AlarmLaw s) (d : Deeds r s t) (parts : Part.conditions ∉ r.parts ∧ Part.alarm ∉ r.parts) : AlarmLaw t := by
  induction d with
  | refl => exact h
  | entered d st _ _ ih =>
    obtain ⟨-, mon, out, -⟩ := entered_keeps st _
    exact alarmLaw_of_same (ih h) (by rw [out]) (by rw [mon])
  | mark d ih => exact alarmLaw_of_same (ih h) (by rw [markStatus_eq]; rfl) (by rw [markStatus_eq]; rfl)
  | trigger d ih => exact alarmLaw_of_same (ih h) (by rw [passTrigger_eq]; rfl) (by rw [passTrigger_eq]; rfl)
  | step d n ih => exact (ih h).stepped ((Stepped.refl _).stepNotch n)
  | commands d c ih => exact (ih h).commandSet c
  | derate d ih => exact (ih h).computeDerate
  | hoursWrite d ih => exact (ih h).stepped ((Stepped.refl _).portMark _)
  | @cause s t d code mem b ih =>
    show t.out.alarm = _
    rw [ih h]
    exact congrArg (!·) (setCause_isEmpty _ _ _).symm
  | join => exact alarmLaw_handChange _ _ _
  | leave => exact alarmLaw_handChange _ _ _
  | other d o _ ih => exact alarmLaw_of_same (ih h) (o .alarm parts.2) (o .conditions parts.1)
  | records d _ _ _ _ _ ih | slot d _ ih | own d _ _ _ ih | store d _ _ ih | phases d _ _ _ ih | input d _ _ ih
  | cleared d _ _ _ ih | dwell d _ ih => exact ih h

theorem layoverLaw_of_same (h : LayoverLaw s) (cab : t.cab = s.cab) : LayoverLaw t := by
  rw [LayoverLaw, cab]; exact h

/-- Clearing need flags keeps them clear in SERVICE. -/
theorem LayoverLaw.cleared (h : LayoverLaw s) (c b : Bool) {t : State}
    (cab : t.cab = { s.cab with coldRun := s.cab.coldRun && c, batteryNeed := s.cab.batteryNeed && b }) :
    LayoverLaw t := by
  intro service
  rw [cab] at service
  obtain ⟨cold, battery, timer⟩ := h service
  rw [cab]
  exact ⟨by simp [cold], by simp [battery], timer⟩

theorem handSensorFault_cab (code : Nat) (s : State) : ∃ c b, (handSensorFault code s).cab =
    { s.cab with coldRun := s.cab.coldRun && c, batteryNeed := s.cab.batteryNeed && b } := by
  simp only [handSensorFault, clearColdRun, clearBatteryNeed, markStatusIf_eq]
  split
  · exact ⟨false, true, by simp⟩
  · split
    · exact ⟨true, false, by simp⟩
    · exact ⟨true, true, by simp⟩

theorem commandSet_cab (c : CommandSet) (s : State) : (commandSet c s).cab = s.cab :=
  commandSet_keeps (P := fun t => t.cab = s.cab) rfl (fun _ _ h => h) (fun s o p h => by cases o <;> exact h)
    (fun _ _ _ h => ((Quiet.refl _).reportGone _).cab.trans h)

/-- R39, R41 along every chain. -/
theorem LayoverLaw.deeds (h : LayoverLaw s) (d : Deeds r s t) 
    (parts : Part.mode ∉ r.parts ∧ Part.needs ∉ r.parts ∧ Part.layoverCheck ∉ r.parts) : LayoverLaw t := by
  induction d with
  | refl => exact h
  | entered d st _ _ ih => exact layoverLaw_of_same (ih h) (entered_keeps st _).1
  | mark d ih => exact layoverLaw_of_same (ih h) (Quiet.markStatus_self _).cab
  | trigger d ih => exact layoverLaw_of_same (ih h) (Quiet.passTrigger_self _).cab
  | step d n ih => exact layoverLaw_of_same (ih h) ((Stepped.refl _).stepNotch n).cab
  | commands d c ih => exact layoverLaw_of_same (ih h) (commandSet_cab c _)
  | derate d ih => exact layoverLaw_of_same (ih h) ((Quiet.refl _).computeDerate).cab
  | hoursWrite d ih => exact layoverLaw_of_same (ih h) ((Stepped.refl _).portMark _).cab
  | @join s t u d code mem isCode new k ih ihk =>
    have joined : LayoverLaw u := ihk (layoverLaw_of_same (ih h) (((Quiet.refl t).withMember code).handDerate code _).cab)
    obtain ⟨c, b, cab⟩ := handSensorFault_cab code u
    exact joined.cleared c b (((Quiet.refl _).handChange _ _).cab.trans cab)
  | leave d m _ _ ih => exact layoverLaw_of_same (ih h) ((Quiet.refl _).leaveCondition m).cab
  | cleared d _ c b ih => exact (ih h).cleared c b rfl
  | @other s t u d o _ ih =>
    obtain ⟨mode, needs, timer⟩ := parts
    have mode : u.cab.mode = t.cab.mode := o .mode mode
    have needs : (u.cab.coldRun, u.cab.batteryNeed) = (t.cab.coldRun, t.cab.batteryNeed) := o .needs needs
    have timer : u.cab.layoverCheck = t.cab.layoverCheck := o .layoverCheck timer
    intro service
    rw [mode] at service
    rw [timer, (Prod.mk.inj needs).1, (Prod.mk.inj needs).2]
    exact ih h service
  | records d _ _ _ _ _ ih | slot d _ ih | own d _ _ _ ih | store d _ _ ih | phases d _ _ _ ih | input d _ _ ih
  | cause d _ _ ih | dwell d _ ih => exact ih h

end

end Sys2Proof.Machine
end


section
/-! The laws of the setpoint (R133, R134), of the proof states (R169) and of the derate factor and the capacity as computed (R151, R152)
under chains of deeds. -/

namespace Sys2Proof.Machine

/-! ### What stays -/

theorem portGrant_stepper (s : State) : (portGrant s).stepper = s.stepper := by
  unfold portGrant
  dsimp only
  repeat' split
  all_goals rfl

theorem portMark_stepper (k : PortKind) (s : State) : (portMark k s).stepper = s.stepper := portGrant_stepper _

/-- A command set touches the commands and the proving, and of the rest what a quiet change touches. -/
theorem commandSet_frame (c : CommandSet) (s : State) :
    (commandSet c s).seq = s.seq ∧ (commandSet c s).view = s.view ∧ (commandSet c s).claim = s.claim
      ∧ (commandSet c s).stepper = s.stepper ∧ (commandSet c s).port = s.port ∧ (commandSet c s).load = s.load
      ∧ (commandSet c s).params = s.params ∧ (commandSet c s).mailbox = s.mailbox
      ∧ (commandSet c s).pending = s.pending := by
  refine commandSet_keeps (P := fun t => t.seq = s.seq ∧ t.view = s.view ∧ t.claim = s.claim ∧ t.stepper = s.stepper
    ∧ t.port = s.port ∧ t.load = s.load ∧ t.params = s.params ∧ t.mailbox = s.mailbox ∧ t.pending = s.pending)
    ⟨rfl, rfl, rfl, rfl, rfl, rfl, rfl, rfl, rfl⟩ (fun _ _ h => h) (fun s o p h => by cases o <;> exact h) ?_
  intro t code _ ⟨seq, view, claim, stepper, port, load, params, mailbox, pending⟩
  have q := (Quiet.refl t).reportGone code
  exact ⟨q.seq.trans seq, q.view.trans view, q.claim.trans claim, q.stepper.trans stepper, q.port.trans port,
    q.load.trans load, q.params.trans params, q.mailbox.trans mailbox, q.pending.trans pending⟩

/-- What a joining hands on after the Sequencer's reaction touches neither Sequencer, Stepper, port, Loader nor parameters. -/
theorem handedOn_keeps (code : Nat) (cls : CondClass) (differs : Bool) (s : State) :
    (handChange cls differs (handSensorFault code s)).seq = s.seq
      ∧ (handChange cls differs (handSensorFault code s)).stepper = s.stepper
      ∧ (handChange cls differs (handSensorFault code s)).port = s.port
      ∧ (handChange cls differs (handSensorFault code s)).load = s.load
      ∧ (handChange cls differs (handSensorFault code s)).params = s.params
      ∧ (handChange cls differs (handSensorFault code s)).mon = s.mon
      ∧ (∀ o, (handChange cls differs (handSensorFault code s)).out.proving o = s.out.proving o)
      ∧ ∀ o, (handChange cls differs (handSensorFault code s)).command o = s.command o := by
  obtain ⟨seq, mon, out, stepper, port, ret, load, params, -⟩ := handSensorFault_keeps code s
  have q := (Quiet.refl (handSensorFault code s)).handChange cls differs
  have command (o) : (handSensorFault code s).command o = s.command o := by
    cases o <;> simp only [State.command, out, ret]
  refine ⟨q.seq.trans seq, q.stepper.trans stepper, q.port.trans port, q.load.trans load, q.params.trans params, ?_,
    fun o => (q.proving o).trans (by rw [out]), fun o => (q.command o).trans (command o)⟩
  rw [← mon]
  unfold handChange
  rw [markStatusIf_eq, passTriggerIf_eq]
  rfl

section
variable {r : Scope} {s t : State}

theorem Deeds.loaded (d : Deeds r s t) (parts : Part.progress ∉ r.parts) : t.loaded = s.loaded := by
  induction d with
  | refl => rfl
  | entered d st _ _ ih => rw [← ih, State.loaded, State.loaded, (entered_keeps st _).2.2.2.2.1]
  | mark d ih => rw [← ih, (Quiet.markStatus_self _).loaded]
  | trigger d ih => rw [← ih, (Quiet.passTrigger_self _).loaded]
  | step d n ih => rw [← ih, State.loaded, State.loaded, ((Stepped.refl _).stepNotch n).load]
  | commands d c ih =>
    obtain ⟨-, -, -, -, -, load, -⟩ := commandSet_frame c _
    rw [← ih, State.loaded, State.loaded, load]
  | derate d ih => rw [← ih, ((Quiet.refl _).computeDerate).loaded]
  | hoursWrite d ih => rw [← ih, State.loaded, State.loaded, ((Stepped.refl _).portMark _).load]
  | @join s t u d code mem isCode new k ih ihk =>
    obtain ⟨-, -, -, load, -⟩ := handedOn_keeps code (t.classOf code) (reportDiffers t (t.withMember code)) u
    rw [State.loaded, load]
    exact ihk.trans ((((Quiet.refl t).withMember code).handDerate code _).loaded.trans ih)
  | leave d m _ _ ih => rw [← ih, ((Quiet.refl _).leaveCondition m).loaded]
  | @other s t u d o _ ih =>
    have progress : u.load.progress = t.load.progress := o .progress parts
    rw [← ih, State.loaded, State.loaded, progress]
  | records d _ _ _ _ _ ih | slot d _ ih | own d _ _ _ ih | store d _ _ ih | phases d _ _ _ ih | input d _ _ ih
  | cause d _ _ ih | cleared d _ _ _ ih | dwell d _ ih => exact ih

/-! ### The setpoint -/

/-- While the setpoint is NONE nothing of it is pending (R134). -/
def NothingPending (s : State) : Prop :=
  s.stepper.setpoint = none → s.port.pendSetpointWrite = false ∧ s.port.refresh.isRunning = false

/-- The setpoint is the table's, and nothing of NONE is pending (R133, R134). -/
def SetpointHeld (s : State) : Prop :=
  s.stepper.setpoint = setpointOf s.params s.stepper.notch s.seq.state ∧ NothingPending s

theorem NothingPending.of_same (h : NothingPending s) (setpoint : t.stepper.setpoint = s.stepper.setpoint)
    (port : t.port = s.port) : NothingPending t := by
  rw [NothingPending, setpoint, port]; exact h

theorem SetpointHeld.of_same (h : SetpointHeld s) (state : t.seq.state = s.seq.state)
    (stepper : t.stepper.notch = s.stepper.notch ∧ t.stepper.setpoint = s.stepper.setpoint) (port : t.port = s.port)
    (params : t.params = s.params) : SetpointHeld t :=
  ⟨by rw [stepper.1, stepper.2, params, state]; exact h.1, h.2.of_same stepper.2 port⟩

/-- The setpoint derived afresh is the table's (R133, R134). -/
theorem setpointHeld_deriveSetpoint (h : NothingPending s) : SetpointHeld (deriveSetpoint s) := by
  unfold deriveSetpoint
  dsimp only
  split
  · next same => exact ⟨same.symm, h⟩
  · split
    · next n sp =>
      have stepped := (Stepped.refl (s.setStepper { s.stepper with setpoint := setpointOf s.params s.stepper.notch s.seq.state })).portMark .setpointWrite
      refine ⟨?_, fun none => ?_⟩
      · rw [portMark_stepper, stepped.params, stepped.seq]; rfl
      · rw [portMark_stepper, setStepper_stepper, sp] at none; cases none
    · exact ⟨rfl, fun _ => ⟨rfl, rfl⟩⟩

theorem NothingPending.setNotch (h : NothingPending s) (n : Nat) : NothingPending (Machine.setNotch n s) := by
  unfold Machine.setNotch
  split
  · exact h
  · refine NothingPending.of_same (setpointHeld_deriveSetpoint ?_).2 (by rw [markStatus_eq]; rfl) (by rw [markStatus_eq]; rfl)
    exact h

theorem SetpointHeld.setNotch (h : SetpointHeld s) (n : Nat) : SetpointHeld (Machine.setNotch n s) := by
  unfold Machine.setNotch
  split
  · exact h
  · have derived : SetpointHeld (deriveSetpoint (s.setStepper { s.stepper with notch := n })) :=
      setpointHeld_deriveSetpoint h.2
    exact derived.of_same (by rw [markStatus_eq]; rfl) (by rw [markStatus_eq]; exact ⟨rfl, rfl⟩)
      (by rw [markStatus_eq]; rfl) (by rw [markStatus_eq]; rfl)

theorem SetpointHeld.stepNotch (h : SetpointHeld s) (n : Nat) : SetpointHeld (Machine.stepNotch n s) :=
  have timed : SetpointHeld (s.setStepper { s.stepper with dwell := .restarted }) := h
  timed.setNotch n

theorem SetpointHeld.examineStep (h : SetpointHeld s) : SetpointHeld (Machine.examineStep s) := by
  unfold Machine.examineStep
  repeat' split
  any_goals exact h.stepNotch _
  all_goals exact h

/-- Whatever stood before, the setpoint is the table's after an entry. -/
theorem setpointHeld_stepperEntry (st : EngineState) (h : NothingPending s) : SetpointHeld (stepperEntry st s) := by
  have timed : NothingPending (s.setStepper { s.stepper with
      dwell := if st.steps then Dwell.restarted else Dwell.halted }) := h
  unfold stepperEntry
  dsimp only
  refine (setpointHeld_deriveSetpoint ?_).examineStep
  split
  · exact timed.setNotch 0
  · exact timed

theorem portGrant_pending (s : State) (pending : s.port.pendSetpointWrite = false) :
    (portGrant s).port.pendSetpointWrite = false ∧ (portGrant s).port.refresh = s.port.refresh := by
  unfold portGrant
  dsimp only
  repeat' split
  all_goals simp [pending]

theorem SetpointHeld.portGrant (h : SetpointHeld s) : SetpointHeld (Machine.portGrant s) := by
  have q := (Stepped.refl s).portGrant
  obtain ⟨table, pending⟩ := h
  refine ⟨by rw [portGrant_stepper, q.params, q.seq]; exact table, fun none => ?_⟩
  rw [portGrant_stepper] at none
  obtain ⟨write, refresh⟩ := pending none
  obtain ⟨write', refresh'⟩ := portGrant_pending s write
  exact ⟨write', (congrArg Timer.isRunning refresh').trans refresh⟩

/-- A mark keeps the law, and that of SETPOINT_WRITE does while a setpoint stands (R134). -/
theorem SetpointHeld.portMark (h : SetpointHeld s) (k : PortKind) (stands : k = .setpointWrite → s.stepper.setpoint ≠ none) :
    SetpointHeld (Machine.portMark k s) := by
  have marked : SetpointHeld (s.setPort (s.port.withMark k)) := by
    refine ⟨h.1, fun none => ?_⟩
    cases k
    case setpointWrite => exact absurd none (stands rfl)
    all_goals exact h.2 none
  exact marked.portGrant

/-- R133, R134 along every chain. -/
theorem SetpointHeld.deeds (h : SetpointHeld s) (d : Deeds r s t)
    (parts : Part.stepper ∉ r.parts ∧ Part.port ∉ r.parts ∧ Part.config ∉ r.parts) : SetpointHeld t := by
  induction d with
  | refl => exact h
  | records d x state _ _ _ ih => exact (ih h).of_same state ⟨rfl, rfl⟩ rfl rfl
  | @entered s t d st _ _ ih =>
    obtain ⟨-, -, -, -, stepper, port, -⟩ := entryTold_keeps st t
    exact setpointHeld_stepperEntry st ((ih h).2.of_same (by rw [stepper]) port)
  | @mark s t d ih =>
    have q := Quiet.markStatus_self t
    exact (ih h).of_same (by rw [q.seq]) (by rw [q.stepper]; exact ⟨rfl, rfl⟩) q.port q.params
  | @trigger s t d ih =>
    have q := Quiet.passTrigger_self t
    exact (ih h).of_same (by rw [q.seq]) (by rw [q.stepper]; exact ⟨rfl, rfl⟩) q.port q.params
  | step d n ih => exact (ih h).stepNotch n
  | hoursWrite d ih => exact (ih h).portMark .hoursWrite (fun k => by cases k)
  | @commands s t d c ih =>
    obtain ⟨seq, -, -, stepper, port, -, params, -⟩ := commandSet_frame c t
    exact (ih h).of_same (by rw [seq]) (by rw [stepper]; exact ⟨rfl, rfl⟩) port params
  | @derate s t d ih =>
    have q := (Quiet.refl t).computeDerate
    exact (ih h).of_same (by rw [q.seq]) (by rw [q.stepper]; exact ⟨rfl, rfl⟩) q.port q.params
  | @join s t u d code mem isCode new k ih ihk =>
    have q := ((Quiet.refl t).withMember code).handDerate code (t.classOf code)
    have reacted : SetpointHeld u :=
      ihk ((ih h).of_same (by rw [q.seq]) (by rw [q.stepper]; exact ⟨rfl, rfl⟩) q.port q.params)
    obtain ⟨seq, stepper, port, -, params, -⟩ :=
      handedOn_keeps code (t.classOf code) (reportDiffers t (t.withMember code)) u
    exact reacted.of_same (by rw [seq]) (by rw [stepper]; exact ⟨rfl, rfl⟩) port params
  | @leave s t d m _ _ ih =>
    have q := (Quiet.refl t).leaveCondition m
    exact (ih h).of_same (by rw [q.seq]) (by rw [q.stepper]; exact ⟨rfl, rfl⟩) q.port q.params
  | @other s t u d o state ih =>
    obtain ⟨stepper, port, config⟩ := parts
    have stepper : u.stepper = t.stepper := o .stepper stepper
    have port : (u.port.pendSetpointWrite, u.port.refresh) = (t.port.pendSetpointWrite, t.port.refresh) :=
      congrArg (fun p : Part.port.Value => (p.2.1, p.2.2.2.2.2.2.2)) (o .port port)
    have params : u.params = t.params := congrArg Prod.fst (o .config config)
    obtain ⟨table, pending⟩ := ih h
    refine ⟨by rw [stepper, params, state]; exact table, ?_⟩
    rw [NothingPending, stepper, (Prod.mk.inj port).1, (Prod.mk.inj port).2]
    exact pending
  | slot d _ ih | own d _ _ _ ih | store d _ _ ih | phases d _ _ _ ih | input d _ _ ih | cause d _ _ ih
  | cleared d _ _ _ ih | dwell d _ ih => exact ih h

theorem setpointLaw_iff (s : State) : SetpointLaw s ↔ (s.loaded = false → s.seq.state = .init) ∧ SetpointHeld s :=
  Iff.rfl

/-- The setpoint law along a chain that makes entries only after the load. -/
theorem SetpointLaw.deeds (h : SetpointLaw s) (d : Deeds r s t) (ready : r.entries = true → s.loaded = true)
    (parts : Part.stepper ∉ r.parts ∧ Part.port ∉ r.parts ∧ Part.config ∉ r.parts ∧ Part.progress ∉ r.parts) :
    SetpointLaw t := by
  obtain ⟨init, held⟩ := (setpointLaw_iff s).1 h
  obtain ⟨stepper, port, config, progress⟩ := parts
  refine (setpointLaw_iff t).2 ⟨fun unloaded => ?_, held.deeds d ⟨stepper, port, config⟩⟩
  rw [d.loaded progress] at unloaded
  have closed : r.entries = false := by
    rw [Bool.eq_false_iff]
    intro e
    rw [ready e] at unloaded
    cases unloaded
  rw [d.state closed, init unloaded]

/-! ### The proof states -/

/-- The law of one output: its proving against its command (R169). -/
def Proving.lawful (p : Proving) (command : Bool) : Prop :=
  (p.proof = .agree ↔ p.feedback.matchesCommand command = true) ∧ (p.timer.isRunning = true ↔ p.proof = .proving)

theorem provingLaw_iff (s : State) : ProvingLaw s ↔ ∀ o, (s.out.proving o).lawful (s.command o) := Iff.rfl

theorem afterCommand_lawful (p : Proving) (command : Bool) : (p.afterCommand command).lawful command := by
  unfold Proving.afterCommand
  split
  · next agree => exact ⟨by simp [agree], by simp [Timer.isRunning]⟩
  · next other => exact ⟨by simp [other], by simp [Timer.isRunning]⟩

theorem ProvingLaw.of_same (h : ProvingLaw s) (proving : ∀ o, t.out.proving o = s.out.proving o)
    (command : ∀ o, t.command o = s.command o) : ProvingLaw t := by
  rw [provingLaw_iff] at h ⊢
  intro o
  rw [proving, command]
  exact h o

/-- The command of an output in a command set. -/
def CommandSet.of (c : CommandSet) : ProvedOutput → Bool
  | .crank => c.crank
  | .fuel => c.fuel
  | .prelube => c.prelube

theorem setProving_proving (s : State) (o o' : ProvedOutput) (p : Proving) :
    (s.setProving o p).out.proving o' = if o' = o then p else s.out.proving o' := by
  cases o <;> cases o' <;> rfl

theorem setProving_command (s : State) (o o' : ProvedOutput) (p : Proving) :
    (s.setProving o p).command o' = s.command o' := by
  cases o <;> cases o' <;> rfl

theorem proveCommand_proving (o : ProvedOutput) (a b : Bool) (s : State) (o' : ProvedOutput) :
    (proveCommand o a b s).out.proving o' =
      if o' = o ∧ a ≠ b then (s.out.proving o).afterCommand b else s.out.proving o' := by
  unfold proveCommand
  dsimp only
  by_cases same : a = b
  · rw [if_pos same, if_neg fun h => h.2 same]
  rw [if_neg same]
  have proved : (s.setProving o ((s.out.proving o).afterCommand b)).out.proving o' =
      if o' = o ∧ a ≠ b then (s.out.proving o).afterCommand b else s.out.proving o' := by
    rw [setProving_proving]
    simp [same]
  split
  · rw [((Quiet.refl _).reportGone _).proving]; exact proved
  · exact proved

theorem proveCommand_command (o : ProvedOutput) (a b : Bool) (s : State) (o' : ProvedOutput) :
    (proveCommand o a b s).command o' = s.command o' := by
  obtain ⟨p, q⟩ := proveCommand_frame o a b s
  rw [q.command, setProving_command]

theorem commandSet_command (c : CommandSet) (s : State) (o : ProvedOutput) : (commandSet c s).command o = c.of o := by
  rw [commandSet_eq, proveCommand_command, proveCommand_command, proveCommand_command]
  cases o <;> rfl

/-- A command set leaves the proving of an output whose command stands and starts that of the others (R169). -/
theorem commandSet_proving (c : CommandSet) (s : State) (o : ProvedOutput) : (commandSet c s).out.proving o =
    if s.command o = c.of o then s.out.proving o else (s.out.proving o).afterCommand (c.of o) := by
  have driven (o) : (drive c s).out.proving o = s.out.proving o := by cases o <;> rfl
  simp only [commandSet_eq, proveCommand_proving, driven]
  cases o
  case crank => by_cases same : s.out.crank = c.crank <;> simp [State.command, CommandSet.of, same]
  case fuel => by_cases same : s.ret.fuelLatch = c.fuel <;> simp [State.command, CommandSet.of, same]
  case prelube => by_cases same : s.out.prelube = c.prelube <;> simp [State.command, CommandSet.of, same]

theorem ProvingLaw.commandSet (h : ProvingLaw s) (c : CommandSet) : ProvingLaw (Machine.commandSet c s) := by
  rw [provingLaw_iff] at h ⊢
  intro o
  rw [commandSet_proving, commandSet_command]
  split
  · next same => exact same ▸ h o
  · exact afterCommand_lawful _ _

theorem proving_eq {p q : Proving} (feedback : p.feedback = q.feedback) (proof : (p.proof, p.timer) = (q.proof, q.timer)) :
    p = q := by
  obtain ⟨proof, timer⟩ := Prod.mk.inj proof
  cases p
  cases q
  congr

theorem proving_of_read (proof : Part.proof.read t = Part.proof.read s) (feedback : Part.feedback.read t = Part.feedback.read s)
    (o : ProvedOutput) : t.out.proving o = s.out.proving o := by
  cases o
  · exact proving_eq (congrArg Prod.fst feedback) (congrArg Prod.fst proof)
  · exact proving_eq (congrArg (fun p : Part.feedback.Value => p.2.1) feedback)
      (congrArg (fun p : Part.proof.Value => p.2.1) proof)
  · exact proving_eq (congrArg (fun p : Part.feedback.Value => p.2.2) feedback)
      (congrArg (fun p : Part.proof.Value => p.2.2) proof)

theorem command_of_read (commands : Part.commands.read t = Part.commands.read s) (o : ProvedOutput) :
    t.command o = s.command o := by
  have commands : t.standingCommands = s.standingCommands := commands
  cases o
  · exact congrArg CommandSet.crank commands
  · exact congrArg CommandSet.fuel commands
  · exact congrArg CommandSet.prelube commands

/-- R169 along every chain. -/
theorem ProvingLaw.deeds (h : ProvingLaw s) (d : Deeds r s t)
    (parts : Part.proof ∉ r.parts ∧ Part.feedback ∉ r.parts ∧ Part.commands ∉ r.parts) : ProvingLaw t := by
  induction d with
  | refl => exact h
  | @entered s t d st _ _ ih =>
    obtain ⟨-, -, out, ret, -⟩ := entered_keeps st t
    exact (ih h).of_same (fun o => by rw [out]) (fun o => by cases o <;> simp only [State.command, out, ret])
  | mark d ih => exact (ih h).of_same (Quiet.markStatus_self _).proving (Quiet.markStatus_self _).command
  | trigger d ih => exact (ih h).of_same (Quiet.passTrigger_self _).proving (Quiet.passTrigger_self _).command
  | @step s t d n ih =>
    have q := (Stepped.refl t).stepNotch n
    exact (ih h).of_same (fun o => by rw [q.out]) (fun o => by cases o <;> simp only [State.command, q.out, q.ret])
  | commands d c ih => exact (ih h).commandSet c
  | @hoursWrite s t d ih =>
    have q := (Stepped.refl t).portMark .hoursWrite
    exact (ih h).of_same (fun o => by rw [q.out]) (fun o => by cases o <;> simp only [State.command, q.out, q.ret])
  | derate d ih => exact (ih h).of_same ((Quiet.refl _).computeDerate).proving ((Quiet.refl _).computeDerate).command
  | @join s t u d code mem isCode new k ih ihk =>
    have q := ((Quiet.refl t).withMember code).handDerate code (t.classOf code)
    obtain ⟨-, -, -, -, -, -, proving, command⟩ :=
      handedOn_keeps code (t.classOf code) (reportDiffers t (t.withMember code)) u
    exact (ihk ((ih h).of_same q.proving q.command)).of_same proving command
  | leave d m _ _ ih =>
    exact (ih h).of_same ((Quiet.refl _).leaveCondition m).proving ((Quiet.refl _).leaveCondition m).command
  | other d o _ ih =>
    obtain ⟨proof, feedback, commands⟩ := parts
    exact (ih h).of_same (proving_of_read (o .proof proof) (o .feedback feedback)) (command_of_read (o .commands commands))
  | records d _ _ _ _ _ ih | slot d _ ih | own d _ _ _ ih | phases d _ _ _ ih | input d _ _ ih | cause d _ _ ih
  | cleared d _ _ _ ih | dwell d _ ih => exact ih h
  | store d _ _ ih => exact (ih h).of_same (fun _ => rfl) (fun o => by cases o <;> rfl)

end

end Sys2Proof.Machine
end


section
/-! The derate factor and the capacity as computed (R151, R152) under chains of deeds. -/

namespace Sys2Proof.Machine

/-! ### What the factor reads -/

theorem derateFactor_congr {s t : State} (params : t.params = s.params)
    (value : t.mon.coolant.value = s.mon.coolant.value)
    (sensor : hasCode t.mon.conditions codeCoolantSensor = hasCode s.mon.conditions codeCoolantSensor)
    (caps : ∀ f, t.mon.conditions.foldl (derateCap t.mon.routing) f = s.mon.conditions.foldl (derateCap s.mon.routing) f) :
    t.derateFactor = s.derateFactor := by
  unfold State.derateFactor
  rw [params, value, sensor, caps]

theorem derateFresh_of_same {s t : State} (h : DerateFresh s) (derate : t.mon.derate = s.mon.derate)
    (capacity : t.mon.capacity = s.mon.capacity) (factor : t.derateFactor = s.derateFactor)
    (params : t.params = s.params) (loaded : t.loaded = s.loaded) : DerateFresh t := by
  rw [DerateFresh, derate, capacity, factor, params, loaded]
  exact h

theorem derateFactor_of_mon {s t : State} (mon : t.mon = s.mon) (params : t.params = s.params) :
    t.derateFactor = s.derateFactor :=
  derateFactor_congr params (by rw [mon]) (by rw [mon]) (fun f => by rw [mon])

theorem derateFresh_of_mon {s t : State} (h : DerateFresh s) (mon : t.mon = s.mon) (params : t.params = s.params)
    (loaded : t.loaded = s.loaded) : DerateFresh t :=
  derateFresh_of_same h (by rw [mon]) (by rw [mon]) (derateFactor_of_mon mon params) params loaded

/-- Computed afresh, F and C are what coolant and conditions give. -/
theorem derateFresh_computeDerate (s : State) : DerateFresh (computeDerate s) := by
  cases l : s.loaded
  · rw [computeDerate_unloaded s l]
    intro loaded
    rw [l] at loaded
    cases loaded
  · rw [computeDerate_eq s l]
    exact fun _ => ⟨rfl, rfl⟩

theorem derateCap_of_cls {m : Member} (h : m.cls ≠ .derate) (routing : Vector RoutingEntry 12) (f : Nat) :
    derateCap routing f m = f := if_neg h

theorem derateCap_setCause (routing : Vector RoutingEntry 12) (code : Nat) (b : Bool) (l : List Member) (f : Nat) :
    (setCause code b l).foldl (derateCap routing) f = l.foldl (derateCap routing) f := by
  induction l generalizing f with
  | nil => rfl
  | cons m l ih =>
    have same : derateCap routing f (if m.code = code then { m with cause := b } else m) = derateCap routing f m := by
      split <;> rfl
    show (setCause code b l).foldl (derateCap routing) (derateCap routing f _) = _
    rw [same, ih]
    rfl

theorem derateCap_insertMember {m : Member} (h : m.cls ≠ .derate) (routing : Vector RoutingEntry 12) (l : List Member)
    (f : Nat) : (insertMember m l).foldl (derateCap routing) f = l.foldl (derateCap routing) f := by
  induction l generalizing f with
  | nil => exact derateCap_of_cls h routing f
  | cons x l ih =>
    unfold insertMember
    split
    · rw [List.foldl_cons, derateCap_of_cls h]
    · rw [List.foldl_cons, List.foldl_cons, ih]

theorem derateCap_removeCode {code : Nat} (routing : Vector RoutingEntry 12) {l : List Member}
    (h : ∀ x ∈ l, x.code = code → x.cls ≠ .derate) (f : Nat) :
    (removeCode code l).foldl (derateCap routing) f = l.foldl (derateCap routing) f := by
  induction l generalizing f with
  | nil => rfl
  | cons x l ih =>
    have rest := fun f => ih (fun y hy => h y (List.mem_cons_of_mem x hy)) f
    unfold removeCode at rest ⊢
    by_cases same : x.code = code
    · rw [List.filter_cons_of_neg (by simp [same]), List.foldl_cons, derateCap_of_cls (h x List.mem_cons_self same), rest]
    · rw [List.filter_cons_of_pos (by simp [same]), List.foldl_cons, List.foldl_cons, rest]

theorem hasCode_setCause (code c : Nat) (b : Bool) (l : List Member) : hasCode (setCause code b l) c = hasCode l c := by
  have any (l : List Member) : hasCode l c = (l.map (·.code)).any (· == c) := by
    rw [hasCode, List.any_map]; rfl
  rw [any, any, setCause_codes]

theorem hasCode_insertMember (m : Member) (c : Nat) (l : List Member) :
    hasCode (insertMember m l) c = (m.code == c || hasCode l c) := by
  induction l with
  | nil => rfl
  | cons x l ih =>
    unfold insertMember
    split
    · rfl
    · simp only [hasCode, List.any_cons] at ih ⊢
      rw [ih, ← Bool.or_assoc, ← Bool.or_assoc, Bool.or_comm (x.code == c)]

theorem hasCode_removeCode {code c : Nat} (h : c ≠ code) (l : List Member) : hasCode (removeCode code l) c = hasCode l c := by
  unfold hasCode removeCode
  rw [List.any_filter]
  congr 1
  funext m
  by_cases same : m.code = c
  · simp [same, h]
  · simp [same]

/-- Members of one code are one member (R157). -/
theorem ListLaw.unique {l : List Member} (h : ListLaw l) {a b : Member} (ha : a ∈ l) (hb : b ∈ l)
    (same : a.code = b.code) : a = b := by
  obtain ⟨rising, -⟩ := h
  induction l with
  | nil => cases ha
  | cons x l ih =>
    rw [List.map_cons, List.pairwise_cons] at rising
    obtain ⟨first, rest⟩ := rising
    have below {y : Member} (hy : y ∈ l) : x.code < y.code := first _ (List.mem_map_of_mem hy)
    rcases List.mem_cons.1 ha with rfl | inA
    · rcases List.mem_cons.1 hb with rfl | inB
      · rfl
      · exact absurd same (below inB).ne
    · rcases List.mem_cons.1 hb with rfl | inB
      · exact absurd same (below inA).ne'
      · exact ih inA inB rest

/-! ### F and C follow the condition set -/

/-- R151, R157: the condition set is lawful, and F and C are what it and the coolant value give. -/
def Derived (s : State) : Prop := ConditionLaw s ∧ DerateFresh s

/-- R151, R152, R157: condition set, F and C are lawful, and F and C are what the condition set and the coolant value give. -/
def FreshLaw (s : State) : Prop := ConditionLaw s ∧ DerateLaw s ∧ DerateFresh s

section
variable {r : Scope} {s t : State}

theorem Derived.of_mon (h : Derived s) (mon : t.mon = s.mon) (params : t.params = s.params) (loaded : t.loaded = s.loaded) : Derived t :=
  ⟨by rw [conditionLaw_iff, mon]; exact h.1, derateFresh_of_mon h.2 mon params loaded⟩

/-- A change of the condition set is handed to F and C unless it has no part in them (R151, R162 step 1). -/
theorem derateFresh_handDerate {code : Nat} {cls : CondClass}
    (h : cls ≠ .derate → code ≠ codeCoolantSensor → DerateFresh s) : DerateFresh (handDerate code cls s) := by
  unfold handDerate
  split
  · exact derateFresh_computeDerate s
  · next other =>
    rw [not_or] at other
    exact h other.1 other.2

theorem handDerate_conditions (code : Nat) (cls : CondClass) (s : State) :
    (handDerate code cls s).mon.conditions = s.mon.conditions := by
  unfold handDerate
  split
  · exact computeDerate_conditions s
  · rfl

theorem Derived.setCause (h : Derived s) (code : Nat) (b : Bool) :
    Derived (s.setConditions (Machine.setCause code b s.mon.conditions)) :=
  ⟨ListLaw.setCause h.1 code b, derateFresh_of_same h.2 rfl rfl
    (derateFactor_congr rfl rfl (hasCode_setCause _ _ _ _) fun f => derateCap_setCause _ _ _ _ f) rfl rfl⟩

theorem handChange_mon (cls : CondClass) (differs : Bool) (s : State) : (handChange cls differs s).mon = s.mon := by
  unfold handChange
  rw [markStatusIf_eq, passTriggerIf_eq]
  rfl

theorem Derived.handChange (h : Derived s) (cls : CondClass) (differs : Bool) : Derived (Machine.handChange cls differs s) :=
  have q := (Quiet.refl s).handChange cls differs
  h.of_mon (handChange_mon cls differs s) q.params q.loaded

theorem Derived.withMember (h : Derived s) {code : Nat} (isCode : isConditionCode code = true)
    (new : hasCode s.mon.conditions code = false) : Derived (handDerate code (s.classOf code) (s.withMember code)) := by
  refine ⟨?_, derateFresh_handDerate fun cls sensor => ?_⟩
  · rw [conditionLaw_iff, handDerate_conditions]
    exact ListLaw.insertMember (m := ⟨code, _, _, _, _⟩) h.1 isCode new
  · refine derateFresh_of_same h.2 rfl rfl (derateFactor_congr rfl rfl ?_ fun f => ?_) rfl rfl
    · exact (hasCode_insertMember _ _ _).trans (by simp [sensor])
    · exact derateCap_insertMember (m := ⟨code, s.classOf code, s.latchedOf code, true, 0⟩) cls _ _ f

theorem Derived.leaveCondition (h : Derived s) {m : Member} (there : m ∈ s.mon.conditions) : Derived (Machine.leaveCondition m s) := by
  unfold Machine.leaveCondition
  dsimp only
  refine Derived.handChange ⟨?_, derateFresh_handDerate fun cls sensor => ?_⟩ _ _
  · rw [conditionLaw_iff, handDerate_conditions]
    exact ListLaw.removeCode h.1 m.code
  · refine derateFresh_of_same h.2 rfl rfl (derateFactor_congr rfl rfl ?_ fun f => ?_) rfl rfl
    · exact hasCode_removeCode (Ne.symm sensor) _
    · exact derateCap_removeCode _ (fun x hx same => (ListLaw.unique h.1 hx there same) ▸ cls) f

theorem Derived.reportGone (h : Derived s) (code : Nat) : Derived (Machine.reportGone code s) := by
  unfold Machine.reportGone
  split
  · exact h
  · next m found =>
    split
    · exact h.setCause code false
    · exact h.leaveCondition (mem_of_findMember found).1

theorem Derived.commandSet (h : Derived s) (c : CommandSet) : Derived (Machine.commandSet c s) :=
  commandSet_keeps h (fun _ _ h => h.of_mon rfl rfl rfl) (fun _ _ _ h => h.of_mon rfl rfl rfl) (fun _ code _ h => h.reportGone code)

theorem Derived.computeDerate (h : ConditionLaw s) : Derived (Machine.computeDerate s) :=
  ⟨by rw [conditionLaw_iff, computeDerate_conditions]; exact h, derateFresh_computeDerate s⟩

/-- R151 along every chain. -/
theorem Derived.deeds (h : Derived s) (d : Deeds r s t) (parts : Part.derate ∉ r.parts ∧ Part.coolant ∉ r.parts
    ∧ Part.conditions ∉ r.parts ∧ Part.config ∉ r.parts ∧ Part.progress ∉ r.parts) : Derived t := by
  induction d with
  | refl => exact h
  | @entered s t d st _ _ ih =>
    obtain ⟨-, mon, -, -, load, params⟩ := entered_keeps st t
    exact (ih h).of_mon mon params (by rw [State.loaded, State.loaded, load])
  | mark d ih =>
    have q := Quiet.markStatus_self
    exact (ih h).of_mon (by rw [markStatus_eq]; rfl) (q _).params (q _).loaded
  | trigger d ih =>
    have q := Quiet.passTrigger_self
    exact (ih h).of_mon (by rw [passTrigger_eq]; rfl) (q _).params (q _).loaded
  | @step s t d n ih =>
    have q := (Stepped.refl t).stepNotch n
    exact (ih h).of_mon q.mon q.params (by rw [State.loaded, State.loaded, q.load])
  | @hoursWrite s t d ih =>
    have q := (Stepped.refl t).portMark .hoursWrite
    exact (ih h).of_mon q.mon q.params (by rw [State.loaded, State.loaded, q.load])
  | commands d c ih => exact (ih h).commandSet c
  | derate d ih => exact Derived.computeDerate (ih h).1
  | cause d _ b ih => exact (ih h).setCause _ b
  | @join s t u d code mem isCode new k ih ihk =>
    obtain ⟨-, -, -, load, params, mon, -⟩ :=
      handedOn_keeps code (t.classOf code) (reportDiffers t (t.withMember code)) u
    exact (ihk ((ih h).withMember isCode new)).of_mon mon params (by rw [State.loaded, State.loaded, load])
  | leave d m _ there ih => exact (ih h).leaveCondition (there h.1)
  | @other s t u d o _ ih =>
    obtain ⟨derate, coolant, conditions, config, progress⟩ := parts
    have derate := Prod.mk.inj (show (u.mon.derate, u.mon.capacity) = (t.mon.derate, t.mon.capacity) from o .derate derate)
    have value : u.mon.coolant.value = t.mon.coolant.value :=
      congrArg AnalogChannel.value (o .coolant coolant)
    have conditions : u.mon.conditions = t.mon.conditions := o .conditions conditions
    have params : u.params = t.params := congrArg Prod.fst (o .config config)
    have routing : u.mon.routing = t.mon.routing := congrArg (fun p : Part.config.Value => p.2.1) (o .config config)
    have progress : u.load.progress = t.load.progress := o .progress progress
    have loaded : u.loaded = t.loaded := by rw [State.loaded, State.loaded, progress]
    obtain ⟨law, fresh⟩ := ih h
    exact ⟨by rw [conditionLaw_iff, conditions]; exact law, derateFresh_of_same fresh derate.1 derate.2
      (derateFactor_congr params value (by rw [conditions]) fun f => by rw [conditions, routing]) params loaded⟩
  | records d _ _ _ _ _ ih | slot d _ ih | own d _ _ _ ih | store d _ _ ih | phases d _ _ _ ih | input d _ _ ih
  | cleared d _ _ _ ih | dwell d _ ih => exact ih h

/-! ### F and C in their ranges -/

theorem derateLaw_of_same {s t : State} (h : DerateLaw s) (derate : t.mon.derate = s.mon.derate)
    (capacity : t.mon.capacity = s.mon.capacity) (routing : t.mon.routing = s.mon.routing) (params : t.params = s.params)
    (loaded : t.loaded = s.loaded) : DerateLaw t := by
  rw [DerateLaw, derate, capacity, routing, params, loaded]
  exact h

theorem DerateLaw.of_mon (h : DerateLaw s) (mon : t.mon = s.mon) (params : t.params = s.params) (loaded : t.loaded = s.loaded) :
    DerateLaw t := derateLaw_of_same h (by rw [mon]) (by rw [mon]) (by rw [mon]) params loaded

theorem DerateLaw.handDerate (h : DerateLaw s) (code : Nat) (cls : CondClass) : DerateLaw (Machine.handDerate code cls s) := by
  unfold Machine.handDerate
  split
  · exact h.computeDerate
  · exact h

theorem DerateLaw.leaveCondition (h : DerateLaw s) (m : Member) : DerateLaw (Machine.leaveCondition m s) := by
  have left : DerateLaw (s.setConditions (removeCode m.code s.mon.conditions)) := h
  have q := (Quiet.refl (Machine.handDerate m.code m.cls (s.setConditions (removeCode m.code s.mon.conditions)))).handChange m.cls
    (reportDiffers s (s.setConditions (removeCode m.code s.mon.conditions)))
  exact (left.handDerate m.code m.cls).of_mon (handChange_mon ..) q.params q.loaded

theorem DerateLaw.reportGone (h : DerateLaw s) (code : Nat) : DerateLaw (Machine.reportGone code s) := by
  unfold Machine.reportGone
  split
  · exact h
  · split
    · exact h
    · exact h.leaveCondition _

/-- R152 along every chain. -/
theorem DerateLaw.deeds (h : DerateLaw s) (d : Deeds r s t)
    (parts : Part.derate ∉ r.parts ∧ Part.config ∉ r.parts ∧ Part.progress ∉ r.parts) : DerateLaw t := by
  induction d with
  | @entered s t d st _ _ ih =>
    obtain ⟨-, mon, -, -, load, params⟩ := entered_keeps st t
    exact (ih h).of_mon mon params (by rw [State.loaded, State.loaded, load])
  | mark d ih => exact (ih h).of_mon (by rw [markStatus_eq]; rfl) (Quiet.markStatus_self _).params (Quiet.markStatus_self _).loaded
  | trigger d ih => exact (ih h).of_mon (by rw [passTrigger_eq]; rfl) (Quiet.passTrigger_self _).params (Quiet.passTrigger_self _).loaded
  | @step s t d n ih =>
    have q := (Stepped.refl t).stepNotch n
    exact (ih h).of_mon q.mon q.params (by rw [State.loaded, State.loaded, q.load])
  | @hoursWrite s t d ih =>
    have q := (Stepped.refl t).portMark .hoursWrite
    exact (ih h).of_mon q.mon q.params (by rw [State.loaded, State.loaded, q.load])
  | commands d c ih => exact commandSet_keeps (ih h) (fun _ _ h => h) (fun _ _ _ h => h) (fun _ code _ h => h.reportGone code)
  | derate d ih => exact (ih h).computeDerate
  | @join s t u d code mem isCode new k ih ihk =>
    obtain ⟨-, -, -, load, params, mon, -⟩ :=
      handedOn_keeps code (t.classOf code) (reportDiffers t (t.withMember code)) u
    exact (ihk (DerateLaw.handDerate (s := t.withMember code) (ih h) _ _)).of_mon mon params (by rw [State.loaded, State.loaded, load])
  | leave d m _ _ ih => exact (ih h).leaveCondition m
  | @other s t u d o _ ih =>
    obtain ⟨derate, config, progress⟩ := parts
    have derate := Prod.mk.inj (show (u.mon.derate, u.mon.capacity) = (t.mon.derate, t.mon.capacity) from o .derate derate)
    have progress : u.load.progress = t.load.progress := o .progress progress
    exact derateLaw_of_same (ih h) derate.1 derate.2 (congrArg (fun p : Part.config.Value => p.2.1) (o .config config))
      (congrArg Prod.fst (o .config config)) (by rw [State.loaded, State.loaded, progress])
  | refl => exact h
  | records d _ _ _ _ _ ih | slot d _ ih | own d _ _ _ ih | store d _ _ ih | phases d _ _ _ ih | input d _ _ ih
  | cause d _ _ ih | cleared d _ _ _ ih | dwell d _ ih => exact ih h

/-! ### Both laws together -/

theorem FreshLaw.of_mon (h : FreshLaw s) (mon : t.mon = s.mon) (params : t.params = s.params)
    (loaded : t.loaded = s.loaded) : FreshLaw t :=
  have derived : Derived t := Derived.of_mon ⟨h.1, h.2.2⟩ mon params loaded
  ⟨derived.1, h.2.1.of_mon mon params loaded, derived.2⟩

theorem FreshLaw.computeDerate (h : ConditionLaw s) (derate : DerateLaw s) : FreshLaw (Machine.computeDerate s) :=
  ⟨(Derived.computeDerate h).1, derate.computeDerate, (Derived.computeDerate h).2⟩

/-- R151, R152 along every chain. -/
theorem FreshLaw.deeds (h : FreshLaw s) (d : Deeds r s t) (parts : Part.derate ∉ r.parts ∧ Part.coolant ∉ r.parts
    ∧ Part.conditions ∉ r.parts ∧ Part.config ∉ r.parts ∧ Part.progress ∉ r.parts) : FreshLaw t := by
  have derived := Derived.deeds (r := r) ⟨h.1, h.2.2⟩ d parts
  obtain ⟨derate, -, -, config, progress⟩ := parts
  exact ⟨derived.1, h.2.1.deeds d ⟨derate, config, progress⟩, derived.2⟩

end

end Sys2Proof.Machine
end


section
/-! What chains of deeds leave alone: every part but those that an event hands on to, and the condition set but for the codes raised. -/

namespace Sys2Proof.Machine

/-- The parts that a deed may touch in every scope. -/
def deedParts : List Part :=
  [.engine, .statusMarked, .reEvaluate, .stopDelay, .claimSlot, .claimPhase, .holder, .recovery, .settle, .stepper, .port, .derate,
    .conditions, .alarm, .commands, .proof, .record, .runPhase, .inputs]

section
variable {s t : State}

/-- A change of the Stepper written out. -/
theorem Stepped.eq (h : Stepped s t) : ∃ mark x c w h' r n i b f, t = { s with
    link := { s.link with statusMarked := mark }, stepper := x
    port := { s.port with pendConfigRead := c, pendSetpointWrite := w, pendHoursWrite := h', pendStatusRead := r
                          nextConfigRead := n, inFlight := i, buffer := b, refresh := f } } := by
  refine ⟨t.link.statusMarked, t.stepper, t.port.pendConfigRead, t.port.pendSetpointWrite, t.port.pendHoursWrite,
    t.port.pendStatusRead, t.port.nextConfigRead, t.port.inFlight, t.port.buffer, t.port.refresh, ?_⟩
  rw [← h.link, ← h.port, ← h.seq, ← h.cab, ← h.view, ← h.alloc, ← h.claim, ← h.mon, ← h.out, ← h.ret, ← h.load, ← h.params,
    ← h.mailbox, ← h.pending]

theorem Stepped.only (h : Stepped s t) : Only [.statusMarked, .stepper, .port] s t := by
  obtain ⟨mark, x, c, w, h', r, n, i, b, f, rfl⟩ := h.eq
  intro p outside
  cases p <;> simp at outside <;> rfl

theorem deedParts_of_quiet : [Part.statusMarked, .reEvaluate, .derate, .conditions, .alarm] ⊆ deedParts := by
  simp [deedParts]

theorem Quiet.deed (h : Quiet s t) : Only deedParts s t := h.only.mono deedParts_of_quiet

theorem Stepped.deed (h : Stepped s t) : Only deedParts s t := h.only.mono (by simp [deedParts])

theorem entryTold_only (st : EngineState) (s : State) : Only deedParts s (entryTold st s) := by
  unfold entryTold
  dsimp only
  rw [passTrigger_eq, markStatus_eq]
  intro p outside
  split <;> cases p <;> simp [deedParts] at outside <;> rfl

theorem drive_only (c : CommandSet) (s : State) : Only deedParts s (drive c s) := by
  intro p outside
  cases p <;> simp [deedParts] at outside <;> rfl

theorem setProving_only (s : State) (o : ProvedOutput) (p : Proving) (feedback : p.feedback = (s.out.proving o).feedback) :
    Only deedParts s (s.setProving o p) := by
  intro q outside
  cases q <;> simp [deedParts] at outside
  case feedback =>
    cases o
    · exact congrArg (fun f => ((f, s.out.fuelProving.feedback, s.out.prelubeProving.feedback) : Part.feedback.Value)) feedback
    · exact congrArg (fun f => ((s.out.crankProving.feedback, f, s.out.prelubeProving.feedback) : Part.feedback.Value)) feedback
    · exact congrArg (fun f => ((s.out.crankProving.feedback, s.out.fuelProving.feedback, f) : Part.feedback.Value)) feedback
  all_goals cases o <;> rfl

theorem afterCommand_feedback (p : Proving) (b : Bool) : (p.afterCommand b).feedback = p.feedback := by
  unfold Proving.afterCommand
  split <;> rfl

theorem proveCommand_only (o : ProvedOutput) (a b : Bool) (s : State) : Only deedParts s (proveCommand o a b s) := by
  unfold proveCommand
  dsimp only
  have proved : Only deedParts s (s.setProving o ((s.out.proving o).afterCommand b)) :=
    setProving_only s o _ (afterCommand_feedback _ _)
  exact Only.ite (Only.refl s) (Only.ite (proved.trans ((Quiet.refl _).reportGone _).deed) proved)

theorem commandSet_only (c : CommandSet) (s : State) : Only deedParts s (commandSet c s) := by
  rw [commandSet_eq]
  exact (((drive_only c s).trans (proveCommand_only _ _ _ _)).trans (proveCommand_only _ _ _ _)).trans
    (proveCommand_only _ _ _ _)

theorem handSensorFault_only (code : Nat) (s : State) : Only (.needs :: deedParts) s (handSensorFault code s) := by
  simp only [handSensorFault, clearColdRun, clearBatteryNeed, markStatusIf_eq]
  intro p outside
  split
  · cases p <;> simp [deedParts] at outside <;> rfl
  · split <;> cases p <;> simp [deedParts] at outside <;> rfl

/-- A joining that is no sensor fault touches no need flag (R41). -/
theorem handSensorFault_of_other {code : Nat} (coolant : code ≠ codeCoolantSensor) (battery : code ≠ codeBatterySensor)
    (s : State) : handSensorFault code s = s := by
  rw [handSensorFault, if_neg coolant, if_neg battery]

variable {r : Scope}

/-- A scope in which a need flag may be cleared: that of an analog sample (R41). -/
def Scope.clears (r : Scope) : Prop := codeCoolantSensor ∈ r.codes ∨ codeBatterySensor ∈ r.codes

/-- What a chain of deeds leaves alone. -/
theorem Deeds.read (d : Deeds r s t) {p : Part} (local' : p ∉ r.parts) (outside : p ∉ deedParts)
    (needs : p = .needs → ¬ r.clears) : p.read t = p.read s := by
  induction d with
  | refl => rfl
  | @records s t d x state rest minRun _ ih =>
    rw [← ih]
    cases p
    case engine => simp [deedParts] at outside
    case rest => exact rest.resolve_right local'
    case minRun => exact minRun.resolve_right local'
    all_goals rfl
  | @entered s t d st _ _ ih =>
    rw [((Stepped.refl (entryTold st t)).stepperEntry st).deed p outside, entryTold_only st t p outside, ih]
  | mark d ih => rw [(Quiet.markStatus_self _).deed p outside, ih]
  | trigger d ih => rw [(Quiet.passTrigger_self _).deed p outside, ih]
  | step d n ih => rw [((Stepped.refl _).stepNotch n).deed p outside, ih]
  | commands d c ih => rw [commandSet_only c _ p outside, ih]
  | derate d ih => rw [((Quiet.refl _).computeDerate).deed p outside, ih]
  | hoursWrite d ih => rw [((Stepped.refl _).portMark _).deed p outside, ih]
  | @cause s t d code mem b ih => rw [((Quiet.refl t).setConditions _).deed p outside, ih]
  | @join s t u d code mem isCode new k ih ihk =>
    have handed : p.read (handSensorFault code u) = p.read u := by
      by_cases sensor : code = codeCoolantSensor ∨ code = codeBatterySensor
      · refine handSensorFault_only code u p fun h => ?_
        rcases List.mem_cons.1 h with rfl | h
        · exact needs rfl (sensor.imp (fun e : code = codeCoolantSensor => e ▸ mem) (fun e : code = codeBatterySensor => e ▸ mem))
        · exact outside h
      · rw [not_or] at sensor
        rw [handSensorFault_of_other sensor.1 sensor.2]
    rw [((Quiet.refl _).handChange _ _).deed p outside, handed, ihk,
      (((Quiet.refl t).withMember code).handDerate code _).deed p outside, ih]
  | leave d m _ _ ih => rw [((Quiet.refl _).leaveCondition m).deed p outside, ih]
  | other d o _ ih => rw [o p local', ih]
  | cleared d o c b ih =>
    rw [← ih]
    cases p
    case needs => exact absurd o (needs rfl)
    all_goals rfl
  | own d x heat record ih =>
    rw [← ih]
    cases p
    case lease => exact record.1
    case foreignMark => exact record.2
    case heat => exact Prod.mk.injEq .. ▸ heat
    case claimPhase | holder | recovery | settle => simp [deedParts] at outside
    all_goals rfl
  | slot d _ ih | store d _ _ ih | phases d _ _ _ ih | input d _ _ ih | dwell d _ ih =>
    rw [← ih]
    cases p <;> simp [deedParts] at outside <;> rfl

/-! ### The condition set -/

theorem conditionsBut_refl (codes : List Nat) (s : State) : ConditionsBut codes s s := ⟨fun _ h _ => h, fun _ h _ => h⟩

theorem conditionsBut_trans {codes : List Nat} {u : State} (h : ConditionsBut codes s t) (k : ConditionsBut codes t u) :
    ConditionsBut codes s u :=
  ⟨fun m hm o => k.1 m (h.1 m hm o) o, fun m hm o => h.2 m (k.2 m hm o) o⟩

theorem conditionsBut_of_eq {codes : List Nat} (h : t.mon.conditions = s.mon.conditions) : ConditionsBut codes s t := by
  rw [ConditionsBut, h]
  exact conditionsBut_refl codes s

theorem conditionsBut_setCause {codes : List Nat} {code : Nat} (mem : code ∈ codes) (b : Bool) (s : State) :
    ConditionsBut codes s (s.setConditions (setCause code b s.mon.conditions)) := by
  constructor
  · intro m hm outside
    refine List.mem_map.2 ⟨m, hm, if_neg ?_⟩
    rintro rfl
    exact outside mem
  · intro m hm outside
    obtain ⟨x, hx, rfl⟩ := List.mem_map.1 hm
    split at outside
    · next same => exact absurd (same ▸ mem) outside
    · next other => rw [if_neg other]; exact hx

theorem conditionsBut_withMember {codes : List Nat} {code : Nat} (mem : code ∈ codes) (s : State) :
    ConditionsBut codes s (s.withMember code) := by
  constructor
  · exact fun m hm _ => mem_insertMember.2 (.inr hm)
  · intro m hm outside
    obtain rfl | hm := mem_insertMember.1 hm
    · exact absurd mem outside
    · exact hm

theorem handChange_conditions (cls : CondClass) (differs : Bool) (s : State) :
    (handChange cls differs s).mon.conditions = s.mon.conditions := by rw [handChange_mon]

theorem leaveCondition_conditions (m : Member) (s : State) :
    (leaveCondition m s).mon.conditions = removeCode m.code s.mon.conditions := by
  unfold leaveCondition
  rw [handChange_conditions, handDerate_conditions]
  rfl

theorem conditionsBut_leaveCondition {codes : List Nat} {m : Member} (mem : m.code ∈ codes) (s : State) :
    ConditionsBut codes s (leaveCondition m s) := by
  rw [ConditionsBut, leaveCondition_conditions]
  constructor
  · intro x hx outside
    refine List.mem_filter.2 ⟨hx, ?_⟩
    simp only [bne_iff_ne]
    exact fun same => outside (same ▸ mem)
  · exact fun x hx _ => (List.mem_filter.1 hx).1

theorem conditionsBut_reportGone {codes : List Nat} {code : Nat} (mem : code ∈ codes) (s : State) :
    ConditionsBut codes s (reportGone code s) := by
  unfold reportGone
  split
  · exact conditionsBut_refl codes s
  · next m found =>
    split
    · exact conditionsBut_setCause mem false s
    · exact conditionsBut_leaveCondition ((mem_of_findMember found).2 ▸ mem) s

/-- A chain of deeds touches members of its own codes alone. -/
theorem Deeds.conditionsBut (d : Deeds r s t) (parts : Part.conditions ∉ r.parts) : ConditionsBut r.codes s t := by
  induction d with
  | refl s => exact conditionsBut_refl _ s
  | entered d st _ _ ih => exact conditionsBut_trans ih (conditionsBut_of_eq (by rw [(entered_keeps st _).2.1]))
  | mark d ih => exact conditionsBut_trans ih (conditionsBut_of_eq (by rw [markStatus_eq]; rfl))
  | trigger d ih => exact conditionsBut_trans ih (conditionsBut_of_eq (by rw [passTrigger_eq]; rfl))
  | step d n ih => exact conditionsBut_trans ih (conditionsBut_of_eq (by rw [((Stepped.refl _).stepNotch n).mon]))
  | @commands s t d c ih =>
    refine conditionsBut_trans ih (commandSet_keeps (P := ConditionsBut r.codes t) (conditionsBut_refl _ t) (fun _ _ h => h)
      (fun _ _ _ h => h) fun _ _ mem h => conditionsBut_trans h (conditionsBut_reportGone (mem_codes_of_entry mem) _))
  | derate d ih => exact conditionsBut_trans ih (conditionsBut_of_eq (computeDerate_conditions _))
  | hoursWrite d ih => exact conditionsBut_trans ih (conditionsBut_of_eq (by rw [((Stepped.refl _).portMark _).mon]))
  | cause d mem b ih => exact conditionsBut_trans ih (conditionsBut_setCause mem b _)
  | @join s t u d code mem isCode new k ih ihk =>
    have handed : (handSensorFault code u).mon = u.mon := (handSensorFault_keeps code u).2.1
    have joined : ConditionsBut r.codes s (handDerate code (t.classOf code) (t.withMember code)) :=
      conditionsBut_trans (conditionsBut_trans ih (conditionsBut_withMember mem t))
        (conditionsBut_of_eq (handDerate_conditions _ _ _))
    exact conditionsBut_trans (conditionsBut_trans joined ihk)
      (conditionsBut_of_eq (by rw [handChange_conditions, handed]))
  | leave d m mem _ ih => exact conditionsBut_trans ih (conditionsBut_leaveCondition mem _)
  | other d o _ ih => exact conditionsBut_trans ih (conditionsBut_of_eq (o .conditions parts))
  | records d _ _ _ _ _ ih | slot d _ ih | own d _ _ _ ih | store d _ _ ih | phases d _ _ _ ih | input d _ _ ih
  | cleared d _ _ _ ih | dwell d _ ih => exact ih

end

end Sys2Proof.Machine
end


section
/-! The operations of the Consist View, the claim record, the responder and the Link Controller as chains of deeds. -/

namespace Sys2Proof.Machine

/-! ### What they change freely -/

theorem changeDecoder_majority_only (peers : Option Nat) (s : State) :
    Only [.demand, .statusMarked, .reEvaluate] s (changeDecoder (s.cab.takeMajority peers) s) := by
  intro p outside
  unfold changeDecoder CabUnit.takeMajority
  rw [markStatusIf_eq, passTriggerIf_eq]
  cases peers <;> cases p <;> simp at outside <;> rfl

theorem setEntry_only (s : State) (i : Fin 7) (e : PeerEntry) : Only [.peers] s (s.setView (s.view.setEntry i e)) := by
  intro p outside
  cases p <;> simp at outside <;> rfl

theorem heardPeer_only (s : State) (i : Fin 7) : Only [.peers, .everSeen] s (heardPeer i s) := by
  intro p outside
  cases p <;> simp at outside <;> rfl

theorem setAlone_only (s : State) (b : Bool) : Only [.alone] s (s.setView { s.view with alone := b }) := by
  intro p outside
  cases p <;> simp at outside <;> rfl

theorem setFrozen_only (s : State) (b : Bool) (n : Nat) :
    Only [.alone, .sFrozen] s (s.setView { s.view with alone := b, sFrozen := n }) := by
  intro p outside
  cases p <;> simp at outside <;> rfl

theorem setTally_only (s : State) (l : List Nat) : Only [.tally] s (s.setView { s.view with tally := l }) := by
  intro p outside
  cases p <;> simp at outside <;> rfl

/-- The claim record and the own claim, apart from the heat. -/
theorem setClaim_only (s : State) {x : ClaimUnit} (heat : x.heat = s.claim.heat ∧ x.heatTimer = s.claim.heatTimer) :
    Only [.claimPhase, .holder, .recovery, .settle, .lease, .foreignMark] s (s.setClaim x) := by
  intro p outside
  cases p
  case heat => exact Prod.mk.injEq .. ▸ heat
  case claimPhase | holder | recovery | settle | lease | foreignMark => simp at outside
  all_goals rfl

/-- The parts of the claim record and the own claim. -/
abbrev claimParts : List Part := [.claimPhase, .holder, .recovery, .settle, .lease, .foreignMark]

theorem serveMailbox_only (s : State) : Only [.replySlot, .mailbox] s (serveMailbox s) := by
  unfold serveMailbox
  split
  · exact Only.refl s
  refine Only.ite (fun p outside => ?_) (Only.refl s)
  cases p <;> simp at outside <;> rfl

theorem request_only (q : Request) (s : State) : Only [.replySlot, .mailbox] s (request q s) := by
  have taken : Only [.replySlot, .mailbox] s (s.setMailbox (some q)) := by
    intro p outside
    cases p <;> simp at outside <;> rfl
  exact Only.ite (taken.trans (serveMailbox_only _)) (Only.refl s)

theorem requestFrame_only (d : List Byte) (s : State) : Only [.replySlot, .mailbox] s (requestFrame d s) :=
  Only.ite (request_only _ s) (Only.refl s)

theorem claimWithoutTransmitter_only (s : State) : Only [.claimPhase] s (claimWithoutTransmitter s) := by
  intro p outside
  unfold claimWithoutTransmitter
  split <;> cases p <;> simp at outside <;> rfl

theorem disableTransmitter_only (s : State) :
    Only [.txEnabled, .heartbeat, .disablePending, .claimSlot, .statusMarked, .replySlot, .mailbox, .claimPhase] s
      (disableTransmitter s) := by
  unfold disableTransmitter
  dsimp only
  refine Only.trans (fun p outside => ?_) ((claimWithoutTransmitter_only _).mono (by simp))
  split <;> cases p <;> simp at outside <;> rfl

theorem ownClaimFailed_only (s : State) : Only [.claimPhase] s (ownClaimFailed s) := by
  intro p outside
  unfold ownClaimFailed
  split <;> cases p <;> simp at outside <;> rfl

section
variable {r : Scope} {s t : State}

theorem Deeds.only {u : State} {l : List Part} (h : Deeds r s t) (o : Only l t u) (parts : l ⊆ r.parts)
    (engine : Part.engine ∉ l := by simp) : Deeds r s u :=
  h.other (o.mono parts) (congrArg (fun p : Part.engine.Value => p.1) (o .engine engine))

/-! ### The view -/

theorem Deeds.majorityNotice (h : Deeds r s t) (parts : [.demand, .statusMarked, .reEvaluate] ⊆ r.parts) :
    Deeds r s (Machine.majorityNotice t) := by
  unfold Machine.majorityNotice
  exact Deeds.ite (h.only (changeDecoder_majority_only _ t) parts) h

theorem Deeds.recomputeTally (h : Deeds r s t) (parts : [.tally, .demand, .statusMarked, .reEvaluate] ⊆ r.parts) :
    Deeds r s (Machine.recomputeTally t) := by
  rw [List.cons_subset] at parts
  obtain ⟨tally, notice⟩ := parts
  unfold Machine.recomputeTally
  exact Deeds.ite h (Deeds.majorityNotice (h.only (setTally_only t _) (by simpa using tally)) notice)

theorem Deeds.enterAlone (h : Deeds r s t) (parts : [.alone, .sFrozen] ⊆ r.parts) : Deeds r s (Machine.enterAlone t) := by
  unfold Machine.enterAlone
  exact Deeds.ite h (Deeds.mark (Deeds.aloneAppears (h.only (setFrozen_only t _ _) parts)))

theorem Deeds.leaveAlone (h : Deeds r s t) (parts : Part.alone ∈ r.parts) : Deeds r s (Machine.leaveAlone t) := by
  unfold Machine.leaveAlone
  exact Deeds.ite (Deeds.examineOffer (Deeds.mark (h.only (setAlone_only t _) (by simpa using parts)))) h

theorem Deeds.heardPeer (h : Deeds r s t) (i : Fin 7) (parts : [.peers, .everSeen] ⊆ r.parts) :
    Deeds r s (Machine.heardPeer i t) := h.only (heardPeer_only t i) parts

/-- The parts of an age expiry taken (R69, R74, R79, R83). -/
abbrev ageParts : List Part := [.peers, .alone, .sFrozen, .tally, .demand, .statusMarked, .reEvaluate]

theorem Deeds.ageTaken (h : Deeds r s t) (i : Fin 7) (parts : ageParts ⊆ r.parts) : Deeds r s (Machine.ageTaken i t) := by
  simp only [List.cons_subset] at parts
  obtain ⟨peers, alone, frozen, tally, demand, marked, again, -⟩ := parts
  have lost (e : PeerEntry) : Deeds r s (t.setView (t.view.setEntry i e)) :=
    h.only (setEntry_only t i e) (by simpa using peers)
  unfold Machine.ageTaken
  dsimp only
  refine Deeds.trigger (Deeds.recomputeTally (Deeds.ite ((lost _).enterAlone ?_) (lost _)) ?_)
  · simp [alone, frozen]
  · simp [tally, demand, marked, again]

theorem Deeds.takeHeldExpiries (h : Deeds r s t) (parts : ageParts ⊆ r.parts) : Deeds r s (Machine.takeHeldExpiries t) :=
  Deeds.foldl (fun _ i h => Deeds.ite (h.ageTaken i parts) h) _ h

/-! ### The claim record -/

theorem Deeds.setRecord (h : Deeds r s t) {x : ClaimUnit} (heat : x.heat = t.claim.heat ∧ x.heatTimer = t.claim.heatTimer)
    (parts : claimParts ⊆ r.parts) : Deeds r s (t.setClaim x) := h.only (setClaim_only t heat) parts

theorem Deeds.conflictingClaim (h : Deeds r s t) (station lease : Nat) (parts : claimParts ⊆ r.parts) :
    Deeds r s (Machine.conflictingClaim station lease t) := by
  unfold Machine.conflictingClaim
  dsimp only
  refine Deeds.ite ?_ h.mark
  have told : Deeds r s (Machine.markStatus (Machine.offerRelease .abandoned (t.setClaim
      ({ t.claim with settle := .stopped, clock := .stopped, phase := .idle }.held station lease)))) := by
    refine Deeds.mark (Deeds.offerRelease ?_ _)
    exact h.setRecord ⟨rfl, rfl⟩ parts
  split
  · next settling => exact told.opens (fun i => by rw [i] at settling; cases settling) fun e =>
    told.enterClaimWait e (State.mayTry_of_state settling rfl)
  · exact told

theorem Deeds.peerClaims (h : Deeds r s t) (station lease : Nat) (parts : claimParts ⊆ r.parts) :
    Deeds r s (Machine.peerClaims station lease t) := by
  unfold Machine.peerClaims
  split
  · exact Deeds.claimSeesPeer (h.setRecord ⟨rfl, rfl⟩ parts)
  · exact h.conflictingClaim station lease parts
  · exact Deeds.ite (h.setRecord ⟨rfl, rfl⟩ parts) h

theorem Deeds.peerReleases (h : Deeds r s t) (station : Nat) (parts : claimParts ⊆ r.parts) :
    Deeds r s (Machine.peerReleases station t) := by
  unfold Machine.peerReleases
  exact Deeds.ite (Deeds.examineOffer (h.setRecord ⟨rfl, rfl⟩ parts)) h

theorem Deeds.applyClaim (h : Deeds r s t) (station : Nat) (f : ClaimFields) (parts : claimParts ⊆ r.parts) :
    Deeds r s (Machine.applyClaim station f t) := by
  have recorded := h.peerClaims station (claimLease f.crankLimit) parts
  unfold Machine.applyClaim
  exact Deeds.ite (Deeds.examineOffer (recorded.setRecord ⟨rfl, rfl⟩ parts)) recorded

theorem Deeds.applyStatusClaim (h : Deeds r s t) (station : Nat) (held : Bool) (remaining : Nat)
    (parts : claimParts ⊆ r.parts) : Deeds r s (Machine.applyStatusClaim station held remaining t) :=
  Deeds.ite (h.peerClaims station _ parts) (h.peerReleases station parts)

theorem Deeds.ownClaimCompleted (h : Deeds r s t) : Deeds r s (Machine.ownClaimCompleted t) := by
  unfold Machine.ownClaimCompleted
  split
  · dsimp only
    have settling : Deeds r s (Machine.markStatus (t.setClaim { t.claim with
        holder := .self, settle := .running Config.settleMs, clock := .running 0, phase := .settling })) :=
      Deeds.mark (h.own _ ⟨rfl, rfl⟩ ⟨rfl, rfl⟩)
    split
    · next waits => exact settling.opens (fun i => by rw [i] at waits; cases waits) fun e =>
      settling.enterClaimSettle e (State.mayTry_of_state waits rfl)
    · exact settling
  · refine Deeds.offerRelease ?_ _
    exact h.own _ ⟨rfl, rfl⟩ ⟨rfl, rfl⟩
  all_goals exact h

theorem Deeds.ownClaimFailed (h : Deeds r s t) : Deeds r s (Machine.ownClaimFailed t) := by
  unfold Machine.ownClaimFailed
  exact Deeds.ite (h.own _ ⟨rfl, rfl⟩ ⟨rfl, rfl⟩) h

/-! ### The application of a frame -/

/-- The parts of a frame of a peer, applied (R67 to R83, R110 to R118). -/
abbrev peerParts : List Part :=
  [.peers, .everSeen, .alone, .tally, .demand, .statusMarked, .reEvaluate] ++ claimParts

theorem Deeds.claimNews (h : Deeds r s t) (parts : [.tally, .demand, .statusMarked, .reEvaluate] ⊆ r.parts) :
    Deeds r s (Machine.claimNews t) := (h.recomputeTally parts).trigger

theorem Deeds.applyStatus (h : Deeds r s t) (i : Fin 7) (heard : Bool) (x : StatusRecord) (parts : peerParts ⊆ r.parts) :
    Deeds r s (Machine.applyStatus i heard x t) := by
  rw [List.append_subset] at parts
  obtain ⟨parts, claims⟩ := parts
  simp only [List.cons_subset] at parts
  obtain ⟨peers, -, alone, tally, demand, marked, again, -⟩ := parts
  have recorded (e : PeerEntry) : Deeds r s (t.setView (t.view.setEntry i e)) :=
    h.only (setEntry_only t i e) (by simpa using peers)
  unfold Machine.applyStatus
  dsimp only
  refine Deeds.triggerIf (Deeds.recomputeTally (Deeds.applyStatusClaim (Deeds.ite (recorded _) ?_) _ _ _ claims) ?_) _
  · exact (recorded _).leaveAlone alone
  · simp [tally, demand, marked, again]

theorem Deeds.applyPeer (h : Deeds r s t) (i : Fin 7) (f : RawFrame) (parts : peerParts ⊆ r.parts) :
    Deeds r s (Machine.applyPeer i f t) := by
  have all := parts
  rw [List.append_subset] at parts
  obtain ⟨parts, claims⟩ := parts
  simp only [List.cons_subset] at parts
  obtain ⟨peers, seen, -, tally, demand, marked, again, -⟩ := parts
  have common : Deeds r s (Machine.heardPeer i t) := h.heardPeer i (by simp [peers, seen])
  have news : [Part.tally, .demand, .statusMarked, .reEvaluate] ⊆ r.parts := by simp [tally, demand, marked, again]
  unfold Machine.applyPeer
  dsimp only
  split
  · split
    · exact Deeds.claimNews (common.applyClaim _ _ claims) news
    · exact common
  · exact Deeds.claimNews (common.peerReleases _ claims) news
  · split
    · exact common.applyStatus i _ _ all
    · exact common
  · exact Deeds.ite (Deeds.trigger (common.recomputeTally news)) common

/-- The parts of a frame with the own number (R52, R76, R124, R184). -/
abbrev conflictParts : List Part :=
  [.txEnabled, .heartbeat, .disablePending, .claimSlot, .statusMarked, .replySlot, .mailbox, .claimPhase]

theorem Deeds.addressConflict (h : Deeds r s t) (parts : conflictParts ⊆ r.parts) (covers : r.covers codeAddressConflict) :
    Deeds r s (Machine.addressConflict t) :=
  Deeds.reportPresent (h.only (disableTransmitter_only t) parts) covers rfl

/-- The parts of an application (R70). -/
abbrev applicationParts : List Part := conflictParts ++ peerParts

theorem Deeds.applyFrame (h : Deeds r s t) (f : RawFrame) (parts : applicationParts ⊆ r.parts)
    (covers : r.covers codeAddressConflict) : Deeds r s (Machine.applyFrame f t) := by
  rw [List.append_subset] at parts
  obtain ⟨conflict, peer⟩ := parts
  unfold Machine.applyFrame
  refine Deeds.ite (h.only (requestFrame_only _ t) (fun p hp => conflict ?_))
    (Deeds.ite (h.addressConflict conflict covers) ?_)
  · simp only [List.mem_cons, List.not_mem_nil, or_false] at hp ⊢
    tauto
  · split
    · exact h.applyPeer _ f peer
    · exact h

/-! ### The Link Controller -/

theorem Deeds.serveMailbox (h : Deeds r s t) (parts : [.replySlot, .mailbox] ⊆ r.parts) :
    Deeds r s (Machine.serveMailbox t) := h.only (serveMailbox_only t) parts

theorem Deeds.linkFaultEnds (h : Deeds r s t) (parts : Part.alone ∈ r.parts) (mem : codeLinkFault ∈ r.codes) :
    Deeds r s (Machine.linkFaultEnds t) := by
  unfold Machine.linkFaultEnds
  exact Deeds.ite (h.reportGone mem) ((h.reportGone mem).leaveAlone parts)

end

end Sys2Proof.Machine
end


section
/-! Every command as one chain of deeds: what it may raise, and which parts it changes besides what the Engine Sequencer, the Monitor, the
Output Stage, the Stepper and the own claim do. -/

namespace Sys2Proof.Machine

/-- A code of an entry, or one that raises no crank attempt's failure, is covered when it is in the scope. -/
theorem covers_of_mem {r : Scope} {code : Nat} (mem : code ∈ r.codes) (other : code ≠ codeCrankOpen) : r.covers code :=
  ⟨mem, fun e => absurd e other⟩

section
variable {e : Bool} {s : State}

/-! ### Cab lines -/

theorem setLine_only (s : State) (line : CabLine) (q : QualifiedInput) :
    Only [.lines] s (s.setCab (s.cab.setLine line q)) := by
  intro p outside
  cases line <;> cases p <;> simp at outside <;> rfl

theorem runQualified_only (s : State) :
    Only [.mode, .layoverCheck, .needs, .stopDelay, .statusMarked, .reEvaluate] s (runQualified s) := by
  unfold runQualified CabUnit.enterMode
  dsimp only
  refine Only.ite (Only.refl s) ?_
  rw [markStatus_eq, passTrigger_eq]
  intro p outside
  by_cases run : s.cab.run.qualified <;> simp only [run] <;> cases p <;> simp at outside <;> rfl

theorem Deeds.estopQualified {r : Scope} {t : State} (h : Deeds r s t) : Deeds r s (Machine.estopQualified t) :=
  Deeds.mark (Deeds.trigger (Deeds.ite h.hardAppears h))

theorem Deeds.isolateQualified {r : Scope} {t : State} (h : Deeds r s t) : Deeds r s (Machine.isolateQualified t) :=
  Deeds.ite h.isolateAppears h.isolateEnds

/-- The members that a fault reset removes one after the other: those still to be removed are there (R157, R160). -/
theorem Deeds.leaveEach {r : Scope} (l : List Member) {t : State} (h : Deeds r s t) (codes : ∀ m ∈ l, m.code ∈ r.codes)
    (there : ConditionLaw s → l.Pairwise (fun a b => a.code ≠ b.code) ∧ ∀ m ∈ l, m ∈ t.mon.conditions) :
    Deeds r s (l.foldl (fun t m => Machine.leaveCondition m t) t) := by
  induction l generalizing t with
  | nil => exact h
  | cons m l ih =>
    refine ih (h.leave m (codes m List.mem_cons_self) fun law => (there law).2 m List.mem_cons_self)
      (fun x hx => codes x (List.mem_cons_of_mem m hx)) fun law => ?_
    obtain ⟨distinct, mem⟩ := there law
    rw [List.pairwise_cons] at distinct
    refine ⟨distinct.2, fun x hx => ?_⟩
    rw [leaveCondition_conditions]
    exact List.mem_filter.2 ⟨mem x (List.mem_cons_of_mem m hx), by simpa using (distinct.1 x hx).symm⟩

theorem Deeds.faultResetQualified {r : Scope} {t : State} (h : Deeds r s t) (same : t.mon.conditions = s.mon.conditions)
    (codes : ∀ m ∈ s.mon.conditions, m.code ∈ r.codes) : Deeds r s (Machine.faultResetQualified t) := by
  unfold Machine.faultResetQualified
  refine Deeds.sequencerFaultReset (h.leaveEach _ (fun m hm => ?_) fun law => ⟨?_, fun m hm => ?_⟩)
  · rw [same] at hm
    exact codes m (List.mem_filter.1 hm).1
  · rw [same]
    have rising : s.mon.conditions.Pairwise (fun a b => a.code < b.code) := List.pairwise_map.1 law.1
    exact (rising.filter _).imp fun h => h.ne
  · exact (List.mem_filter.1 hm).1

theorem deeds_runQualification (o : e = true ∨ s.seq.state = .init) :
    Deeds ⟨[], e, [.lines, .mode, .layoverCheck, .needs, .stopDelay, .statusMarked, .reEvaluate]⟩ s
      (s.after (.cabLineQualification .run)) := by
  have start := Deeds.refl (r := ⟨[], e, [.lines, .mode, .layoverCheck, .needs, .stopDelay, .statusMarked, .reEvaluate]⟩) s o
  have settled := start.only (setLine_only s .run (s.cab.line .run).settled) (by simp)
  simp only [State.after, exec, execCabLineQualification, lineQualified]
  exact Deeds.ite (Deeds.ite (settled.only (runQualified_only _) (by simp)) settled) start

theorem deeds_estopQualification (o : e = true ∨ s.seq.state = .init) :
    Deeds ⟨[], e, [.lines]⟩ s (s.after (.cabLineQualification .estop)) := by
  have start := Deeds.refl (r := ⟨[], e, [.lines]⟩) s o
  have settled := start.only (setLine_only s .estop (s.cab.line .estop).settled) (by simp)
  simp only [State.after, exec, execCabLineQualification, lineQualified]
  exact Deeds.ite (Deeds.ite (Deeds.ite settled settled.estopQualified) settled) start

theorem deeds_isolateQualification (o : e = true ∨ s.seq.state = .init) :
    Deeds ⟨[], e, [.lines]⟩ s (s.after (.cabLineQualification .isolate)) := by
  have start := Deeds.refl (r := ⟨[], e, [.lines]⟩) s o
  have settled := start.only (setLine_only s .isolate (s.cab.line .isolate).settled) (by simp)
  simp only [State.after, exec, execCabLineQualification, lineQualified]
  exact Deeds.ite (Deeds.ite (Deeds.ite settled settled.isolateQualified) settled) start

theorem deeds_faultResetQualification (o : e = true ∨ s.seq.state = .init) :
    Deeds ⟨s.mon.conditions.map (·.code), e, [.lines]⟩ s (s.after (.cabLineQualification .faultReset)) := by
  have start := Deeds.refl (r := ⟨s.mon.conditions.map (·.code), e, [.lines]⟩) s o
  have settled := start.only (setLine_only s .faultReset (s.cab.line .faultReset).settled) (by simp)
  simp only [State.after, exec, execCabLineQualification, lineQualified]
  refine Deeds.ite (Deeds.ite (Deeds.ite (settled.faultResetQualified rfl fun m hm => ?_) settled) settled) start
  exact List.mem_append_left _ (List.mem_map_of_mem hm)

/-! ### Commands that reach neither Sequencer nor Monitor -/

theorem changeDecoder_only {l : List Part} {c : CabUnit} {s : State} (cab : Only l s (s.setCab c))
    (marks : [.statusMarked, .reEvaluate] ⊆ l) : Only l s (changeDecoder c s) := by
  have rest : Only [.statusMarked, .reEvaluate] (s.setCab c) (changeDecoder c s) := by
    intro p outside
    unfold changeDecoder
    rw [markStatusIf_eq, passTriggerIf_eq]
    cases p <;> simp at outside <;> rfl
  exact cab.trans (rest.mono marks)

theorem setCab_qualifyCode_only (s : State) (t : Timer) (code : Nat) :
    Only [.codeStability, .qualifiedCode, .decoder, .demand] s
      (s.setCab (CabUnit.qualifyCode { s.cab with codeStability := t } code)) := by
  intro p outside
  unfold CabUnit.qualifyCode
  dsimp only
  repeat' split
  all_goals cases p <;> simp at outside <;> rfl

theorem only_throttleCodeQualification (s : State) :
    Only [.codeStability, .qualifiedCode, .decoder, .demand, .statusMarked, .reEvaluate] s
      (s.after .throttleCodeQualification) := by
  have settled : Only [.codeStability] s (s.setCab { s.cab with codeStability := .expired }) := by
    intro p outside
    cases p <;> simp at outside <;> rfl
  simp only [State.after, exec, execThrottleCodeQualification]
  exact Only.ite (Only.ite (settled.mono (by simp))
    (changeDecoder_only ((setCab_qualifyCode_only s _ _).mono (by simp)) (by simp))) (Only.refl s)

theorem only_invalidCodeTimerExpiry (s : State) :
    Only [.decoder, .demand, .statusMarked, .reEvaluate] s (s.after .invalidCodeTimerExpiry) := by
  have expired (d : DecoderState) : Only [.decoder] s (s.setCab { s.cab with invalidCode := .expired, decoder := d }) := by
    intro p outside
    cases p <;> simp at outside <;> rfl
  have taken : Only [.decoder, .demand] s (s.setCab (CabUnit.takeMajority
      { s.cab with invalidCode := .expired, decoder := .invalidPeers } (majority s.view.tally))) := by
    intro p outside
    unfold CabUnit.takeMajority
    split <;> cases p <;> simp at outside <;> rfl
  simp only [State.after, exec, execInvalidCodeTimerExpiry]
  exact Only.ite (Only.ite (changeDecoder_only (taken.mono (by simp)) (by simp)) ((expired _).mono (by simp))) (Only.refl s)

theorem only_layoverCheckExpiry (s : State) :
    Only [.layoverCheck, .needs, .statusMarked] s (s.after .layoverCheckExpiry) := by
  simp only [State.after, exec, execLayoverCheckExpiry]
  refine Only.ite (fun p outside => ?_) (Only.refl s)
  rw [markStatusIf_eq]
  cases p <;> simp at outside <;> rfl

theorem only_frameStart (s : State) : Only [.line, .sending, .claimSlot, .statusMarked] s (s.after .frameStart) := by
  simp only [State.after, exec, execFrameStart]
  refine Only.ite ?_ (Only.refl s)
  split
  · next kind _ =>
    intro p outside
    cases kind <;> cases p <;> simp at outside <;> rfl
  · exact Only.refl s

/-- The parts of a failed transmission (R52, R54, R55, R119). -/
abbrev failureParts : List Part := [.sending, .claimSlot, .statusMarked, .disablePending, .replySlot, .claimPhase]

theorem atOutcome_only (s : State) (l : LinkUnit) {k : List Part} (h : Only k s (s.setLink l)) :
    Only ([.claimSlot, .statusMarked, .replySlot, .disablePending] ++ k) s (s.setLink l.atOutcome) := by
  have emptied : Only [.claimSlot, .statusMarked, .replySlot, .disablePending] (s.setLink l) (s.setLink l.emptied) := by
    intro p outside
    cases p <;> simp at outside <;> rfl
  unfold LinkUnit.atOutcome
  split
  · exact (h.mono (List.subset_append_right _ _)).trans (emptied.mono (List.subset_append_left _ _))
  · exact h.mono (List.subset_append_right _ _)

theorem endFailed_only (kind : TxKind) (s : State) : Only failureParts s (endFailed kind s) := by
  have failed : Only [.sending, .claimSlot, .statusMarked] s
      (s.setLink ({ s.link with sending := none }.slotsAtFailure kind)) := by
    intro p outside
    cases kind <;> cases p <;> simp at outside <;> rfl
  have ended := (atOutcome_only s _ failed).mono (k := failureParts) (by simp)
  unfold endFailed
  dsimp only
  split
  · exact ended.trans ((ownClaimFailed_only _).mono (by simp))
  all_goals exact ended

theorem only_arbitrationLoss (s : State) : Only failureParts s (s.after .arbitrationLoss) := by
  simp only [State.after, exec, execArbitrationLoss]
  split
  · exact endFailed_only _ s
  · exact Only.refl s

theorem only_holdOffExpiry (s : State) : Only [.holdOff] s (s.after .holdOffExpiry) := by
  simp only [State.after, exec, execHoldOffExpiry]
  refine Only.ite (fun p outside => ?_) (Only.refl s)
  cases p <;> simp at outside <;> rfl

theorem foreignClaim_only (s : State) : Only [.claimSlot, .claimPhase, .foreignMark] s (foreignClaim s) := by
  unfold foreignClaim
  split
  · refine Only.ite (fun p outside => ?_) (fun p outside => ?_) <;> cases p <;> simp at outside <;> rfl
  · exact Only.refl s

theorem only_frameArrival (f : RawFrame) (s : State) :
    Only [.line, .filling, .buffers, .postList, .freeList, .headTaken, .claimSlot, .claimPhase, .foreignMark] s
      (s.after (.frameArrival f)) := by
  simp only [State.after, exec, execFrameArrival]
  split
  · next b _ =>
    have received : Only [.line, .filling, .buffers] s (s.setLink { s.link.settle (trailingReleased f.endField) with
        filling := none, buffers := s.link.buffers.set b f }) := by
      intro p outside
      cases p <;> simp at outside <;> rfl
    have posted (t : State) : Only [.postList, .headTaken] t
        (takeUpFrame (t.setLink { t.link with postList := t.link.postList ++ [b] })) := by
      intro p outside
      cases p <;> simp at outside <;> rfl
    refine Only.ite (Only.trans (Only.ite ?_ (received.mono (by simp))) ((posted _).mono (by simp))) ?_
    · exact (received.mono (by simp)).trans ((foreignClaim_only _).mono (by simp))
    · intro p outside
      cases p <;> simp at outside <;> rfl
  · refine Only.ite (fun p outside => ?_) (Only.refl s)
    cases p <;> simp at outside <;> rfl

theorem only_heartbeatExpiry (s : State) :
    Only [.heartbeat, .firstHeartbeat, .statusMarked] s (s.after .heartbeatExpiry) := by
  simp only [State.after, exec, execHeartbeatExpiry]
  refine Only.ite (fun p outside => ?_) (Only.refl s)
  rw [markStatus_eq]
  cases p <;> simp at outside <;> rfl

theorem only_spacingTimerExpiry (s : State) : Only [.spacing] s (s.after .spacingTimerExpiry) := by
  simp only [State.after, exec, execSpacingTimerExpiry]
  refine Only.ite (fun p outside => ?_) (Only.refl s)
  cases p <;> simp at outside <;> rfl

theorem only_applicationEnd (s : State) :
    Only [.applying, .freeList, .draining, .headTaken] s (s.after .applicationEnd) := by
  simp only [State.after, exec, execApplicationEnd]
  split
  · intro p outside
    cases p <;> simp at outside <;> rfl
  · exact Only.refl s

theorem only_listenTimerExpiry (s : State) : Only [.listen, .phase, .reEvaluate] s (s.after .listenTimerExpiry) := by
  simp only [State.after, exec, execListenTimerExpiry]
  refine Only.ite (fun p outside => ?_) (Only.refl s)
  cases p <;> simp at outside <;> rfl

theorem only_evaluationTimerExpiry (s : State) : Only [.evaluation, .reEvaluate] s (s.after .evaluationTimerExpiry) := by
  simp only [State.after, exec, execEvaluationTimerExpiry]
  refine Only.ite (fun p outside => ?_) (Only.refl s)
  rw [passTrigger_eq]
  cases p <;> simp at outside <;> rfl

theorem only_passStart (s : State) : Only [.phase, .reEvaluate, .evaluation, .snapshot, .peers] s (s.after .passStart) := by
  simp only [State.after, exec, execPassStart]
  refine Only.ite (fun p outside => ?_) (Only.refl s)
  have built : s.viewAtPassStart = { s.view with peers := s.viewAtPassStart.peers } := by
    unfold State.viewAtPassStart
    dsimp only
    split <;> rfl
  rw [built]
  cases p <;> simp at outside <;> rfl

theorem examineOffer_only (s : State) : Only [.claimPhase, .claimSlot] s (examineOffer s) := by
  unfold examineOffer
  refine Only.ite ?_ (Only.refl s)
  split
  · intro p outside
    cases p <;> simp at outside <;> rfl
  · exact Only.refl s

theorem only_restTimerExpiry (s : State) : Only [.rest, .claimPhase, .claimSlot] s (s.after .restTimerExpiry) := by
  simp only [State.after, exec, execRestTimerExpiry]
  refine Only.ite (Only.trans (fun p outside => ?_) ((examineOffer_only _).mono (by simp))) (Only.refl s)
  cases p <;> simp at outside <;> rfl

theorem only_leaseExpiry (s : State) :
    Only [.lease, .holder, .recovery, .claimPhase, .claimSlot] s (s.after .leaseExpiry) := by
  simp only [State.after, exec, execLeaseExpiry]
  refine Only.ite (Only.trans (fun p outside => ?_) ((examineOffer_only _).mono (by simp))) (Only.refl s)
  cases p <;> simp at outside <;> rfl

theorem only_recoveryTimerExpiry (s : State) : Only [.recovery, .claimPhase, .claimSlot] s (s.after .recoveryTimerExpiry) := by
  simp only [State.after, exec, execRecoveryTimerExpiry]
  refine Only.ite (Only.trans (fun p outside => ?_) ((examineOffer_only _).mono (by simp))) (Only.refl s)
  cases p <;> simp at outside <;> rfl

theorem portGrant_only (s : State) : Only [.port] s (portGrant s) := by
  unfold portGrant
  dsimp only
  refine Only.ite (Only.refl s) (Only.ite (fun p outside => ?_) (Only.ite (fun p outside => ?_)
    (Only.ite (fun p outside => ?_) (Only.ite (fun p outside => ?_) (Only.refl s)))))
  all_goals cases p <;> simp at outside <;> rfl

theorem portMark_only (k : PortKind) (s : State) : Only [.port] s (portMark k s) := by
  refine Only.trans (fun p outside => ?_) (portGrant_only _)
  cases k <;> cases p <;> simp at outside <;> rfl

theorem portRelease_only (s : State) : Only [.port] s (portRelease s) := by
  refine Only.trans (fun p outside => ?_) (portGrant_only _)
  cases p <;> simp at outside <;> rfl

theorem only_configReadCompletion (bytes : List Byte) (s : State) :
    Only [.port, .image, .progress] s (s.after (.configReadCompletion bytes)) := by
  simp only [State.after, exec, execConfigReadCompletion]
  split
  · refine Only.trans (fun p outside => ?_) ((portRelease_only _).mono (by simp))
    cases p <;> simp at outside <;> rfl
  · exact Only.refl s

theorem only_setpointWriteCompletion (s : State) : Only [.port] s (s.after .setpointWriteCompletion) := by
  simp only [State.after, exec, execSetpointWriteCompletion]
  refine Only.ite (Only.trans (Only.ite (fun p outside => ?_) (Only.refl s)) (portRelease_only _)) (Only.refl s)
  cases p <;> simp at outside <;> rfl

theorem only_hoursWriteCompletion (s : State) : Only [.port] s (s.after .hoursWriteCompletion) :=
  Only.ite (portRelease_only s) (Only.refl s)

theorem only_setpointRefreshExpiry (s : State) : Only [.port] s (s.after .setpointRefreshExpiry) := by
  simp only [State.after, exec, execSetpointRefreshExpiry]
  refine Only.ite (Only.trans (fun p outside => ?_) (portMark_only _ _)) (Only.refl s)
  cases p <;> simp at outside <;> rfl

theorem only_governorStatusTimerExpiry (s : State) :
    Only [.port, .statusTimer] s (s.after .governorStatusTimerExpiry) := by
  simp only [State.after, exec, execGovernorStatusTimerExpiry]
  refine Only.ite (Only.trans (fun p outside => ?_) ((portMark_only _ _).mono (by simp))) (Only.refl s)
  cases p <;> simp at outside <;> rfl

theorem only_cabLineSample (levels : CabLevels) (s : State) :
    Only [.lines, .sampledCode, .codeStability] s (s.after (.cabLineSample levels)) := by
  simp only [State.after, exec, execCabLineSample, CabUnit.sampleCode]
  intro p outside
  split <;> cases p <;> simp at outside <;> rfl

theorem only_feedbackSample (crank fuel prelube : Bool) (s : State) :
    Only [.feedback] s (s.after (.feedbackSample crank fuel prelube)) := by
  intro p outside
  cases p <;> simp at outside <;> rfl

theorem only_lineIdle (released : Nat) (s : State) : Only [.line] s (s.after (.lineIdle released)) := by
  simp only [State.after, exec, execLineIdle, LinkUnit.readReleased]
  intro p outside
  repeat' split
  all_goals cases p <;> simp at outside <;> rfl

theorem only_startBitRead (s : State) : Only [.line] s (s.after .startBitRead) := by
  simp only [State.after, exec, execStartBitRead, LinkUnit.readDriven]
  intro p outside
  split <;> cases p <;> simp at outside <;> rfl

theorem takeBuffer_only (s : State) : Only [.filling, .freeList] s (s.setLink s.link.takeBuffer) := by
  unfold LinkUnit.takeBuffer
  intro p outside
  repeat' split
  all_goals cases p <;> simp at outside <;> rfl

theorem only_endOfPriorityField (s : State) : Only [.filling, .freeList] s (s.after .endOfPriorityField) :=
  Only.ite (takeBuffer_only s) (Only.refl s)

end

end Sys2Proof.Machine
end


section
/-! Every command that reaches the Engine Sequencer or the Monitor as one chain of deeds: what it may raise, and which parts it changes
besides. -/

namespace Sys2Proof.Machine

/-! ### The link's events -/

theorem completed_only (s : State) (kind : TxKind) :
    Only [.sending, .claimSlot, .statusMarked, .disablePending, .replySlot, .bitErrors, .holdOff, .line] s
      (s.setLink (s.link.completed kind)) := by
  have freed : Only [.sending, .claimSlot, .replySlot, .bitErrors, .holdOff, .line] s (s.setLink
      (({ s.link with
        sending := none, bitErrors := 0, linkFault := false, granted := false
        holdOff := if s.link.linkFault then .stopped else s.link.holdOff }.slotsAtCompletion kind).settle 7)) := by
    intro p outside
    cases kind <;> cases p <;> simp at outside <;> rfl
  exact (atOutcome_only s _ freed).mono (by simp)

theorem statusCompleted_only (s : State) : Only [.spacing, .heartbeat] s (statusCompleted s) := by
  intro p outside
  cases p <;> simp at outside <;> rfl

theorem errorCounted_only (s : State) (place : BitErrorPlace) :
    Only [.line, .bitErrors, .holdOff, .filling, .freeList] s
      (s.setLink (s.link.afterBitError place).countError) := by
  have settled (t : State) (n : Nat) : Only [.line] t (t.setLink (t.link.settle n)) := by
    intro p outside
    cases p <;> simp at outside <;> rfl
  have placed : Only [.line, .filling, .freeList] s (s.setLink (s.link.afterBitError place)) := by
    cases place
    · exact (settled s 0).mono (by simp)
    · exact Only.refl s
    · exact (takeBuffer_only s).mono (by simp)
    · exact ((takeBuffer_only s).mono (by simp)).trans ((settled (s.setLink s.link.takeBuffer) 0).mono (by simp))
  have counted (t : State) : Only [.bitErrors, .holdOff] t (t.setLink t.link.countError) := by
    unfold LinkUnit.countError
    intro p outside
    dsimp only
    repeat' split
    all_goals cases p <;> simp at outside <;> rfl
  exact (placed.mono (by simp)).trans ((counted (s.setLink (s.link.afterBitError place))).mono (by simp))

section
variable {e : Bool} {s : State}

/-- The parts of a bit error. -/
abbrev bitErrorParts : List Part :=
  failureParts ++ [.line, .bitErrors, .holdOff, .filling, .freeList, .alone, .sFrozen]

theorem deeds_bitError (o : e = true ∨ s.seq.state = .init) (place : BitErrorPlace) :
    Deeds ⟨[codeLinkFault], e, bitErrorParts⟩ s (s.after (.bitError place)) := by
  have start := Deeds.refl (r := ⟨[codeLinkFault], e, bitErrorParts⟩) s o
  simp only [State.after, exec, execBitError]
  split
  · next t _ =>
    have ended := start.only (endFailed_only t.kind s) (by simp)
    have counted := ended.only (errorCounted_only _ place) (by simp)
    refine Deeds.ite (Deeds.enterAlone (counted.reportPresent (covers_of_mem ?_ (by decide)) rfl) (by simp)) counted
    simp [Scope.codes]
  · exact start

/-- The parts of a completion. -/
abbrev completionParts : List Part :=
  [.sending, .claimSlot, .statusMarked, .disablePending, .replySlot, .bitErrors, .holdOff, .line, .heartbeat, .spacing, .mailbox,
    .alone]

theorem deeds_transmissionCompletion (o : e = true ∨ s.seq.state = .init) :
    Deeds ⟨[codeLinkFault], e, completionParts⟩ s (s.after .transmissionCompletion) := by
  have start := Deeds.refl (r := ⟨[codeLinkFault], e, completionParts⟩) s o
  simp only [State.after, exec, execTransmissionCompletion]
  split
  · next t _ =>
    have completed := start.only (completed_only s t.kind) (by simp)
    have ended := Deeds.ite (c := s.link.linkFault = true)
      (completed.linkFaultEnds (by simp) (by simp [Scope.codes])) completed
    generalize (if s.link.linkFault = true then _ else _) = u at ended
    unfold handCompletion
    split
    · exact Deeds.ite ended.ownClaimCompleted ended
    · exact Deeds.ite ended.examineOffer ended
    · exact ended.only (statusCompleted_only u) (by simp)
    · exact ended.serveMailbox (by simp)
  · exact start

/-- The parts of a frame taken from the post list and applied. -/
abbrev frameParts : List Part := [.postList, .applying, .drainLeft, .headTaken] ++ applicationParts

theorem deeds_frameApplication (o : e = true ∨ s.seq.state = .init) :
    Deeds ⟨[codeAddressConflict], e, frameParts⟩ s (s.after .frameApplication) := by
  have start := Deeds.refl (r := ⟨[codeAddressConflict], e, frameParts⟩) s o
  simp only [State.after, exec, execFrameApplication]
  refine Deeds.ite ?_ start
  split
  · next b rest _ =>
    have taken : Only [.postList, .applying, .drainLeft, .headTaken] s (s.setLink (s.link.takePost b rest)) := by
      intro p outside
      cases p <;> simp at outside <;> rfl
    refine (start.only taken (by simp)).applyFrame _ (List.subset_append_right _ _) (covers_of_mem ?_ (by decide))
    simp [Scope.codes]
  · exact start

/-! ### View and Allocator -/

theorem deeds_ageExpiry (o : e = true ∨ s.seq.state = .init) (station : Nat) :
    Deeds ⟨[], e, ageParts⟩ s (s.after (.ageExpiry station)) := by
  have start := Deeds.refl (r := ⟨[], e, ageParts⟩) s o
  simp only [State.after, exec, execAgeExpiry]
  split
  · exact start
  · next i _ =>
    have expired := start.only (setEntry_only s i { s.view.entry i with age := .expired }) (by simp)
    exact Deeds.ite (Deeds.ite (expired.only (setEntry_only _ i _) (by simp)) (expired.ageTaken i (List.Subset.refl _))) start

theorem publish_only (x : PassResults) (s : State) : Only [.results, .stopDelay, .statusMarked] s (publish x s) := by
  unfold publish
  rw [markStatusIf_eq]
  intro p outside
  cases p <;> simp at outside <;> rfl

/-- The parts of a pass end (R91). -/
abbrev passEndParts : List Part := [.results, .stopDelay, .phase, .draining, .drainLeft] ++ ageParts

theorem deeds_passEnd (o : e = true ∨ s.seq.state = .init) : Deeds ⟨[], e, passEndParts⟩ s (s.after .passEnd) := by
  have start := Deeds.refl (r := ⟨[], e, passEndParts⟩) s o
  have ready (t : State) : Only [.phase] t (enterReady t) := by
    intro p outside
    cases p <;> simp at outside <;> rfl
  have drain (t : State) : Only [.draining, .drainLeft] t (beginDrain t) := by
    intro p outside
    cases p <;> simp at outside <;> rfl
  have told := start.only (publish_only s.passResults s) (by simp)
  have examined := told.sequencerPassEnd.stepperExamine
  simp only [State.after, exec, execPassEnd]
  have taken := (examined.only (ready _) (by simp)).takeHeldExpiries (List.subset_append_right _ _)
  have drained := taken.only (drain _) (by simp)
  exact Deeds.ite drained start

theorem deeds_stopDelayExpiry (o : e = true ∨ s.seq.state = .init) :
    Deeds ⟨[], e, [.stopDelay]⟩ s (s.after .stopDelayExpiry) := by
  have start := Deeds.refl (r := ⟨[], e, [.stopDelay]⟩) s o
  have expired : Only [.stopDelay] s (s.setAlloc { s.alloc with stopDelay := .expired }) := by
    intro p outside
    cases p <;> simp at outside <;> rfl
  simp only [State.after, exec, execStopDelayExpiry]
  exact Deeds.ite (Deeds.examineAllocationStop (start.only expired (by simp))) start

/-! ### The Sequencer's limits and timers -/

theorem Deeds.stateTimerReaches {r : Scope} {t : State} (h : Deeds r s t) (limit : Nat) :
    Deeds r s (Machine.stateTimerReaches limit t) := h.setSeq rfl rfl rfl

/-- An event of one state other than INIT may make entries. -/
theorem entries_of_state {st : EngineState} (o : e = true ∨ s.seq.state = .init) (h : s.seq.state = st) (other : st ≠ .init) :
    e = true := o.resolve_right fun i => other (h.symm.trans i)

theorem deeds_prelubeTimeExpiry (o : e = true ∨ s.seq.state = .init) :
    Deeds ⟨[codePrelubeFail], e, []⟩ s (s.after .prelubeTimeExpiry) := by
  have start := Deeds.refl (r := ⟨[codePrelubeFail], e, []⟩) s o
  simp only [State.after, exec, execPrelubeTimeExpiry]
  split
  · next prelube =>
    have start' : s.seq.state.starts = true := prelube ▸ rfl
    have e := entries_of_state o prelube (by decide)
    have reached := start.stateTimerReaches s.params.prelubeLimit
    exact Deeds.ite (reached.raiseMomentary (by simp [Scope.codes]) rfl fun k => Deeds.enterFaulted e k.takeSnapshot)
      (reached.enterClaimWait e (.inl start'))
  · exact start

theorem deeds_crankTimeExpiry (o : e = true ∨ s.seq.state = .init) :
    Deeds ⟨[codeFailToStart], e, [.rest]⟩ s (s.after .crankTimeExpiry) := by
  have start := Deeds.refl (r := ⟨[codeFailToStart], e, [.rest]⟩) s o
  simp only [State.after, exec, execCrankTimeExpiry]
  split
  · next cranking =>
    exact (start.stateTimerReaches _).failedAttempt (entries_of_state o cranking (by decide)) (by simp)
      (by simp [Scope.codes])
  · exact start

theorem deeds_fireConfirmExpiry (o : e = true ∨ s.seq.state = .init) :
    Deeds ⟨[], e, [.minRun]⟩ s (s.after .fireConfirmExpiry) := by
  have start := Deeds.refl (r := ⟨[], e, [.minRun]⟩) s o
  simp only [State.after, exec, execFireConfirmExpiry]
  split
  · next cranking =>
    simp only [Bool.and_eq_true, decide_eq_true_eq] at cranking
    refine Deeds.fire ?_ (entries_of_state o cranking.1 (by decide)) (by simp)
    exact start.setSeq rfl rfl rfl
  · exact start

theorem deeds_runupTimeExpiry (o : e = true ∨ s.seq.state = .init) :
    Deeds ⟨[codeRunupFail], e, []⟩ s (s.after .runupTimeExpiry) := by
  have start := Deeds.refl (r := ⟨[codeRunupFail], e, []⟩) s o
  simp only [State.after, exec, execRunupTimeExpiry]
  split
  · next runup =>
    have e := entries_of_state o runup (by decide)
    exact (start.stateTimerReaches _).raiseMomentary (by simp [Scope.codes]) rfl fun k => k.enterStopping e
  · exact start

theorem deeds_warmMinExpiry (o : e = true ∨ s.seq.state = .init) : Deeds ⟨[], e, []⟩ s (s.after .warmMinExpiry) :=
  have start := Deeds.refl (r := ⟨[], e, []⟩) s o
  Deeds.ite (start.stateTimerReaches _).examineWarm start

theorem deeds_warmMaxExpiry (o : e = true ∨ s.seq.state = .init) : Deeds ⟨[], e, []⟩ s (s.after .warmMaxExpiry) :=
  have start := Deeds.refl (r := ⟨[], e, []⟩) s o
  Deeds.ite (start.stateTimerReaches _).examineWarm start

theorem deeds_cooldownExpiry (o : e = true ∨ s.seq.state = .init) : Deeds ⟨[], e, []⟩ s (s.after .cooldownExpiry) := by
  have start := Deeds.refl (r := ⟨[], e, []⟩) s o
  simp only [State.after, exec, execCooldownExpiry]
  split
  · next cooldown => exact (start.stateTimerReaches _).enterStopping (entries_of_state o cooldown (by decide))
  · exact start

theorem deeds_stopLimitExpiry (o : e = true ∨ s.seq.state = .init) :
    Deeds ⟨[codeFailToStop], e, []⟩ s (s.after .stopLimitExpiry) := by
  have start := Deeds.refl (r := ⟨[codeFailToStop], e, []⟩) s o
  simp only [State.after, exec, execStopLimitExpiry]
  split
  · next stopping =>
    have e := entries_of_state o stopping (by decide)
    exact (start.stateTimerReaches _).raiseBySequencer (by simp [Scope.codes]) rfl fun k => k.enterFaulted e
  · exact start

theorem deeds_minRunExpiry (o : e = true ∨ s.seq.state = .init) : Deeds ⟨[], e, [.minRun]⟩ s (s.after .minRunExpiry) := by
  have start := Deeds.refl (r := ⟨[], e, [.minRun]⟩) s o
  simp only [State.after, exec, execMinRunExpiry]
  exact Deeds.ite (Deeds.examineAllocationStop (start.records _ rfl (.inl rfl) (.inr (by simp)) (.inl rfl))) start

theorem deeds_settleExpiry (o : e = true ∨ s.seq.state = .init) : Deeds ⟨[], e, []⟩ s (s.after .settleExpiry) := by
  have start := Deeds.refl (r := ⟨[], e, []⟩) s o
  have cranking : Deeds ⟨[], e, []⟩ s (s.setClaim { s.claim with settle := .expired, phase := .cranking }) :=
    start.own _ ⟨rfl, rfl⟩ ⟨rfl, rfl⟩
  simp only [State.after, exec, execSettleExpiry]
  refine Deeds.ite ?_ start
  split
  · next settling => exact cranking.enterCranking (entries_of_state o settling (by decide)) (State.mayTry_of_state settling rfl)
  · exact cranking

theorem deeds_heatUpdate (o : e = true ∨ s.seq.state = .init) :
    Deeds ⟨[codeFailToStart], e, [.heat, .rest]⟩ s (s.after .heatUpdate) := by
  have start := Deeds.refl (r := ⟨[codeFailToStart], e, [.heat, .rest]⟩) s o
  have warmed : Only [.heat] s (s.setClaim { s.claim with
      heat := heatAfter s.params s.claim.heat s.out.crank, heatTimer := .running Config.heatMs }) := by
    intro p outside
    cases p <;> simp at outside <;> rfl
  have updated := start.only warmed (by simp)
  simp only [State.after, exec, execHeatUpdate]
  refine Deeds.ite ?_ start
  split
  · exact updated.examineOffer
  · split
    · next trips =>
      simp only [Bool.and_eq_true, decide_eq_true_eq] at trips
      exact updated.failedAttempt (entries_of_state o trips.2 (by decide)) (by simp) (by simp [Scope.codes])
    · exact updated
  all_goals exact updated

theorem deeds_upDwellEvent (o : e = true ∨ s.seq.state = .init) : Deeds ⟨[], e, []⟩ s (s.after .upDwellEvent) := by
  have start := Deeds.refl (r := ⟨[], e, []⟩) s o
  simp only [State.after, exec, execUpDwellEvent]
  exact Deeds.ite (Deeds.stepperExamine (start.dwell _)) start

theorem deeds_downDwellEvent (o : e = true ∨ s.seq.state = .init) : Deeds ⟨[], e, []⟩ s (s.after .downDwellEvent) := by
  have start := Deeds.refl (r := ⟨[], e, []⟩) s o
  simp only [State.after, exec, execDownDwellEvent]
  exact Deeds.ite (Deeds.stepperExamine (start.dwell _)) start

/-! ### The Monitor -/

section
variable {r : Scope} {t : State}

theorem Deeds.clearColdRun (h : Deeds r s t) (o : r.clears) : Deeds r s (Machine.clearColdRun t) := by
  refine Deeds.markIf ?_ _
  have cleared := h.cleared o false true
  simpa using cleared

theorem Deeds.clearBatteryNeed (h : Deeds r s t) (o : r.clears) : Deeds r s (Machine.clearBatteryNeed t) := by
  refine Deeds.markIf ?_ _
  have cleared := h.cleared o true false
  simpa using cleared

theorem Deeds.lowOilTest (h : Deeds r s t) : Deeds r s (Machine.lowOilTest t) :=
  Deeds.ite (h.reportCause (covers_of_mem (mem_codes_of_entry (by decide)) (by decide)) rfl _) h

theorem Deeds.prelubePressure (h : Deeds r s t) : Deeds r s (Machine.prelubePressure t) :=
  h.opens (fun i => by simp [Machine.prelubePressure, i]) fun e => by
    unfold Machine.prelubePressure
    split
    · next waits =>
      simp only [Bool.and_eq_true, decide_eq_true_eq] at waits
      exact h.enterClaimWait e (State.mayTry_of_state waits.1 rfl)
    · exact h

theorem Deeds.overtempTests (h : Deeds r s t) (warm : codeOvertemp ∈ r.codes) (severe : codeOvertempSevere ∈ r.codes) :
    Deeds r s (Machine.overtempTests t) :=
  Deeds.ite ((h.reportCause (covers_of_mem warm (by decide)) rfl _).reportCause (covers_of_mem severe (by decide)) rfl _) h

theorem Deeds.compareInput (h : Deeds r s t) (k : Fin 12) : Deeds r s (Machine.compareInput k t) := by
  unfold Machine.compareInput
  dsimp only
  refine Deeds.ite h ((h.input k _).reportCause (covers_of_mem (mem_codes_of_entry (inputCode_mem_entryCodes k)) ?_)
    (inputCode_isCode k) _)
  show k.val + 1 ≠ 28
  omega

theorem Deeds.sampleInput (h : Deeds r s t) (k : Fin 12) (closed : Bool) : Deeds r s (Machine.sampleInput k closed t) := by
  unfold Machine.sampleInput
  dsimp only
  exact Deeds.ite (Deeds.compareInput (h.input k _) k) (h.input k _)

theorem Deeds.unmaskInputs (h : Deeds r s t) (b : Bool) : Deeds r s (Machine.unmaskInputs b t) :=
  Deeds.foldl (fun _ k h => Deeds.ite (h.input k _) h) _ h

theorem Deeds.overspeedTest (h : Deeds r s t) (mem : codeOverspeed ∈ r.codes) : Deeds r s (Machine.overspeedTest t) :=
  Deeds.ite (h.reportCause (covers_of_mem mem (by decide)) rfl _) h

theorem Deeds.stallTest (h : Deeds r s t) : Deeds r s (Machine.stallTest t) :=
  Deeds.ite (h.phases _ _ _) (Deeds.ite (h.phases _ _ _) h)

theorem Deeds.failToStopCause (h : Deeds r s t) (mem : codeFailToStop ∈ r.codes) : Deeds r s (Machine.failToStopCause t) :=
  Deeds.ite (h.reportCause (covers_of_mem mem (by decide)) rfl _) h

theorem setHours_only (s : State) (x : Loader) (y : RetainedStore) (load : x = { s.load with
      hours := x.hours, runningWindows := x.runningWindows }) (store : y = { s.ret with
      minutes := y.minutes, shadow := y.shadow }) : Only [.windows, .hours] s ((s.setRet y).setLoad x) := by
  rw [load, store]
  intro p outside
  cases p <;> simp at outside <;> rfl

theorem Deeds.runningTime (h : Deeds r s t) (parts : [.windows, .hours] ⊆ r.parts) : Deeds r s (Machine.runningTime t) := by
  have counted (x : Loader) (y : RetainedStore) (load : x = { t.load with
      hours := x.hours, runningWindows := x.runningWindows }) (store : y = { t.ret with
      minutes := y.minutes, shadow := y.shadow }) : Deeds r s ((t.setRet y).setLoad x) :=
    h.only (setHours_only t x y load store) parts
  unfold Machine.runningTime Machine.countWindow Machine.hourPasses
  dsimp only
  refine Deeds.ite (Deeds.ite ?_ (Deeds.ite ?_ (Deeds.ite (Deeds.ite ?_ (Deeds.hoursWrite ?_)) ?_))) h
  · exact counted _ t.ret rfl rfl
  · exact counted { t.load with runningWindows := 0 } { t.ret with minutes := t.ret.minutes + 1 } rfl rfl
  · exact counted { t.load with runningWindows := 0, hours := t.load.hours + 1 }
      { t.ret with minutes := 0, shadow := t.load.hours + 1 } rfl rfl
  · exact counted { t.load with runningWindows := 0, hours := t.load.hours + 1 }
      { t.ret with minutes := 0, shadow := t.load.hours + 1 } rfl rfl
  · exact counted { t.load with runningWindows := 0 } { t.ret with minutes := 0 } rfl rfl

end

/-- The part of an analog channel. -/
def channelPart : Channel → Part
  | .coolant => .coolant
  | .oil => .oil
  | .battery => .battery

theorem setChannel_only (s : State) (c : Channel) (a : AnalogChannel) :
    Only [channelPart c] s (s.setMon (s.mon.setChannel c a)) := by
  intro p outside
  cases c <;> cases p <;> simp [channelPart] at outside <;> rfl

/-- The sensor-fault code, and those of the channel's own tests (R145, R153). -/
def channelCodes : Channel → List Nat
  | .coolant => [codeCoolantSensor, codeOvertemp, codeOvertempSevere]
  | .oil => [codeOilSensor]
  | .battery => [codeBatterySensor]

theorem deeds_analogSample (o : e = true ∨ s.seq.state = .init) (c : Channel) (raw : Nat) :
    Deeds ⟨channelCodes c, e, [channelPart c]⟩ s (s.after (.analogSample c raw)) := by
  have start := Deeds.refl (r := ⟨channelCodes c, e, [channelPart c]⟩) s o
  have sampled := start.only (setChannel_only s c ((s.mon.channel c).sample c raw)) (by simp) (by cases c <;> simp [channelPart])
  have covered : Scope.covers ⟨channelCodes c, e, [channelPart c]⟩ (sensorCode c) :=
    covers_of_mem (by cases c <;> simp [Scope.codes, channelCodes, sensorCode]) (by cases c <;> decide)
  have reported := Deeds.ite (c := ((s.mon.channel c).sample c raw).fault = (s.mon.channel c).fault) sampled
    (sampled.reportCause covered (sensorCode_isCode c) ((s.mon.channel c).sample c raw).fault)
  simp only [State.after, exec, execAnalogSample]
  generalize (if ((s.mon.channel c).sample c raw).fault = (s.mon.channel c).fault then _ else _) = u at reported
  unfold channelValue
  cases c
  · refine Deeds.overtempTests (Deeds.derate (Deeds.ite (Deeds.clearColdRun reported.examineWarm ?_) reported.examineWarm)) ?_ ?_
    · exact .inl (by simp [Scope.codes, channelCodes])
    · simp [Scope.codes, channelCodes]
    · simp [Scope.codes, channelCodes]
  · exact reported.prelubePressure.lowOilTest
  · exact Deeds.ite (Deeds.clearBatteryNeed reported (.inr (by simp [Scope.codes, channelCodes]))) reported

/-- The parts of a speed value (R146, R181). -/
abbrev speedParts : List Part := [.speed, .windows, .hours, .minRun]

theorem deeds_speedValue (o : e = true ∨ s.seq.state = .init) (load : e = true ∨ s.loaded = false) (pulses : Nat) :
    Deeds ⟨[codeOverspeed, codeFailToStop], e, speedParts⟩ s (s.after (.speedValue pulses)) := by
  have start := Deeds.refl (r := ⟨[codeOverspeed, codeFailToStop], e, speedParts⟩) s o
  have measured : Only [.speed] s
      (s.setMon { s.mon with speed := speedOf s.params.teeth pulses, speedYet := true }) := by
    intro p outside
    cases p <;> simp at outside <;> rfl
  have value := start.only measured (by simp)
  have timed := (((value.overspeedTest (by simp [Scope.codes])).stallTest).failToStopCause
    (by simp [Scope.codes])).runningTime (by simp)
  exact timed.sequencerSpeed (by simp) (load.imp_right fun l => (timed.loaded (by simp)).trans l)

theorem deeds_graceTimerExpiry (o : e = true ∨ s.seq.state = .init) : Deeds ⟨[], e, []⟩ s (s.after .graceTimerExpiry) := by
  have start := Deeds.refl (r := ⟨[], e, []⟩) s o
  have tested := (start.phases .run .expired s.mon.stall).lowOilTest
  simp only [State.after, exec, execGraceTimerExpiry]
  exact Deeds.ite (Deeds.ite (tested.unmaskInputs _) tested) start

theorem deeds_stallTimerExpiry (o : e = true ∨ s.seq.state = .init) :
    Deeds ⟨[codeStall], e, []⟩ s (s.after .stallTimerExpiry) := by
  have start := Deeds.refl (r := ⟨[codeStall], e, []⟩) s o
  have mem : codeStall ∈ Scope.codes ⟨[codeStall], e, []⟩ := by simp [Scope.codes]
  simp only [State.after, exec, execStallTimerExpiry]
  exact Deeds.ite (((start.phases s.mon.runPhase s.mon.grace .expired).reportPresent (covers_of_mem mem (by decide)) rfl).reportGone
    mem) start

theorem deeds_protectiveInputQualification (o : e = true ∨ s.seq.state = .init) (k : Nat) :
    Deeds ⟨[], e, []⟩ s (s.after (.protectiveInputQualification k)) := by
  have start := Deeds.refl (r := ⟨[], e, []⟩) s o
  simp only [State.after, exec, execProtectiveInputQualification]
  split
  · exact start
  · next j _ => exact Deeds.ite (Deeds.compareInput (start.input j _) j) start

theorem deeds_protectiveInputSample (o : e = true ∨ s.seq.state = .init) (levels : Vector Bool 12) :
    Deeds ⟨[], e, []⟩ s (s.after (.protectiveInputSample levels)) :=
  Deeds.foldl (fun _ k h => h.sampleInput k levels[k]) _ (Deeds.refl s o)

/-! ### The feedback and the port -/

theorem mismatchCode_mem_entryCodes (o : ProvedOutput) (b : Bool) : mismatchCode o b ∈ entryCodes := by
  cases o <;> cases b <;> decide

theorem setProving_parts (s : State) (o : ProvedOutput) (p : Proving) : Only [.feedback, .proof] s (s.setProving o p) := by
  intro q outside
  cases o <;> cases q <;> simp at outside <;> rfl

theorem setProof_only (s : State) (o : ProvedOutput) (p : ProofState) (t : Timer) :
    Only [.proof] s (s.setProving o { s.out.proving o with proof := p, timer := t }) := by
  intro q outside
  cases o <;> cases q <;> simp at outside <;> rfl

theorem deeds_feedbackQualification (o : e = true ∨ s.seq.state = .init) (out : ProvedOutput) :
    Deeds ⟨[], e, [.feedback, .proof]⟩ s (s.after (.feedbackQualification out)) := by
  have start := Deeds.refl (r := ⟨[], e, [.feedback, .proof]⟩) s o
  have proved {t : State} (h : Deeds ⟨[], e, [.feedback, .proof]⟩ s t) (p : Proving) :
      Deeds ⟨[], e, [.feedback, .proof]⟩ s (t.setProving out p) := h.only (setProving_parts t out p) (by simp)
  have settled := proved start { s.out.proving out with feedback := (s.out.proving out).feedback.settled }
  simp only [State.after, exec, execFeedbackQualification]
  refine Deeds.ite (Deeds.ite ?_ settled) start
  unfold feedbackQualified
  dsimp only
  exact Deeds.ite (Deeds.ite ((proved settled _).reportGone_entry (mismatchCode_mem_entryCodes _ _)) (proved settled _))
    (Deeds.ite (proved settled _) settled)

theorem deeds_provingTimerExpiry (o : e = true ∨ s.seq.state = .init) (out : ProvedOutput) :
    Deeds ⟨[codeFailToStart], e, [.proof, .rest]⟩ s (s.after (.provingTimerExpiry out)) := by
  have start := Deeds.refl (r := ⟨[codeFailToStart], e, [.proof, .rest]⟩) s o
  simp only [State.after, exec, execProvingTimerExpiry]
  refine Deeds.ite (Deeds.reportPresent (start.only (setProof_only s out .disagree .expired) (by simp)) ⟨?_, fun _ => ?_⟩
    (mismatchCode_isCode _ _)) start
  · exact mem_codes_of_entry (mismatchCode_mem_entryCodes _ _)
  · simp [Scope.codes]

theorem setReport_only (s : State) (x : Port) (port : x = { s.port with
      report := x.report, buffer := x.buffer, governorFault := x.governorFault, badReads := x.badReads
      goodReads := x.goodReads }) : Only [.port, .report] s (s.setPort x) := by
  rw [port]
  intro p outside
  cases p <;> simp at outside <;> rfl

theorem judge_frame (p : Port) (good : Bool) : p.judge good = { p with
    governorFault := (p.judge good).governorFault, badReads := (p.judge good).badReads
    goodReads := (p.judge good).goodReads } := by
  unfold Port.judge
  repeat' split
  all_goals rfl

theorem deeds_statusReadCompletion (o : e = true ∨ s.seq.state = .init) (signature state faultCode fuelDemand : Byte) :
    Deeds ⟨[codeGovernorFault], e, [.port, .report]⟩ s
      (s.after (.statusReadCompletion signature state faultCode fuelDemand)) := by
  have start := Deeds.refl (r := ⟨[codeGovernorFault], e, [.port, .report]⟩) s o
  simp only [State.after, exec, execStatusReadCompletion]
  refine Deeds.ite ?_ start
  have judged := start.only (setReport_only s (Port.judge { s.port with
      report := ⟨signature, state, faultCode, fuelDemand⟩
      buffer := fillBuffer s.port.buffer [signature, state, faultCode, fuelDemand] }
    (GovernorReport.good ⟨signature, state, faultCode, fuelDemand⟩)) (by rw [judge_frame])) (by simp)
  have freed := judged.only (portRelease_only _) (by simp)
  refine Deeds.ite freed (freed.reportCause (covers_of_mem ?_ (by decide)) rfl _)
  simp [Scope.codes]

/-! ### The completion of the load -/

/-- The parts of the load (R179). -/
abbrev loadParts : List Part :=
  [.config, .startRecord, .progress, .hours, .txEnabled, .heartbeat, .listen, .phase, .layoverCheck, .recovery, .statusTimer, .minRun]

theorem setConfiguration_only (s : State) (x : Params) (l : Loader) (m : Vector RoutingEntry 12) (steps : List Nat)
    (load : l = { s.load with progress := l.progress, markerFault := l.markerFault }) :
    Only [.config, .progress] s ((((s.setParams x).setLoad l).setMon { s.mon with routing := m }).setAlloc
      { s.alloc with powerSteps := steps }) := by
  rw [load]
  intro p outside
  cases p <;> simp at outside <;> rfl

theorem loadParameters_only (s : State) : Only [.config, .progress] s (loadParameters s) :=
  setConfiguration_only s (paramsOf s.load.image) _ _ (powerStepsOf (paramsOf s.load.image)) rfl

theorem enableTransmitter_only (s : State) : Only [.txEnabled, .heartbeat] s (enableTransmitter s) := by
  refine Only.ite (fun p outside => ?_) (Only.refl s)
  cases p <;> simp at outside <;> rfl

theorem startLoadTimers_only (s : State) :
    Only [.recovery, .phase, .listen, .layoverCheck, .statusTimer] s (startLoadTimers s) := by
  intro p outside
  unfold startLoadTimers
  split <;> cases p <;> simp at outside <;> rfl

theorem Deeds.loadHours {r : Scope} {t : State} (h : Deeds r s t) (parts : [.startRecord, .hours] ⊆ r.parts) :
    Deeds r s (Machine.loadHours t) := by
  have set : Only [.startRecord, .hours] t ((t.setLoad { t.load with
      hours := t.loadedHours, startRecord := ⟨t.load.resetKind, t.ret.wasRunning⟩ }).setRet
        { t.ret with shadow := t.loadedHours }) := by
    intro p outside
    cases p <;> simp at outside <;> rfl
  unfold Machine.loadHours
  dsimp only
  exact Deeds.ite (Deeds.hoursWrite (h.only set parts)) (h.only set parts)

theorem Deeds.judgeConfig {r : Scope} {t : State} (h : Deeds r s t) (mem : codeConfigFault ∈ r.codes) :
    Deeds r s (Machine.judgeConfig t) :=
  Deeds.ite (h.reportPresent (covers_of_mem mem (by decide)) rfl) h

/-- The load as far as it hands the configuration to the blocks that hold it (R179, steps 1 to 4). -/
def loadHanded (s : State) : State :=
  unmaskInputs false (computeDerate (judgeConfig (loadHours (loadParameters s))))

theorem after_configLoadCompletion (s : State) : s.after .configLoadCompletion =
    if s.load.progress = .reading 16 then examineInit (startLoadTimers (enableTransmitter (loadHanded s))) else s := rfl

theorem Deeds.loadHanded {r : Scope} {t : State} (h : Deeds r t (Machine.loadParameters s)) (parts : [.startRecord, .hours] ⊆ r.parts)
    (mem : codeConfigFault ∈ r.codes) : Deeds r t (Machine.loadHanded s) :=
  ((h.loadHours parts).judgeConfig mem).derate.unmaskInputs false

theorem deeds_configLoadCompletion :
    Deeds ⟨[codeConfigFault], true, loadParts⟩ s (s.after .configLoadCompletion) := by
  have start := Deeds.refl (r := ⟨[codeConfigFault], true, loadParts⟩) s (.inl rfl)
  have handed := (start.only (loadParameters_only s) (by simp)).loadHanded (by simp) (by simp [Scope.codes])
  have timed := (handed.only (enableTransmitter_only _) (by simp)).only (startLoadTimers_only _) (by simp)
  rw [after_configLoadCompletion]
  exact Deeds.ite (timed.examineInit (by simp) (.inl rfl)) start

end

end Sys2Proof.Machine
end


section
/-! Every command as a chain of deeds, in one table; the laws of ALARM, need flags, setpoint, proof states, derate factor and condition
set under every step. -/

namespace Sys2Proof.Machine

/-- The parts that the qualification of a line changes by itself. -/
def lineParts : CabLine → List Part
  | .run => [.lines, .mode, .layoverCheck, .needs, .stopDelay, .statusMarked, .reEvaluate]
  | .estop | .faultReset | .isolate => [.lines]

/-- The parts that a command changes by itself. -/
def ownParts : Instr → List Part
  | .cabLineQualification line => lineParts line
  | .throttleCodeQualification => [.codeStability, .qualifiedCode, .decoder, .demand, .statusMarked, .reEvaluate]
  | .invalidCodeTimerExpiry => [.decoder, .demand, .statusMarked, .reEvaluate]
  | .layoverCheckExpiry => [.layoverCheck, .needs, .statusMarked]
  | .frameStart => [.line, .sending, .claimSlot, .statusMarked]
  | .arbitrationLoss => failureParts
  | .bitError _ => bitErrorParts
  | .holdOffExpiry => [.holdOff]
  | .transmissionCompletion => completionParts
  | .frameArrival _ => [.line, .filling, .buffers, .postList, .freeList, .headTaken, .claimSlot, .claimPhase, .foreignMark]
  | .heartbeatExpiry => [.heartbeat, .firstHeartbeat, .statusMarked]
  | .spacingTimerExpiry => [.spacing]
  | .frameApplication => frameParts
  | .applicationEnd => [.applying, .freeList, .draining, .headTaken]
  | .ageExpiry _ => ageParts
  | .listenTimerExpiry => [.listen, .phase, .reEvaluate]
  | .evaluationTimerExpiry => [.evaluation, .reEvaluate]
  | .passStart => [.phase, .reEvaluate, .evaluation, .snapshot, .peers]
  | .passEnd => passEndParts
  | .stopDelayExpiry => [.stopDelay]
  | .crankTimeExpiry => [.rest]
  | .fireConfirmExpiry | .minRunExpiry => [.minRun]
  | .restTimerExpiry => [.rest, .claimPhase, .claimSlot]
  | .leaseExpiry => [.lease, .holder, .recovery, .claimPhase, .claimSlot]
  | .recoveryTimerExpiry => [.recovery, .claimPhase, .claimSlot]
  | .heatUpdate => [.heat, .rest]
  | .configReadCompletion _ => [.port, .image, .progress]
  | .setpointWriteCompletion | .hoursWriteCompletion | .setpointRefreshExpiry => [.port]
  | .statusReadCompletion _ _ _ _ => [.port, .report]
  | .governorStatusTimerExpiry => [.port, .statusTimer]
  | .analogSample c _ => [channelPart c]
  | .speedValue _ => speedParts
  | .feedbackQualification _ => [.feedback, .proof]
  | .provingTimerExpiry _ => [.proof, .rest]
  | .configLoadCompletion => loadParts
  | .readSelf _ | .readPeer _ | .readConditions _ | .readFaultRecord _ | .readHours _ | .readInputs _ | .badCode _ _ =>
    [.replySlot, .mailbox]
  | .cabLineSample _ => [.lines, .sampledCode, .codeStability]
  | .feedbackSample _ _ _ => [.feedback]
  | .lineIdle _ | .startBitRead => [.line]
  | .endOfPriorityField => [.filling, .freeList]
  | _ => []

/-- A reset, which sets every part. -/
def isReset : Instr → Bool
  | .powerOnReset _ | .coreReset _ => true
  | _ => false

theorem after_of_isReset {c : Instr} (h : isReset c = true) (s : State) :
    ∃ kind station rate ret, s.after c = State.afterReset kind station rate ret s.pending
      ∧ (ret = .cleared ∨ ret = s.ret) := by
  cases c
  case powerOnReset p => exact ⟨_, _, _, _, rfl, .inl rfl⟩
  case coreReset p => exact ⟨_, _, _, _, rfl, .inr rfl⟩
  all_goals cases h

/-- None of the listed parts is `p`. -/
def avoids (l : List Part) (p : Part) : Bool := l.all fun q => q.ctorIdx != p.ctorIdx

theorem not_mem_of_avoids {l : List Part} {p : Part} (h : avoids l p = true) : p ∉ l := by
  intro mem
  have differs := List.all_eq_true.1 h p mem
  simp at differs

section
variable {e : Bool} {s : State}

theorem deeds_of_only {t : State} {l : List Part} (o : e = true ∨ s.seq.state = .init) (h : Only l s t)
    (engine : avoids l .engine = true := by rfl) : ∃ codes, Deeds ⟨codes, e, l⟩ s t :=
  ⟨[], Deeds.only (r := ⟨[], e, l⟩) (Deeds.refl s o) h (List.Subset.refl l) (not_mem_of_avoids engine)⟩

/-- Every command but a reset is one chain of deeds, and the load is one where entries may be made. -/
theorem deeds_after (o : e = true ∨ s.seq.state = .init) (load : e = true ∨ s.loaded = false) (c : Instr)
    (noReset : isReset c = false) (entries : c = .configLoadCompletion → e = true) :
    ∃ codes, Deeds ⟨codes, e, ownParts c⟩ s (s.after c) := by
  cases c
  case powerOnReset | coreReset => cases noReset
  case cabLineQualification line =>
    cases line
    · exact ⟨_, deeds_runQualification o⟩
    · exact ⟨_, deeds_estopQualification o⟩
    · exact ⟨_, deeds_faultResetQualification o⟩
    · exact ⟨_, deeds_isolateQualification o⟩
  case throttleCodeQualification => exact deeds_of_only o (only_throttleCodeQualification s)
  case invalidCodeTimerExpiry => exact deeds_of_only o (only_invalidCodeTimerExpiry s)
  case layoverCheckExpiry => exact deeds_of_only o (only_layoverCheckExpiry s)
  case frameStart => exact deeds_of_only o (only_frameStart s)
  case arbitrationLoss => exact deeds_of_only o (only_arbitrationLoss s)
  case holdOffExpiry => exact deeds_of_only o (only_holdOffExpiry s)
  case frameArrival f => exact deeds_of_only o (only_frameArrival f s)
  case heartbeatExpiry => exact deeds_of_only o (only_heartbeatExpiry s)
  case spacingTimerExpiry => exact deeds_of_only o (only_spacingTimerExpiry s)
  case applicationEnd => exact deeds_of_only o (only_applicationEnd s)
  case listenTimerExpiry => exact deeds_of_only o (only_listenTimerExpiry s)
  case evaluationTimerExpiry => exact deeds_of_only o (only_evaluationTimerExpiry s)
  case passStart => exact deeds_of_only o (only_passStart s)
  case restTimerExpiry => exact deeds_of_only o (only_restTimerExpiry s)
  case leaseExpiry => exact deeds_of_only o (only_leaseExpiry s)
  case recoveryTimerExpiry => exact deeds_of_only o (only_recoveryTimerExpiry s)
  case configReadCompletion b => exact deeds_of_only o (only_configReadCompletion b s)
  case setpointWriteCompletion => exact deeds_of_only o (only_setpointWriteCompletion s)
  case hoursWriteCompletion => exact deeds_of_only o (only_hoursWriteCompletion s)
  case setpointRefreshExpiry => exact deeds_of_only o (only_setpointRefreshExpiry s)
  case governorStatusTimerExpiry => exact deeds_of_only o (only_governorStatusTimerExpiry s)
  case cabLineSample x => exact deeds_of_only o (only_cabLineSample x s)
  case feedbackSample x y z => exact deeds_of_only o (only_feedbackSample x y z s)
  case lineIdle n => exact deeds_of_only o (only_lineIdle n s)
  case startBitRead => exact deeds_of_only o (only_startBitRead s)
  case endOfPriorityField => exact deeds_of_only o (only_endOfPriorityField s)
  case bitError p => exact ⟨_, deeds_bitError o p⟩
  case transmissionCompletion => exact ⟨_, deeds_transmissionCompletion o⟩
  case frameApplication => exact ⟨_, deeds_frameApplication o⟩
  case ageExpiry n => exact ⟨_, deeds_ageExpiry o n⟩
  case passEnd => exact ⟨_, deeds_passEnd o⟩
  case stopDelayExpiry => exact ⟨_, deeds_stopDelayExpiry o⟩
  case prelubeTimeExpiry => exact ⟨_, deeds_prelubeTimeExpiry o⟩
  case crankTimeExpiry => exact ⟨_, deeds_crankTimeExpiry o⟩
  case fireConfirmExpiry => exact ⟨_, deeds_fireConfirmExpiry o⟩
  case runupTimeExpiry => exact ⟨_, deeds_runupTimeExpiry o⟩
  case warmMinExpiry => exact ⟨_, deeds_warmMinExpiry o⟩
  case warmMaxExpiry => exact ⟨_, deeds_warmMaxExpiry o⟩
  case cooldownExpiry => exact ⟨_, deeds_cooldownExpiry o⟩
  case stopLimitExpiry => exact ⟨_, deeds_stopLimitExpiry o⟩
  case minRunExpiry => exact ⟨_, deeds_minRunExpiry o⟩
  case settleExpiry => exact ⟨_, deeds_settleExpiry o⟩
  case heatUpdate => exact ⟨_, deeds_heatUpdate o⟩
  case upDwellEvent => exact ⟨_, deeds_upDwellEvent o⟩
  case downDwellEvent => exact ⟨_, deeds_downDwellEvent o⟩
  case statusReadCompletion a b c d => exact ⟨_, deeds_statusReadCompletion o a b c d⟩
  case analogSample x y => exact ⟨_, deeds_analogSample o x y⟩
  case graceTimerExpiry => exact ⟨_, deeds_graceTimerExpiry o⟩
  case stallTimerExpiry => exact ⟨_, deeds_stallTimerExpiry o⟩
  case protectiveInputQualification k => exact ⟨_, deeds_protectiveInputQualification o k⟩
  case feedbackQualification f => exact ⟨_, deeds_feedbackQualification o f⟩
  case provingTimerExpiry f => exact ⟨_, deeds_provingTimerExpiry o f⟩
  case protectiveInputSample l => exact ⟨_, deeds_protectiveInputSample o l⟩
  case speedValue pulses => exact ⟨_, deeds_speedValue o load pulses⟩
  case configLoadCompletion => exact ⟨_, entries rfl ▸ deeds_configLoadCompletion⟩
  case readSelf | readPeer | readConditions | readFaultRecord | readHours | readInputs | badCode =>
    exact deeds_of_only o (request_only _ s)

end

theorem avoids_alarm (c : Instr) : avoids (ownParts c) .conditions = true ∧ avoids (ownParts c) .alarm = true := by
  cases c
  case cabLineQualification line => cases line <;> exact ⟨rfl, rfl⟩
  case analogSample c raw => cases c <;> exact ⟨rfl, rfl⟩
  all_goals exact ⟨rfl, rfl⟩

end Sys2Proof.Machine
end


section
/-! The laws of ALARM, need flags, setpoint, proof states, derate factor and condition set under every command and under 10 ms. -/

namespace Sys2Proof.Machine

section
variable {s : State}

/-! ### ALARM (R163) -/

theorem AlarmLaw.after (h : AlarmLaw s) (c : Instr) : AlarmLaw (s.after c) := by
  cases reset : isReset c
  · obtain ⟨codes, d⟩ := deeds_after (e := true) (.inl rfl) (.inl rfl) c reset fun _ => rfl
    obtain ⟨conditions, alarm⟩ := avoids_alarm c
    exact h.deeds d ⟨not_mem_of_avoids conditions, not_mem_of_avoids alarm⟩
  · obtain ⟨kind, station, rate, ret, eq, -⟩ := after_of_isReset reset s
    rw [eq]
    rfl

theorem AlarmLaw.tick (h : AlarmLaw s) : AlarmLaw (Machine.tick s) := by
  show s.out.alarm = !(s.mon.conditions.map Member.tick).isEmpty
  rw [List.isEmpty_map]
  exact h

/-! ### The need flags (R39, R41) -/

/-- The commands that change the mode, the need flags or the layover check timer on their own. -/
def checksLayover : Instr → Bool
  | .powerOnReset _ | .coreReset _ | .cabLineQualification .run | .layoverCheckExpiry | .configLoadCompletion => true
  | _ => false

theorem avoids_needs (c : Instr) (h : checksLayover c = false) : avoids (ownParts c) .mode = true
    ∧ avoids (ownParts c) .needs = true ∧ avoids (ownParts c) .layoverCheck = true := by
  cases c
  case powerOnReset | coreReset | layoverCheckExpiry | configLoadCompletion => cases h
  case cabLineQualification line =>
    cases line
    case run => cases h
    all_goals exact ⟨rfl, rfl, rfl⟩
  case analogSample c raw => cases c <;> exact ⟨rfl, rfl, rfl⟩
  all_goals exact ⟨rfl, rfl, rfl⟩

theorem layoverLaw_of_layover (h : s.cab.mode = .layover) : LayoverLaw s := by
  intro service
  rw [h] at service
  cases service

theorem layoverLaw_enterMode (s : State) (mode : Mode) (b : Bool) (p : Params) :
    LayoverLaw (s.setCab (s.cab.enterMode mode b p)) := by
  cases mode
  · exact fun _ => ⟨rfl, rfl, rfl⟩
  · exact layoverLaw_of_layover rfl

theorem LayoverLaw.runQualified (h : LayoverLaw s) : LayoverLaw (Machine.runQualified s) := by
  unfold Machine.runQualified
  dsimp only
  rw [markStatus_eq, passTrigger_eq]
  generalize (if s.cab.run.qualified = true then Mode.service else Mode.layover) = mode
  have moded := layoverLaw_enterMode s mode s.loaded s.params
  split
  · exact h
  · refine layoverLaw_of_same moded ?_
    split <;> rfl

theorem LayoverLaw.runQualification (h : LayoverLaw s) : LayoverLaw (s.after (.cabLineQualification .run)) := by
  have settled : LayoverLaw (s.setCab (s.cab.setLine .run (s.cab.line .run).settled)) := h
  simp only [State.after, exec, execCabLineQualification, lineQualified]
  split
  · split
    · exact settled.runQualified
    · exact settled
  · exact h

theorem LayoverLaw.layoverCheckExpiry (h : LayoverLaw s) : LayoverLaw (s.after .layoverCheckExpiry) := by
  simp only [State.after, exec, execLayoverCheckExpiry, markStatusIf_eq]
  split
  · next running =>
    intro service
    obtain ⟨-, -, stopped⟩ := h service
    rw [stopped] at running
    cases running
  · exact h

theorem LayoverLaw.startLoadTimers (h : LayoverLaw s) : LayoverLaw (Machine.startLoadTimers s) := by
  unfold Machine.startLoadTimers
  split
  · next layover => exact layoverLaw_of_layover layover
  · exact h

theorem enableTransmitter_cab (s : State) : (enableTransmitter s).cab = s.cab := by
  unfold enableTransmitter
  split <;> rfl

theorem LayoverLaw.configLoadCompletion (h : LayoverLaw s) : LayoverLaw (s.after .configLoadCompletion) := by
  have parameters : LayoverLaw (loadParameters s) := h
  have handed : LayoverLaw (loadHanded s) :=
    parameters.deeds (Deeds.loadHanded (r := ⟨[codeConfigFault], true, [.startRecord, .hours]⟩) (Deeds.refl _ (.inl rfl))
      (List.Subset.refl _) (by simp [Scope.codes])) (by simp)
  have timed : LayoverLaw (Machine.startLoadTimers (enableTransmitter (loadHanded s))) :=
    LayoverLaw.startLoadTimers (layoverLaw_of_same handed (enableTransmitter_cab _))
  rw [after_configLoadCompletion]
  split
  · exact timed.deeds (Deeds.examineInit (r := ⟨[], true, [.minRun]⟩) (Deeds.refl _ (.inl rfl)) (by simp) (.inl rfl)) (by simp)
  · exact h

theorem LayoverLaw.after (h : LayoverLaw s) (c : Instr) : LayoverLaw (s.after c) := by
  cases own : checksLayover c
  · have reset : isReset c = false := by
      cases c <;> first | rfl | cases own
    obtain ⟨codes, d⟩ := deeds_after (e := true) (.inl rfl) (.inl rfl) c reset fun _ => rfl
    obtain ⟨mode, needs, timer⟩ := avoids_needs c own
    exact h.deeds d ⟨not_mem_of_avoids mode, not_mem_of_avoids needs, not_mem_of_avoids timer⟩
  · cases c
    case powerOnReset | coreReset => exact layoverLaw_of_layover rfl
    case layoverCheckExpiry => exact h.layoverCheckExpiry
    case configLoadCompletion => exact h.configLoadCompletion
    case cabLineQualification line =>
      cases line
      case run => exact h.runQualification
      all_goals cases own
    all_goals cases own

theorem LayoverLaw.tick (h : LayoverLaw s) : LayoverLaw (Machine.tick s) := by
  intro service
  obtain ⟨cold, battery, stopped⟩ := h service
  refine ⟨cold, battery, ?_⟩
  show (s.cab.layoverCheck.advance Config.tickMs).isRunning = false
  rw [isRunning_advance]
  exact stopped

end

/-- Settles O6: R163 and R39, R41 are kept by every deed, so by every command, and by 10 ms. -/
theorem alarmAndNeedFlagsStayLawful : Obligations.AlarmAndNeedFlagsStayLawful := by
  intro s t alarm layover next
  exact step_keeps (P := fun s => AlarmLaw s ∧ LayoverLaw s) (fun _ _ h => h)
    (fun c _ h => ⟨h.1.after c, h.2.after c⟩) (fun _ h => ⟨h.1.tick, h.2.tick⟩) next ⟨alarm, layover⟩

section
variable {s : State}

/-! ### The setpoint (R133, R134) -/

/-- The commands at which the serial port or the configuration changes by itself. -/
def touchesPort : Instr → Bool
  | .powerOnReset _ | .coreReset _ | .configLoadCompletion | .configReadCompletion _ | .setpointWriteCompletion
  | .hoursWriteCompletion | .statusReadCompletion _ _ _ _ | .setpointRefreshExpiry | .governorStatusTimerExpiry => true
  | _ => false

theorem avoids_setpoint (c : Instr) (h : touchesPort c = false) : avoids (ownParts c) .stepper = true
    ∧ avoids (ownParts c) .port = true ∧ avoids (ownParts c) .config = true ∧ avoids (ownParts c) .progress = true := by
  cases c
  case cabLineQualification line => cases line <;> exact ⟨rfl, rfl, rfl, rfl⟩
  case analogSample c raw => cases c <;> exact ⟨rfl, rfl, rfl, rfl⟩
  case powerOnReset | coreReset | configLoadCompletion | configReadCompletion | setpointWriteCompletion | hoursWriteCompletion
    | statusReadCompletion | setpointRefreshExpiry | governorStatusTimerExpiry => cases h
  all_goals exact ⟨rfl, rfl, rfl, rfl⟩

theorem SetpointHeld.portRelease (h : SetpointHeld s) : SetpointHeld (Machine.portRelease s) := by
  have freed : SetpointHeld (s.setPort { s.port with inFlight := none }) := h
  exact freed.portGrant

theorem loaded_received (p : LoadProgress) : (p.received == .done) = (p == .done) := by cases p <;> rfl

/-- The port's own events keep the setpoint's law, and whether the station has loaded. -/
theorem SetpointHeld.portEvent (h : SetpointHeld s) (c : Instr) (port : touchesPort c = true) (reset : isReset c = false)
    (load : c ≠ .configLoadCompletion) : SetpointHeld (s.after c) := by
  cases c
  case powerOnReset | coreReset => cases reset
  case configLoadCompletion => exact absurd rfl load
  case configReadCompletion bytes =>
    simp only [State.after, exec, execConfigReadCompletion]
    split
    · next n _ =>
      have placed : SetpointHeld ((s.setPort { s.port with buffer := eightBytes bytes }).setLoad { s.load with
          image := placeBlock n (eightBytes bytes) s.load.image, progress := s.load.progress.received }) := h
      exact placed.portRelease
    · exact h
  case setpointWriteCompletion =>
    simp only [State.after, exec, execSetpointWriteCompletion]
    split
    · refine SetpointHeld.portRelease ?_
      split
      · next stands =>
        refine ⟨h.1, fun nothing => ?_⟩
        rw [show s.stepper.setpoint = none from nothing] at stands
        cases stands
      · exact h
    · exact h
  case hoursWriteCompletion =>
    simp only [State.after, exec, execHoursWriteCompletion]
    split
    · exact h.portRelease
    · exact h
  case statusReadCompletion signature state faultCode fuelDemand =>
    simp only [State.after, exec, execStatusReadCompletion]
    split
    · have judged (x : Port) (port : x = { s.port with
          report := x.report, buffer := x.buffer, governorFault := x.governorFault, badReads := x.badReads
          goodReads := x.goodReads }) : SetpointHeld (s.setPort x) := by
        rw [port]; exact h
      have freed := (judged (Port.judge { s.port with
          report := ⟨signature, state, faultCode, fuelDemand⟩
          buffer := fillBuffer s.port.buffer [signature, state, faultCode, fuelDemand] }
        (GovernorReport.good ⟨signature, state, faultCode, fuelDemand⟩)) (by rw [judge_frame])).portRelease
      split
      · exact freed
      · exact freed.deeds (Deeds.reportCause (r := ⟨[codeGovernorFault], true, []⟩) (Deeds.refl _ (.inl rfl))
          (covers_of_mem (by simp [Scope.codes]) (by decide)) rfl _) (by simp)
    · exact h
  case setpointRefreshExpiry =>
    simp only [State.after, exec, execSetpointRefreshExpiry]
    split
    · next running =>
      have stands : s.stepper.setpoint ≠ none := fun none => by
        rw [(h.2 none).2] at running
        cases running
      have expired : SetpointHeld (s.setPort { s.port with refresh := .expired }) :=
        ⟨h.1, fun none => absurd none stands⟩
      exact expired.portMark _ fun _ => stands
    · exact h
  case governorStatusTimerExpiry =>
    simp only [State.after, exec, execGovernorStatusTimerExpiry]
    split
    · have timed : SetpointHeld (s.setPort { s.port with statusTimer := .running Config.governorStatusMs }) := h
      exact timed.portMark _ fun k => by cases k
    · exact h
  all_goals cases port

/-- The parts of a load after its parameters. -/
abbrev loadTailParts : List Part :=
  [.startRecord, .hours, .txEnabled, .heartbeat, .recovery, .phase, .listen, .layoverCheck, .statusTimer, .minRun]

/-- The load from its second step on (R179). -/
theorem deeds_loadTail (s : State) : Deeds ⟨[codeConfigFault], true, loadTailParts⟩ (loadParameters s)
    (examineInit (startLoadTimers (enableTransmitter (loadHanded s)))) := by
  have start := Deeds.refl (r := ⟨[codeConfigFault], true, loadTailParts⟩) (loadParameters s) (.inl rfl)
  have handed := start.loadHanded (by simp) (by simp [Scope.codes])
  exact ((handed.only (enableTransmitter_only _) (by simp)).only (startLoadTimers_only _) (by simp)).examineInit (by simp) (.inl rfl)

theorem unloaded_of_reading {n : Nat} (h : s.load.progress = .reading n) : s.loaded = false := by rw [State.loaded, h]; rfl

theorem SetpointLaw.configLoadCompletion (h : SetpointLaw s) : SetpointLaw (s.after .configLoadCompletion) := by
  rw [after_configLoadCompletion]
  split
  · next full =>
    have d := deeds_loadTail s
    have init := h.1 (unloaded_of_reading full)
    have parameters : SetpointHeld (loadParameters s) := by
      refine ⟨?_, h.2.2⟩
      show s.stepper.setpoint = setpointOf _ _ s.seq.state
      rw [h.2.1, init]
      rfl
    refine (setpointLaw_iff _).2 ⟨fun unloaded => ?_, parameters.deeds d (by simp)⟩
    rw [d.loaded (by simp)] at unloaded
    cases unloaded
  · exact h

/-- Whether the station has loaded changes at the completion of the load and at a reset alone (R175). -/
theorem loaded_after (s : State) (c : Instr) (reset : isReset c = false) (load : c ≠ .configLoadCompletion) :
    (s.after c).loaded = s.loaded := by
  by_cases port : touchesPort c = true
  · cases c
    case powerOnReset | coreReset => cases reset
    case configLoadCompletion => exact absurd rfl load
    case configReadCompletion bytes =>
      simp only [State.after, exec, execConfigReadCompletion]
      split
      · rw [State.loaded, State.loaded, ((Stepped.refl _).portRelease).load]
        exact loaded_received _
      · rfl
    case setpointWriteCompletion | hoursWriteCompletion | statusReadCompletion | setpointRefreshExpiry
      | governorStatusTimerExpiry =>
      obtain ⟨codes, d⟩ := deeds_after (s := s) (e := true) (.inl rfl) (.inl rfl) _ reset fun _ => rfl
      exact d.loaded (not_mem_of_avoids rfl)
    all_goals cases port
  · obtain ⟨codes, d⟩ := deeds_after (s := s) (e := true) (.inl rfl) (.inl rfl) c reset fun _ => rfl
    obtain ⟨-, -, -, progress⟩ := avoids_setpoint c (Bool.not_eq_true _ ▸ port)
    exact d.loaded (not_mem_of_avoids progress)

/-- Until the load a station stays in INIT (R5). -/
theorem init_after (h : s.loaded = false → s.seq.state = .init) (c : Instr) (reset : isReset c = false)
    (load : c ≠ .configLoadCompletion) (unloaded : (s.after c).loaded = false) : (s.after c).seq.state = .init := by
  rw [loaded_after s c reset load] at unloaded
  obtain ⟨codes, d⟩ := deeds_after (e := false) (.inr (h unloaded)) (.inr unloaded) c reset fun is => absurd is load
  rw [d.state rfl]
  exact h unloaded

theorem SetpointLaw.after (h : SetpointLaw s) (c : Instr) : SetpointLaw (s.after c) := by
  cases reset : isReset c
  case true =>
    obtain ⟨kind, station, rate, ret, eq, -⟩ := after_of_isReset reset s
    rw [eq]
    exact ⟨fun _ => rfl, rfl, fun _ => ⟨rfl, rfl⟩⟩
  by_cases load : c = .configLoadCompletion
  · subst load
    exact h.configLoadCompletion
  obtain ⟨init, held⟩ := (setpointLaw_iff s).1 h
  refine (setpointLaw_iff _).2 ⟨init_after init c reset load, ?_⟩
  by_cases port : touchesPort c = true
  · exact held.portEvent c port reset load
  · obtain ⟨codes, d⟩ := deeds_after (s := s) (e := true) (.inl rfl) (.inl rfl) c reset fun _ => rfl
    obtain ⟨stepper, port', config, -⟩ := avoids_setpoint c (Bool.not_eq_true _ ▸ port)
    exact held.deeds d ⟨not_mem_of_avoids stepper, not_mem_of_avoids port', not_mem_of_avoids config⟩

theorem SetpointLaw.tick (h : SetpointLaw s) : SetpointLaw (Machine.tick s) := by
  obtain ⟨init, table, pending⟩ := h
  refine ⟨init, table, fun nothing => ?_⟩
  obtain ⟨write, refresh⟩ := pending nothing
  refine ⟨write, ?_⟩
  show (s.port.refresh.advance Config.tickMs).isRunning = false
  rw [isRunning_advance]
  exact refresh

end

/-- Settles O8: the setpoint derived afresh at an entry and at a step is the table's, and every other change leaves state, notch,
setpoint and parameters, or comes with the load in INIT, where the setpoint is NONE. -/
theorem setpointFollowsStateAndNotch : Obligations.SetpointFollowsStateAndNotch := by
  intro s t law next
  exact step_keeps (P := SetpointLaw) (fun _ _ h => h) (fun c _ h => h.after c) (fun _ h => h.tick) next law

section
variable {s : State}

/-! ### The proof states (R169) -/

/-- The commands that change a feedback or a proof state on their own. -/
def touchesProof : Instr → Bool
  | .powerOnReset _ | .coreReset _ | .feedbackSample _ _ _ | .feedbackQualification _ | .provingTimerExpiry _ => true
  | _ => false

theorem avoids_proof (c : Instr) (h : touchesProof c = false) : avoids (ownParts c) .proof = true
    ∧ avoids (ownParts c) .feedback = true ∧ avoids (ownParts c) .commands = true := by
  cases c
  case cabLineQualification line => cases line <;> exact ⟨rfl, rfl, rfl⟩
  case analogSample c raw => cases c <;> exact ⟨rfl, rfl, rfl⟩
  case powerOnReset | coreReset | feedbackSample | feedbackQualification | provingTimerExpiry => cases h
  all_goals exact ⟨rfl, rfl, rfl⟩

theorem sample_lawful {p : Proving} {command : Bool} (h : p.lawful command) (closed : Bool) :
    (p.sample closed).lawful command := by
  unfold Proving.sample QualifiedInput.sample
  split <;> exact h

theorem ProvingLaw.setProving (h : ProvingLaw s) (o : ProvedOutput) {p : Proving} (lawful : p.lawful (s.command o)) :
    ProvingLaw (s.setProving o p) := by
  rw [provingLaw_iff] at h ⊢
  intro o'
  rw [setProving_proving, setProving_command]
  split
  · next same => exact same ▸ lawful
  · exact h o'

theorem ProvingLaw.feedbackSample (h : ProvingLaw s) (crank fuel prelube : Bool) :
    ProvingLaw (s.after (.feedbackSample crank fuel prelube)) := by
  rw [provingLaw_iff] at h ⊢
  intro o
  cases o
  · exact sample_lawful (h .crank) crank
  · exact sample_lawful (h .fuel) fuel
  · exact sample_lawful (h .prelube) prelube

/-- A settled input that qualifies no level reads as it did. -/
theorem settled_of_not_qualifies {q : QualifiedInput} (h : q.qualifies = false) :
    q.settled.qualified = q.qualified ∧ q.settled.qualifiedYet = q.qualifiedYet := by
  unfold QualifiedInput.qualifies at h
  simp only [Bool.or_eq_false_iff, bne_eq_false_iff_eq, Bool.not_eq_false'] at h
  exact ⟨h.1, h.2.symm⟩

theorem ProvingLaw.feedbackQualification (h : ProvingLaw s) (o : ProvedOutput) :
    ProvingLaw (s.after (.feedbackQualification o)) := by
  have lawful := (provingLaw_iff s).1 h o
  have settled : (s.setProving o { s.out.proving o with feedback := (s.out.proving o).feedback.settled }).out.proving o
      = { s.out.proving o with feedback := (s.out.proving o).feedback.settled } := by rw [setProving_proving, if_pos rfl]
  simp only [State.after, exec, execFeedbackQualification]
  split
  case isFalse => exact h
  split
  case isFalse unqualified =>
    refine h.setProving o ?_
    obtain ⟨level, yet⟩ := settled_of_not_qualifies (Bool.not_eq_true _ ▸ unqualified)
    rw [Proving.lawful, QualifiedInput.matchesCommand, level, yet]
    exact lawful
  have set (p : Proving) (ok : p.lawful (s.command o)) :
      ProvingLaw ((s.setProving o { s.out.proving o with feedback := (s.out.proving o).feedback.settled }).setProving o p) := by
    have again : (s.setProving o { s.out.proving o with feedback := (s.out.proving o).feedback.settled }).setProving o p
        = s.setProving o p := by cases o <;> rfl
    rw [again]
    exact h.setProving o ok
  unfold feedbackQualified
  dsimp only
  rw [settled, setProving_command]
  split
  · next agrees =>
    have agreed := set { s.out.proving o with
      feedback := (s.out.proving o).feedback.settled, proof := .agree, timer := .stopped }
      ⟨by simp [agrees], by simp [Timer.isRunning]⟩
    split
    · exact agreed.of_same (fun _ => ((Quiet.refl _).reportGone _).proving _) (fun _ => ((Quiet.refl _).reportGone _).command _)
    · exact agreed
  · next differs =>
    split
    · exact set { s.out.proving o with
        feedback := (s.out.proving o).feedback.settled, proof := .proving, timer := .running Config.provingMs }
        ⟨by simp [differs], by simp [Timer.isRunning]⟩
    · next other =>
      refine h.setProving o ⟨?_, lawful.2⟩
      simp [other, differs]

theorem ProvingLaw.provingTimerExpiry (h : ProvingLaw s) (o : ProvedOutput) :
    ProvingLaw (s.after (.provingTimerExpiry o)) := by
  have lawful := (provingLaw_iff s).1 h o
  simp only [State.after, exec, execProvingTimerExpiry]
  split
  · next running =>
    have proving := lawful.2.1 running
    have mismatch : (s.out.proving o).feedback.matchesCommand (s.command o) = false := by
      rw [Bool.eq_false_iff]
      intro agrees
      rw [lawful.1.2 agrees] at proving
      cases proving
    have expired : ProvingLaw (s.setProving o { s.out.proving o with proof := .disagree, timer := .expired }) :=
      h.setProving o ⟨by simp [mismatch], by simp [Timer.isRunning]⟩
    exact expired.deeds (Deeds.reportPresent (r := ⟨[codeFailToStart], true, [.rest]⟩) (Deeds.refl _ (.inl rfl))
      ⟨mem_codes_of_entry (mismatchCode_mem_entryCodes _ _), fun _ => by simp [Scope.codes]⟩ (mismatchCode_isCode _ _)) (by simp)
  · exact h

theorem ProvingLaw.after (h : ProvingLaw s) (c : Instr) : ProvingLaw (s.after c) := by
  cases reset : isReset c
  case true =>
    obtain ⟨kind, station, rate, ret, eq, -⟩ := after_of_isReset reset s
    rw [eq, provingLaw_iff]
    intro o
    cases o <;> exact ⟨by simp [OutputStage.proving, State.afterReset, Proving.atReset, QualifiedInput.matchesCommand,
      QualifiedInput.atReset], by simp [OutputStage.proving, State.afterReset, Proving.atReset, Timer.isRunning]⟩
  cases own : touchesProof c
  · obtain ⟨codes, d⟩ := deeds_after (s := s) (e := true) (.inl rfl) (.inl rfl) c reset fun _ => rfl
    obtain ⟨proof, feedback, commands⟩ := avoids_proof c own
    exact h.deeds d ⟨not_mem_of_avoids proof, not_mem_of_avoids feedback, not_mem_of_avoids commands⟩
  · cases c
    case powerOnReset | coreReset => cases reset
    case feedbackSample crank fuel prelube => exact h.feedbackSample crank fuel prelube
    case feedbackQualification o => exact h.feedbackQualification o
    case provingTimerExpiry o => exact h.provingTimerExpiry o
    all_goals cases own

theorem tick_lawful {p : Proving} {command : Bool} (h : p.lawful command) : p.tick.lawful command := by
  refine ⟨h.1, ?_⟩
  show (p.timer.advance Config.tickMs).isRunning = true ↔ _
  rw [isRunning_advance]
  exact h.2

theorem ProvingLaw.tick (h : ProvingLaw s) : ProvingLaw (Machine.tick s) := by
  rw [provingLaw_iff] at h ⊢
  intro o
  cases o
  · exact tick_lawful (h .crank)
  · exact tick_lawful (h .fuel)
  · exact tick_lawful (h .prelube)

end

/-- Settles O9: a command set proves the changed outputs anew, the feedback's own events go by R169's rows, and no other change
touches proof state, feedback or command. -/
theorem proofStatesFollowCommandAndFeedback : Obligations.ProofStatesFollowCommandAndFeedback := by
  intro s t law next
  exact step_keeps (P := ProvingLaw) (fun _ _ h => h) (fun c _ h => h.after c) (fun _ h => h.tick) next law

end Sys2Proof.Machine
end


section
/-! Condition set, derate factor and capacity under every step (R151, R152, R157), and the factor as the smallest of base factor and
caps. -/

namespace Sys2Proof.Machine

section
variable {s : State}

/-- The commands that change on their own what F and C are computed from, or whether the station has loaded. -/
def touchesDerate : Instr → Bool
  | .powerOnReset _ | .coreReset _ | .configReadCompletion _ | .configLoadCompletion | .analogSample .coolant _ => true
  | _ => false

theorem avoids_derate (c : Instr) (h : touchesDerate c = false) : avoids (ownParts c) .derate = true
    ∧ avoids (ownParts c) .coolant = true ∧ avoids (ownParts c) .conditions = true ∧ avoids (ownParts c) .config = true
    ∧ avoids (ownParts c) .progress = true := by
  cases c
  case cabLineQualification line => cases line <;> exact ⟨rfl, rfl, rfl, rfl, rfl⟩
  case analogSample channel raw =>
    cases channel
    · cases h
    all_goals exact ⟨rfl, rfl, rfl, rfl, rfl⟩
  case powerOnReset | coreReset | configReadCompletion | configLoadCompletion => cases h
  all_goals exact ⟨rfl, rfl, rfl, rfl, rfl⟩

theorem freshLaw_afterReset (kind : ResetKind) (station rate : Nat) (ret : RetainedStore) (q : List Instr) :
    FreshLaw (State.afterReset kind station rate ret q) := by
  refine ⟨⟨List.Pairwise.nil, nofun⟩, ⟨⟨?_, ?_⟩, Nat.zero_le _, fun _ => rfl, fun k => ?_⟩, nofun⟩
  · show 64 ≤ 256
    decide
  · show 256 ≤ 256
    decide
  · show 64 ≤ (Vector.replicate 12 RoutingEntry.atReset)[k].derate
    rw [Fin.getElem_fin, Vector.getElem_replicate]
    decide

theorem derateLaw_loadParameters (h : DerateLaw s) (unloaded : s.loaded = false) : DerateLaw (loadParameters s) := by
  obtain ⟨range, -, zero, routing⟩ := h
  refine ⟨range, ?_, fun un => absurd ((loaded_loadParameters s).symm.trans un) nofun, fun k => ?_⟩
  · show s.mon.capacity ≤ _
    rw [zero unloaded]
    exact Nat.zero_le _
  · show 64 ≤ (if markerGood s.load.image then routingOf s.load.image else s.mon.routing)[k].derate
    split
    · simp only [routingOf, Fin.getElem_fin, Vector.getElem_ofFn, routingEntryOf, clampTo]
      omega
    · exact routing k

theorem FreshLaw.configLoadCompletion (h : FreshLaw s) : FreshLaw (s.after .configLoadCompletion) := by
  rw [after_configLoadCompletion]
  split
  · next full =>
    obtain ⟨members, derate, -⟩ := h
    have before := (Moves.refl (loadParameters s)).loadHours.judgeConfig
    have computed := FreshLaw.computeDerate (before.conditionLaw members)
      (before.derateLaw (derateLaw_loadParameters derate (unloaded_of_reading full)))
    have started := Deeds.refl (r := ⟨[], true, loadTailParts⟩)
      (Machine.computeDerate (judgeConfig (loadHours (loadParameters s)))) (.inl rfl)
    have timed := ((started.unmaskInputs false).only (enableTransmitter_only _) (by simp)).only (startLoadTimers_only _) (by simp)
    exact computed.deeds (timed.examineInit (by simp) (.inl rfl)) (by simp)
  · exact h

theorem FreshLaw.configReadCompletion (h : FreshLaw s) (bytes : List Byte) :
    FreshLaw (s.after (.configReadCompletion bytes)) := by
  have parts := only_configReadCompletion bytes s
  refine h.of_mon ?_ ?_ (loaded_after s _ rfl nofun)
  · simp only [State.after, exec, execConfigReadCompletion]
    split
    · exact ((Stepped.refl _).portRelease).mon
    · rfl
  · exact congrArg Prod.fst (parts .config (by simp) : (_ : Part.config.Value) = _)

/-- A coolant value: F and C are computed before the overtemperature tests (R145, R151). -/
theorem FreshLaw.coolantSample (h : FreshLaw s) (raw : Nat) : FreshLaw (s.after (.analogSample .coolant raw)) := by
  obtain ⟨members, derate, -⟩ := h
  have sampled := (Moves.refl s).setChannel .coolant ((s.mon.channel .coolant).sample .coolant raw)
  have told := Moves.ite (c := ((s.mon.channel .coolant).sample .coolant raw).fault = (s.mon.channel .coolant).fault) sampled
    (sampled.reportCause (sensorCode_isCode .coolant) ((s.mon.channel .coolant).sample .coolant raw).fault)
  have before := told.examineWarm.coldRunRecovery
  have computed := FreshLaw.computeDerate (before.conditionLaw members) (before.derateLaw derate)
  refine computed.deeds (Deeds.overtempTests (r := ⟨channelCodes .coolant, true, []⟩) (Deeds.refl _ (.inl rfl)) ?_ ?_) (by simp)
  · simp [Scope.codes, channelCodes]
  · simp [Scope.codes, channelCodes]

theorem FreshLaw.after (h : FreshLaw s) (c : Instr) : FreshLaw (s.after c) := by
  cases reset : isReset c
  case true =>
    obtain ⟨kind, station, rate, ret, eq, -⟩ := after_of_isReset reset s
    rw [eq]
    exact freshLaw_afterReset ..
  cases own : touchesDerate c
  · obtain ⟨codes, d⟩ := deeds_after (s := s) (e := true) (.inl rfl) (.inl rfl) c reset fun _ => rfl
    obtain ⟨derate, coolant, conditions, config, progress⟩ := avoids_derate c own
    exact h.deeds d ⟨not_mem_of_avoids derate, not_mem_of_avoids coolant, not_mem_of_avoids conditions,
      not_mem_of_avoids config, not_mem_of_avoids progress⟩
  · cases c
    case powerOnReset | coreReset => cases reset
    case configReadCompletion bytes => exact h.configReadCompletion bytes
    case configLoadCompletion => exact h.configLoadCompletion
    case analogSample channel raw =>
      cases channel
      · exact h.coolantSample raw
      all_goals cases own
    all_goals cases own

theorem FreshLaw.tick (h : FreshLaw s) : FreshLaw (Machine.tick s) := by
  obtain ⟨⟨rising, codes⟩, derate, fresh⟩ := h
  have same : (s.mon.conditions.map Member.tick).map (·.code) = s.mon.conditions.map (·.code) := by
    rw [List.map_map]; rfl
  refine ⟨⟨?_, fun m hm => ?_⟩, derateLaw_of_same derate rfl rfl rfl rfl rfl, ?_⟩
  · show ((s.mon.conditions.map Member.tick).map (·.code)).Pairwise _
    rw [same]; exact rising
  · obtain ⟨m', hm', rfl⟩ := List.mem_map.1 (show m ∈ s.mon.conditions.map Member.tick from hm)
    exact codes m' hm'
  · refine derateFresh_of_same fresh rfl rfl (derateFactor_congr rfl rfl ?_ fun f => ?_) rfl rfl
    · show (s.mon.conditions.map Member.tick).any _ = _
      rw [List.any_map]; rfl
    · show (s.mon.conditions.map Member.tick).foldl _ _ = _
      rw [List.foldl_map]; rfl

/-! ### The factor as the smallest of base factor and caps (R151) -/

theorem inputIndex_succ (k : Fin 12) : inputIndex (k.val + 1) = some k := by
  unfold inputIndex
  rw [dif_pos (by omega)]
  rfl

theorem eq_of_inputIndex {code : Nat} {k : Fin 12} (h : inputIndex code = some k) : code = k.val + 1 := by
  unfold inputIndex at h
  split at h
  · cases h
    simp only
    omega
  · cases h

/-- One of the members is of class DERATE with derate value `n` (R151, R156). -/
def Capped (routing : Vector RoutingEntry 12) (members : List Member) (n : Nat) : Prop :=
  ∃ m ∈ members, m.cls = .derate ∧ ∃ k : Fin 12, m.code = k.val + 1 ∧ n = routing[k].derate

theorem Capped.cons {routing : Vector RoutingEntry 12} {members : List Member} {n : Nat} (h : Capped routing members n)
    (m : Member) : Capped routing (m :: members) n := by
  obtain ⟨x, mem, rest⟩ := h
  exact ⟨x, List.mem_cons_of_mem m mem, rest⟩

/-- One member caps F by its derate value, or leaves it (R151). -/
theorem derateCap_cases (routing : Vector RoutingEntry 12) (f : Nat) (m : Member) :
    (∃ k : Fin 12, m.cls = .derate ∧ m.code = k.val + 1 ∧ derateCap routing f m = min f routing[k].derate)
      ∨ derateCap routing f m = f ∧ ∀ n, ¬ Capped routing [m] n := by
  unfold derateCap
  by_cases cls : m.cls = .derate
  · rw [if_pos cls]
    split
    · next k found => exact .inl ⟨k, cls, eq_of_inputIndex found, rfl⟩
    · next missing =>
      refine .inr ⟨rfl, ?_⟩
      rintro n ⟨x, mem, -, k, code, -⟩
      rw [List.mem_singleton.1 mem] at code
      rw [code, inputIndex_succ] at missing
      cases missing
  · rw [if_neg cls]
    refine .inr ⟨rfl, ?_⟩
    rintro n ⟨x, mem, derate, -⟩
    exact cls (List.mem_singleton.1 mem ▸ derate)

/-- All the members together cap F by the smallest of their derate values (R151). -/
theorem derateCap_foldl (routing : Vector RoutingEntry 12) (members : List Member) (f : Nat) :
    members.foldl (derateCap routing) f ≤ f
      ∧ (∀ n, Capped routing members n → members.foldl (derateCap routing) f ≤ n)
      ∧ (members.foldl (derateCap routing) f = f
        ∨ Capped routing members (members.foldl (derateCap routing) f)) := by
  induction members generalizing f with
  | nil =>
    refine ⟨le_rfl, ?_, .inl rfl⟩
    rintro n ⟨m, mem, -⟩
    cases mem
  | cons m members ih =>
    rw [List.foldl_cons]
    obtain ⟨below, caps, attained⟩ := ih (derateCap routing f m)
    obtain ⟨k, cls, code, eq⟩ | ⟨eq, uncapped⟩ := derateCap_cases routing f m
    · have first : Capped routing (m :: members) routing[k].derate := ⟨m, List.mem_cons_self, cls, k, code, rfl⟩
      refine ⟨below.trans (eq ▸ min_le_left _ _), ?_, ?_⟩
      · rintro n ⟨x, mem, derate, j, xcode, rfl⟩
        rcases List.mem_cons.1 mem with rfl | mem
        · have same : j = k := Fin.ext (by omega)
          exact same ▸ below.trans (eq ▸ min_le_right _ _)
        · exact caps _ ⟨x, mem, derate, j, xcode, rfl⟩
      · rcases attained with same | capped
        · rw [same, eq]
          rcases min_choice f routing[k].derate with left | right
          · exact .inl left
          · exact .inr (by rw [right]; exact first)
        · exact .inr (capped.cons m)
    · rw [eq] at below caps attained ⊢
      refine ⟨below, ?_, attained.imp_right fun capped => capped.cons m⟩
      rintro n ⟨x, mem, derate⟩
      rcases List.mem_cons.1 mem with rfl | mem
      · exact absurd ⟨x, List.mem_singleton_self x, derate⟩ (uncapped n)
      · exact caps n ⟨x, mem, derate⟩

theorem hasCode_iff (members : List Member) (code : Nat) : hasCode members code = true ↔ ∃ m ∈ members, m.code = code := by
  simp [hasCode]

/-- F is the smallest of the base factor, of 128 while COOLANT_SENSOR is in the set, and of the derate values (R151). -/
theorem derateFactor_smallest (s : State) :
    s.derateFactor ≤ baseFactor s.params s.mon.coolant.value
      ∧ ((∃ m ∈ s.mon.conditions, m.code = 16) → s.derateFactor ≤ 128)
      ∧ (∀ n, Capped s.mon.routing s.mon.conditions n → s.derateFactor ≤ n)
      ∧ (s.derateFactor = baseFactor s.params s.mon.coolant.value
        ∨ (∃ m ∈ s.mon.conditions, m.code = 16) ∧ s.derateFactor = 128
        ∨ Capped s.mon.routing s.mon.conditions s.derateFactor) := by
  have fault := hasCode_iff s.mon.conditions codeCoolantSensor
  unfold State.derateFactor
  dsimp only
  split
  · next sensor =>
    obtain ⟨below, caps, attained⟩ := derateCap_foldl s.mon.routing s.mon.conditions
      (min (baseFactor s.params s.mon.coolant.value) Config.sensorFaultCap)
    refine ⟨below.trans (min_le_left _ _), fun _ => below.trans (min_le_right _ _), caps, ?_⟩
    rcases attained with same | capped
    · rcases min_choice (baseFactor s.params s.mon.coolant.value) Config.sensorFaultCap with left | right
      · exact .inl (same.trans left)
      · exact .inr (.inl ⟨fault.1 sensor, same.trans right⟩)
    · exact .inr (.inr capped)
  · next absent =>
    obtain ⟨below, caps, attained⟩ := derateCap_foldl s.mon.routing s.mon.conditions (baseFactor s.params s.mon.coolant.value)
    exact ⟨below, fun present => absurd (fault.2 present) absent, caps, attained.imp_right .inr⟩

end

/-- Settles O5: every chain of deeds keeps set, factor and capacity in step, since a member of class DERATE and COOLANT_SENSOR are
handed on and the load and a coolant value compute both afresh; the factor is a fold of minima over the members. -/
theorem derateCapacityAndConditionsStayLawful : Obligations.DerateCapacityAndConditionsStayLawful := by
  refine ⟨fun s t members derate fresh next => ?_, fun s => derateFactor_smallest s⟩
  exact step_keeps (P := FreshLaw) (fun _ _ h => h) (fun c _ h => h.after c) (fun _ h => h.tick) next ⟨members, derate, fresh⟩

end Sys2Proof.Machine
end


section
/-! Facts of arithmetic: the check (R46), the peer majority (R83), the shares of one consist (R100). -/

namespace Sys2Proof.Machine

/-! ### The check (R46) -/

/-- What a bit that differs from the register's first one puts into the register. -/
def crcFeed (r : Byte) (b : Bool) : Byte := if r.msb = b then 0 else 0b00000111#8

theorem crcStep_eq (r : Byte) (b : Bool) : crcStep r b = (r <<< 1) ^^^ crcFeed r b := by
  unfold crcStep crcFeed
  by_cases same : r.msb = b
  · simp [same]
  · simp [same]

/-- The register's last bit after a step says whether the bit taken in differed from the register's first one. -/
theorem crcStep_last (r : Byte) (b : Bool) : (crcStep r b).getLsbD 0 = (r.msb != b) := by
  rw [crcStep_eq, BitVec.getLsbD_xor, BitVec.getLsbD_shiftLeft]
  unfold crcFeed
  by_cases same : r.msb = b
  · simp [same]
  · simp [same]

theorem shiftLeft_inj {r q : Byte} (first : r.msb = q.msb) (h : r <<< 1 = q <<< 1) : r = q := by
  refine BitVec.eq_of_getLsbD_eq fun i hi => ?_
  by_cases top : i = 7
  · rw [BitVec.msb_eq_getLsbD_last, BitVec.msb_eq_getLsbD_last] at first
    exact top ▸ first
  · have bit := congrArg (fun x : Byte => x.getLsbD (i + 1)) h
    simp only [BitVec.getLsbD_shiftLeft, show i + 1 < 8 by omega, Nat.add_sub_cancel, show ¬ i + 1 < 1 by omega] at bit
    simpa using bit

theorem crcStep_inj {r q : Byte} {b : Bool} (h : crcStep r b = crcStep q b) : r = q := by
  have last := congrArg (fun x : Byte => x.getLsbD 0) h
  simp only [crcStep_last] at last
  have first : r.msb = q.msb := by
    generalize r.msb = x at last ⊢
    generalize q.msb = y at last ⊢
    revert last
    cases x <;> cases y <;> cases b <;> decide
  refine shiftLeft_inj first ?_
  rw [crcStep_eq, crcStep_eq, crcFeed, crcFeed, first] at h
  simpa using h

theorem crcFold_inj {r q : Byte} (bits : List Bool) (h : bits.foldl crcStep r = bits.foldl crcStep q) : r = q := by
  induction bits generalizing r q with
  | nil => exact h
  | cons b bits ih => exact crcStep_inj (ih h)

/-- Settles O17: the differing bits leave registers that differ in their last bit, and every later step is one to one. -/
theorem checkTellsOneBitErrors : Obligations.CheckTellsOneBitErrors := by
  intro before after b h
  simp only [crc, List.foldl_append, List.foldl_cons] at h
  have last := congrArg (fun x : Byte => x.getLsbD 0) (crcFold_inj after h)
  simp only [crcStep_last] at last
  revert last
  generalize (before.foldl crcStep 0xFF#8).msb = m
  cases m <;> cases b <;> decide

/-! ### The peer majority (R83) -/

/-- The greatest of a list and a start value. -/
theorem foldl_max_greatest (l : List Nat) (a : Nat) :
    a ≤ l.foldl max a ∧ (∀ n ∈ l, n ≤ l.foldl max a) ∧ (l.foldl max a = a ∨ l.foldl max a ∈ l) := by
  induction l generalizing a with
  | nil => exact ⟨le_rfl, nofun, .inl rfl⟩
  | cons x l ih =>
    rw [List.foldl_cons]
    obtain ⟨start, all, attained⟩ := ih (max a x)
    refine ⟨(le_max_left a x).trans start, ?_, ?_⟩
    · intro n mem
      rcases List.mem_cons.1 mem with rfl | mem
      · exact (le_max_right a n).trans start
      · exact all n mem
    · rcases attained with same | mem
      · rcases max_choice a x with left | right
        · exact .inl (same.trans left)
        · exact .inr (List.mem_cons.2 (.inl (same.trans right)))
      · exact .inr (List.mem_cons_of_mem x mem)

theorem majority_none {tally : List Nat} (h : ∀ n ∈ tally, n = 0) : majority tally = none := by
  obtain ⟨-, -, attained⟩ := foldl_max_greatest tally 0
  exact if_pos (attained.elim id (h _))

theorem majority_lowest {tally : List Nat} (h : ∃ n ∈ tally, 0 < n) : ∃ e, majority tally = some e ∧ e < tally.length
    ∧ (∀ n ∈ tally, n ≤ tally.getD e 0) ∧ ∀ k, k < e → tally.getD k 0 < tally.getD e 0 := by
  obtain ⟨-, all, attained⟩ := foldl_max_greatest tally 0
  obtain ⟨n, mem, positive⟩ := h
  have top : tally.foldl max 0 ≠ 0 := by
    have := all n mem
    omega
  have there : tally.foldl max 0 ∈ tally := attained.resolve_left top
  cases found : tally.findIdx? (· == tally.foldl max 0) with
  | none =>
    have absent := List.findIdx?_eq_none_iff.1 found _ there
    simp at absent
  | some e =>
    obtain ⟨inside, is, before⟩ := List.findIdx?_eq_some_iff_getElem.1 found
    have value : tally.getD e 0 = tally.foldl max 0 := by
      rw [List.getD_eq_getElem _ _ inside]
      exact beq_iff_eq.1 is
    refine ⟨e, (if_neg top).trans found, inside, fun n mem => value ▸ all n mem, fun k below => ?_⟩
    have insideK : k < tally.length := below.trans inside
    have other : tally[k] ≠ tally.foldl max 0 := by simpa using before k below
    rw [value, List.getD_eq_getElem _ _ insideK]
    exact lt_of_le_of_ne (all _ (List.getElem_mem insideK)) other

/-- Settles O19: the greatest count is attained where there is one above zero, and the search finds its first place. -/
theorem majorityIsTheLowestOfTheMostFrequent : Obligations.MajorityIsTheLowestOfTheMostFrequent :=
  fun _ => ⟨majority_none, majority_lowest⟩

/-! ### The shares of one consist (R100) -/

/-- Division rounded up, multiplied out. -/
theorem ceilDiv_mul_bounds (a : Nat) {b : Nat} (positive : 0 < b) : a ≤ ceilDiv a b * b ∧ ceilDiv a b * b ≤ a + (b - 1) := by
  unfold ceilDiv
  have split := Nat.div_add_mod (a + (b - 1)) b
  have rest := Nat.mod_lt (a + (b - 1)) positive
  rw [Nat.mul_comm] at split
  omega

/-- The parts of one demand, each rounded up, cover it and exceed it by less than 1 kW each. -/
theorem ceilDiv_sum_bounds (d : Nat) {total : Nat} (positive : 0 < total) (l : List Nat) :
    d * l.sum ≤ (l.map fun c => ceilDiv (d * c) total).sum * total
      ∧ (l.map fun c => ceilDiv (d * c) total).sum * total ≤ d * l.sum + l.length * (total - 1) := by
  induction l with
  | nil => simp
  | cons c l ih =>
    obtain ⟨low, high⟩ := ceilDiv_mul_bounds (d * c) positive
    obtain ⟨lower, upper⟩ := ih
    simp only [List.map_cons, List.sum_cons, List.length_cons, Nat.mul_add, Nat.add_mul]
    omega

/-- Settles O27: multiplied by S_load the shares lie between D × S_load and D × S_load + m × (S_load − 1). -/
theorem sharesTogetherCoverTheDemand : Obligations.SharesTogetherCoverTheDemand := by
  intro capacities d positive covers
  have shares : (capacities.map fun c => shareOf d c capacities.sum 0 false)
      = capacities.map fun c => ceilDiv (d * c) capacities.sum :=
    List.map_congr_left fun c _ => shareOf_part (by omega) covers
  have total : 0 < capacities.sum := by omega
  have some : 0 < capacities.length := by
    cases capacities with
    | nil => simp at total
    | cons => simp
  obtain ⟨low, high⟩ := ceilDiv_sum_bounds d total capacities
  rw [shares]
  generalize (capacities.map fun c => ceilDiv (d * c) capacities.sum).sum = sum at low high
  refine ⟨Nat.le_of_mul_le_mul_right low total, ?_⟩
  have below : sum * capacities.sum < (d + capacities.length) * capacities.sum := by
    calc sum * capacities.sum ≤ d * capacities.sum + capacities.length * (capacities.sum - 1) := high
      _ < d * capacities.sum + capacities.length * capacities.sum :=
        Nat.add_lt_add_left (Nat.mul_lt_mul_of_pos_left (by omega) some) _
      _ = (d + capacities.length) * capacities.sum := (Nat.add_mul _ _ _).symm
  have := Nat.lt_of_mul_lt_mul_right below
  omega

end Sys2Proof.Machine
end


section
/-! The layouts of frames (R49, R50, R187) and which frames are good (R45 to R48). -/

namespace Sys2Proof.Machine

/-! ### Bytes and fields -/

@[simp] theorem byteOf_toNat (n : Nat) : (byteOf n).toNat = n % 256 := BitVec.toNat_ofNat n 8

/-- The number of the state's code, at most 13 (R2). -/
theorem code_le (st : EngineState) : st.code ≤ 13 := by cases st <;> decide

theorem ofCode_code (st : EngineState) : EngineState.ofCode st.code = some st := by cases st <;> rfl

theorem ofCode_isSome_iff (n : Nat) : (EngineState.ofCode n).isSome = true ↔ n ≤ 13 := by
  by_cases low : n ≤ 13
  · interval_cases n <;> decide
  · have high : EngineState.ofCode n = none := by
      unfold EngineState.ofCode
      split <;> first | omega | rfl
    simp [high, low]

/-- The seven flags of a STATUS come back from the flag byte (R187). -/
theorem flagBits_testBit : ∀ e c a n w r u : Bool,
    let flags := (bit e * 128 + bit c * 64 + bit a * 32 + bit n * 16 + bit w * 8 + bit r * 4 + bit u * 2) % 256
    flags.testBit 7 = e ∧ flags.testBit 6 = c ∧ flags.testBit 5 = a ∧ flags.testBit 4 = n ∧ flags.testBit 3 = w
      ∧ flags.testBit 2 = r ∧ flags.testBit 1 = u := by decide

theorem inRange_iff (r : StatusRecord) : r.inRange = true ↔ r.notch ≤ 8 ∧ r.target ≤ 8 ∧ r.capacity ≤ 2000 ∧ r.bucket ≤ 15625
    ∧ (r.demand ≤ 8 ∨ r.demand = 15) ∧ (r.summary ≤ 12 ∨ 16 ≤ r.summary ∧ r.summary ≤ 36) ∧ r.claimRemaining ≤ 255 := by
  simp only [StatusRecord.inRange, summaryInRange, Bool.and_eq_true, Bool.or_eq_true, decide_eq_true_eq, beq_iff_eq, and_assoc]

/-- The record at the places of R187, before its fields are judged. -/
def statusAt (st : EngineState) (data : List Byte) : StatusRecord :=
  { state := st
    notch := dataByte data 1 % 16
    target := dataByte data 2 / 16
    capacity := dataWord data 3 % 2048
    bucket := dataWord data 5 % 16384
    eligible := (dataByte data 7).testBit 7
    claimHeld := (dataByte data 7).testBit 6
    alone := (dataByte data 7).testBit 5
    batteryNeed := (dataByte data 7).testBit 4
    coldRun := (dataByte data 7).testBit 3
    alarmActive := (dataByte data 7).testBit 2
    runSeen := (dataByte data 7).testBit 1
    demand := dataByte data 2 % 16
    summary := dataByte data 8 % 64
    claimRemaining := dataByte data 9 }

theorem decodeStatus_eq (data : List Byte) : decodeStatus data = (EngineState.ofCode (dataByte data 1 / 16)).bind
    fun st => if (statusAt st data).inRange then some (statusAt st data) else none := by
  unfold decodeStatus
  cases EngineState.ofCode (dataByte data 1 / 16) <;> rfl

theorem statusAt_encodeStatus {r : StatusRecord} (range : r.inRange = true) :
    dataByte (encodeStatus r) 1 / 16 = r.state.code ∧ statusAt r.state (encodeStatus r) = r := by
  obtain ⟨notch, target, capacity, bucket, demand, summary, remaining⟩ := (inRange_iff r).1 range
  have code := code_le r.state
  obtain ⟨e, c, a, n, w, al, u⟩ :=
    flagBits_testBit r.eligible r.claimHeld r.alone r.batteryNeed r.coldRun r.alarmActive r.runSeen
  have bytes : encodeStatus r = [byteOf (r.state.code * 16 + r.notch), byteOf (r.target * 16 + r.demand),
    byteOf (r.capacity / 256), byteOf r.capacity, byteOf (r.bucket / 256), byteOf r.bucket,
    byteOf r.flagByte, byteOf r.summary, byteOf r.claimRemaining, 0] := rfl
  have b1 : dataByte (encodeStatus r) 1 = r.state.code * 16 + r.notch := by
    simp only [bytes, dataByte, Nat.sub_self, List.getD_cons_zero, byteOf_toNat]; omega
  have b2 : dataByte (encodeStatus r) 2 = r.target * 16 + r.demand := by
    simp only [bytes, dataByte, Nat.reduceSub, List.getD_cons_succ, List.getD_cons_zero, byteOf_toNat]; omega
  have w3 : dataWord (encodeStatus r) 3 = r.capacity := by
    simp only [bytes, dataWord, dataByte, Nat.reduceSub, Nat.reduceAdd, List.getD_cons_succ, List.getD_cons_zero, byteOf_toNat]
    omega
  have w5 : dataWord (encodeStatus r) 5 = r.bucket := by
    simp only [bytes, dataWord, dataByte, Nat.reduceSub, Nat.reduceAdd, List.getD_cons_succ, List.getD_cons_zero, byteOf_toNat]
    omega
  have b7 : dataByte (encodeStatus r) 7 = r.flagByte % 256 := by
    simp only [bytes, dataByte, Nat.reduceSub, List.getD_cons_succ, List.getD_cons_zero, byteOf_toNat]
  have b8 : dataByte (encodeStatus r) 8 = r.summary := by
    simp only [bytes, dataByte, Nat.reduceSub, List.getD_cons_succ, List.getD_cons_zero, byteOf_toNat]; omega
  have b9 : dataByte (encodeStatus r) 9 = r.claimRemaining := by
    simp only [bytes, dataByte, Nat.reduceSub, List.getD_cons_succ, List.getD_cons_zero, byteOf_toNat]; omega
  refine ⟨by rw [b1]; omega, ?_⟩
  unfold statusAt
  rw [b1, b2, w3, w5, b7, b8, b9, StatusRecord.flagByte, e, c, a, n, w, al, u,
    show (r.state.code * 16 + r.notch) % 16 = r.notch by omega, show (r.target * 16 + r.demand) / 16 = r.target by omega,
    show (r.target * 16 + r.demand) % 16 = r.demand by omega, Nat.mod_eq_of_lt (show r.capacity < 2048 by omega),
    Nat.mod_eq_of_lt (show r.bucket < 16384 by omega), Nat.mod_eq_of_lt (show r.summary < 64 by omega)]

theorem decodeStatus_encodeStatus {r : StatusRecord} (range : r.inRange = true) : decodeStatus (encodeStatus r) = some r := by
  obtain ⟨code, same⟩ := statusAt_encodeStatus range
  rw [decodeStatus_eq, code, ofCode_code, Option.bind_some, same, if_pos range]

theorem decodeClaim_encodeClaim {c : ClaimFields} (low : 20 ≤ c.crankLimit) (high : c.crankLimit ≤ 250) (first : 1 ≤ c.attempt)
    (last : c.attempt ≤ 5) : decodeClaim (encodeClaim c) = some c := by
  have limit : dataByte (encodeClaim c) 1 = c.crankLimit := by
    simp only [encodeClaim, dataByte, Nat.sub_self, List.getD_cons_zero, byteOf_toNat]; omega
  have attempt : dataByte (encodeClaim c) 2 = c.attempt := by
    simp only [encodeClaim, dataByte, Nat.reduceSub, List.getD_cons_succ, List.getD_cons_zero, byteOf_toNat]; omega
  unfold decodeClaim
  rw [limit, attempt]
  exact if_pos ⟨low, high, first, last⟩

theorem decodeRelease_code (o : ReleaseOutcome) : decodeRelease [byteOf o.code] = some o := by cases o <;> rfl

/-- Settles O15: every field has its own bits of the ten bytes, wide enough for its range. -/
theorem frameFieldsSurviveTheirLayout : Obligations.FrameFieldsSurviveTheirLayout :=
  ⟨fun _ range => ⟨decodeStatus_encodeStatus range, rfl⟩,
    fun _ low high first last => decodeClaim_encodeClaim low high first last, decodeRelease_code⟩

/-! ### The judgement of a frame (R48) -/

theorem decodeStatus_isSome_iff (data : List Byte) : (decodeStatus data).isSome = true ↔ StatusFields data := by
  have code := ofCode_isSome_iff (dataByte data 1 / 16)
  have last : dataByte data 9 ≤ 255 := Nat.le_of_lt_succ (BitVec.isLt _)
  rw [decodeStatus_eq]
  unfold StatusFields
  cases found : EngineState.ofCode (dataByte data 1 / 16) with
  | none =>
    rw [found] at code
    simp only [Option.isSome_none, Bool.false_eq_true, false_iff] at code
    simp [code]
  | some st =>
    rw [found] at code
    have range := inRange_iff (statusAt st data)
    simp only [Option.isSome_some, true_iff] at code
    have judged : (((some st).bind fun st => if (statusAt st data).inRange then some (statusAt st data) else none).isSome = true)
        ↔ (statusAt st data).inRange = true := by
      rw [Option.bind_some]
      split
      · next ok => simp [ok]
      · next bad => simp [bad]
    refine (judged.trans range).trans ?_
    constructor
    · rintro ⟨notch, target, capacity, bucket, demand, summary, -⟩
      exact ⟨code, notch, target, demand, capacity, bucket, summary⟩
    · rintro ⟨-, notch, target, demand, capacity, bucket, summary⟩
      exact ⟨notch, target, capacity, bucket, demand, summary, last⟩

theorem decodeClaim_isSome_iff (data : List Byte) : (decodeClaim data).isSome = true ↔
    (20 ≤ dataByte data 1 ∧ dataByte data 1 ≤ 250) ∧ (1 ≤ dataByte data 2 ∧ dataByte data 2 ≤ 5) := by
  unfold decodeClaim
  dsimp only
  split
  · next ok => simp [ok]
  · next bad => simpa [and_assoc] using bad

theorem decodeRelease_isSome_iff (data : List Byte) : (decodeRelease data).isSome = true ↔
    1 ≤ dataByte data 1 ∧ dataByte data 1 ≤ 3 := by
  unfold decodeRelease
  split
  · next one => simp [one]
  · next two => simp [two]
  · next three => simp [three]
  · next one two three =>
    have not1 : dataByte data 1 ≠ 1 := one
    have not2 : dataByte data 1 ≠ 2 := two
    have not3 : dataByte data 1 ≠ 3 := three
    simp only [Option.isSome_none, Bool.false_eq_true, false_iff]
    omega

/-- The length, the source and the fields are those of the kind (R47, R48). -/
def kindAgrees (f : RawFrame) : Prop :=
  f.kind = 0 ∧ f.length = 2 ∧ f.source ≠ 0 ∧ (20 ≤ dataByte f.data 1 ∧ dataByte f.data 1 ≤ 250)
      ∧ (1 ≤ dataByte f.data 2 ∧ dataByte f.data 2 ≤ 5)
    ∨ f.kind = 1 ∧ f.length = 1 ∧ f.source ≠ 0 ∧ (1 ≤ dataByte f.data 1 ∧ dataByte f.data 1 ≤ 3)
    ∨ f.kind = 2 ∧ f.length = 10 ∧ f.source ≠ 0 ∧ StatusFields f.data
    ∨ f.kind = 3 ∧ f.length = 3 ∧ f.source = 0
    ∨ f.kind = 4 ∧ (2 ≤ f.length.toNat ∧ f.length.toNat ≤ 12) ∧ f.source ≠ 0

theorem kind_cases : ∀ k : BitVec 3, k = 0 ∨ k = 1 ∨ k = 2 ∨ k = 3 ∨ k = 4 ∨ k = 5 ∨ k = 6 ∨ k = 7 := by decide

theorem station_source : ∀ x : BitVec 3, (1 ≤ x.toNat ∧ x.toNat ≤ 7) ↔ x ≠ 0 := by decide

theorem no_source : ∀ x : BitVec 3, x.toNat = 0 ↔ x = 0 := by decide

theorem length_is (x : BitVec 4) {n : Nat} (small : n < 16) : x.toNat = n ↔ x = BitVec.ofNat 4 n := by
  rw [← BitVec.toNat_inj, BitVec.toNat_ofNat, Nat.mod_eq_of_lt small]

/-- Kind, length, source and fields pass the judgement exactly when they agree (R47, R48). -/
theorem judged_iff (f : RawFrame) :
    (f.kind.toNat ≤ 4 ∧ lengthPermitted f.kind.toNat f.length.toNat = true
        ∧ sourcePermitted f.kind.toNat f.source.toNat = true ∧ fieldsInRange f = true) ↔ kindAgrees f := by
  have source := station_source f.source
  have none := no_source f.source
  unfold kindAgrees fieldsInRange
  rcases kind_cases f.kind with k | k | k | k | k | k | k | k
  · have length := length_is f.length (n := 2) (by decide)
    simp [k, lengthPermitted, sourcePermitted, decodeClaim_isSome_iff, length, source]
  · have length := length_is f.length (n := 1) (by decide)
    simp [k, lengthPermitted, sourcePermitted, decodeRelease_isSome_iff, length, source]
  · have length := length_is f.length (n := 10) (by decide)
    simp [k, lengthPermitted, sourcePermitted, decodeStatus_isSome_iff, length, source]
  · have length := length_is f.length (n := 3) (by decide)
    simp [k, lengthPermitted, sourcePermitted, length, none]
  · simp [k, lengthPermitted, sourcePermitted, source]
  all_goals simp [k]

theorem goodFrame_iff (f : RawFrame) : goodFrame f = true ↔
    f.data.length = f.length.toNat ∧ f.check = crc (coveredBits f) ∧ f.endField = 127 ∧ kindAgrees f := by
  rw [← judged_iff]
  unfold goodFrame RawFrame.wf
  simp only [Bool.and_eq_true, beq_iff_eq, decide_eq_true_eq]
  constructor
  · rintro ⟨⟨⟨⟨⟨⟨wf, kind⟩, length⟩, source⟩, check⟩, released⟩, fields⟩
    exact ⟨wf, check, released, kind, length, source, fields⟩
  · rintro ⟨wf, check, released, kind, length, source, fields⟩
    exact ⟨⟨⟨⟨⟨⟨wf, kind⟩, length⟩, source⟩, check⟩, released⟩, fields⟩

/-! ### The own frames -/

theorem buildFrame_check (kind source : Nat) (data : List Byte) :
    (buildFrame kind source data).check = crc (coveredBits (buildFrame kind source data)) := by
  unfold buildFrame
  dsimp only
  unfold coveredBits
  dsimp only

/-- A built frame is good when kind, length, source and fields agree (R45, R46). -/
theorem goodFrame_buildFrame {kind source : Nat} {data : List Byte} (short : data.length < 16)
    (h : kindAgrees (buildFrame kind source data)) : goodFrame (buildFrame kind source data) = true := by
  refine (goodFrame_iff _).2 ⟨?_, buildFrame_check .., rfl, h⟩
  show data.length = (BitVec.ofNat 4 data.length).toNat
  rw [BitVec.toNat_ofNat, Nat.mod_eq_of_lt short]

theorem source_ne_zero {station : Nat} (low : 1 ≤ station) (high : station ≤ 7) : BitVec.ofNat 3 station ≠ 0 := by
  rw [← station_source, BitVec.toNat_ofNat, Nat.mod_eq_of_lt (by omega)]
  exact ⟨low, high⟩

theorem faultSummary_cases (l : List Member) : faultSummary l = 0 ∨ ∃ m ∈ l, faultSummary l = m.code := by
  unfold faultSummary
  split
  · exact .inl rfl
  · next m rest sorted =>
    exact .inr ⟨m, (sortBy_perm strongerMember l).mem_iff.1 (sorted ▸ List.mem_cons_self), rfl⟩

theorem demandField_range {c : CabUnit} (h : c.demand ≤ 8) : c.demandField ≤ 8 ∨ c.demandField = 15 := by
  unfold CabUnit.demandField
  repeat' split
  all_goals first | exact .inl h | exact .inr rfl

section
variable {s : State}

theorem claimRemaining_le (h : s.params.crankTime ≤ 250) : s.claimRemaining ≤ 255 := by
  unfold State.claimRemaining Config.settleMs
  split <;> omega

theorem selfRecord_inRange (notch : NotchLaw s) (conditions : ConditionLaw s) (capacity : s.mon.capacity ≤ 2000)
    (hours : s.load.hours ≤ 999999) (demand : s.cab.demand ≤ 8) (crank : s.params.crankTime ≤ 250) :
    s.selfRecord.inRange = true := by
  obtain ⟨low, -, target, -⟩ := notch
  refine (inRange_iff _).2 ⟨low, target, capacity, ?_, demandField_range demand, ?_, claimRemaining_le crank⟩
  · show s.load.hours / 64 ≤ 15625
    omega
  · show faultSummary s.mon.conditions ≤ 12 ∨ 16 ≤ faultSummary s.mon.conditions ∧ faultSummary s.mon.conditions ≤ 36
    obtain zero | ⟨m, mem, code⟩ := faultSummary_cases s.mon.conditions
    · exact .inl (zero ▸ Nat.zero_le 12)
    · have range := conditions.2 m mem
      simp only [isConditionCode, Bool.or_eq_true, Bool.and_eq_true, decide_eq_true_eq] at range
      rw [code]
      omega

variable (low : 1 ≤ s.load.station) (high : s.load.station ≤ 7)
include low high

theorem goodFrame_status (range : s.selfRecord.inRange = true) : goodFrame (s.frameFor .status) = true := by
  refine goodFrame_buildFrame (kind := 2) (data := encodeStatus s.selfRecord) (Nat.le_of_ble_eq_true rfl) ?_
  exact .inr (.inr (.inl ⟨rfl, rfl, source_ne_zero low high,
    (decodeStatus_isSome_iff _).1 (by rw [buildFrame]; dsimp only; rw [decodeStatus_encodeStatus range]; rfl)⟩))

theorem goodFrame_claim {c : ClaimFields} (slot : s.link.claimSlot = .claimPending c) (least : 20 ≤ c.crankLimit)
    (most : c.crankLimit ≤ 250) (first : 1 ≤ c.attempt) (last : c.attempt ≤ 5) : goodFrame (s.frameFor .claim) = true := by
  have frame : s.frameFor .claim = buildFrame 0 s.load.station (encodeClaim c) := by
    unfold State.frameFor
    rw [slot]
    rfl
  rw [frame]
  have fields := (decodeClaim_isSome_iff (encodeClaim c)).1 (by rw [decodeClaim_encodeClaim least most first last]; rfl)
  exact goodFrame_buildFrame (Nat.le_of_ble_eq_true rfl) (.inl ⟨rfl, rfl, source_ne_zero low high, fields⟩)

theorem goodFrame_release {o : ReleaseOutcome} (slot : s.link.claimSlot = .releasePending o) :
    goodFrame (s.frameFor .release) = true := by
  have frame : s.frameFor .release = buildFrame 1 s.load.station [byteOf o.code] := by
    unfold State.frameFor
    rw [slot]
    rfl
  rw [frame]
  have fields := (decodeRelease_isSome_iff [byteOf o.code]).1 (by rw [decodeRelease_code]; rfl)
  exact goodFrame_buildFrame (Nat.le_of_ble_eq_true rfl) (.inr (.inl ⟨rfl, rfl, source_ne_zero low high, fields⟩))

theorem goodFrame_reply {q : Reply} (slot : s.link.replySlot = some q) (short : q.data.length ≤ 10) :
    goodFrame (s.frameFor .reply) = true := by
  have frame : s.frameFor .reply = buildFrame 4 s.load.station (q.code :: q.result :: q.data) := by
    unfold State.frameFor
    rw [slot]
    rfl
  rw [frame]
  have length : (q.code :: q.result :: q.data).length = q.data.length + 2 := rfl
  have count : (buildFrame 4 s.load.station (q.code :: q.result :: q.data)).length.toNat = q.data.length + 2 := by
    show (BitVec.ofNat 4 _).toNat = _
    rw [BitVec.toNat_ofNat, length, Nat.mod_eq_of_lt (by omega)]
  refine goodFrame_buildFrame (by omega) (.inr (.inr (.inr (.inr ⟨rfl, ?_, source_ne_zero low high⟩))))
  rw [count]
  omega

end

/-- Settles O16: the judgement's grounds one by one, and the own frames by the round trips of their layouts. -/
theorem ownFramesAreGoodFrames : Obligations.OwnFramesAreGoodFrames :=
  ⟨goodFrame_iff, fun _ low high =>
    ⟨fun notch conditions capacity hours demand crank =>
        goodFrame_status low high (selfRecord_inRange notch conditions capacity hours demand crank),
      fun _ slot least most first last => goodFrame_claim low high slot least most first last,
      fun _ slot => goodFrame_release low high slot, fun _ slot short => goodFrame_reply low high slot short⟩⟩

end Sys2Proof.Machine
end


section
/-! The configuration that an image gives (R177, R178, R189). -/

namespace Sys2Proof.Machine

/-! ### Values raised in turn (R178) -/

theorem raisedFrom_range {lo hi : Nat} (low : lo ≤ hi) {l : List Nat} (h : ∀ x ∈ l, x ≤ hi) :
    ∀ x ∈ raisedFrom lo l, lo ≤ x ∧ x ≤ hi := by
  induction l generalizing lo with
  | nil => nofun
  | cons y l ih =>
    have top : max lo y ≤ hi := max_le low (h y List.mem_cons_self)
    intro x mem
    rcases List.mem_cons.1 mem with rfl | mem
    · exact ⟨le_max_left lo y, top⟩
    · obtain ⟨least, most⟩ := ih top (fun z hz => h z (List.mem_cons_of_mem y hz)) x mem
      exact ⟨(le_max_left lo y).trans least, most⟩

theorem raisedFrom_ge (lo : Nat) (l : List Nat) : ∀ x ∈ raisedFrom lo l, lo ≤ x := by
  induction l generalizing lo with
  | nil => nofun
  | cons y l ih =>
    intro x mem
    rcases List.mem_cons.1 mem with rfl | mem
    · exact le_max_left lo y
    · exact (le_max_left lo y).trans (ih _ x mem)

theorem raisedFrom_pairwise (lo : Nat) (l : List Nat) : (raisedFrom lo l).Pairwise (· ≤ ·) := by
  induction l generalizing lo with
  | nil => exact List.Pairwise.nil
  | cons x l ih => exact List.pairwise_cons.2 ⟨raisedFrom_ge _ _, ih _⟩

theorem raisedFrom_step (lo : Nat) (l : List Nat) {k : Nat} (inside : k + 1 < l.length) :
    (raisedFrom lo l).getD (k + 1) 0 = max ((raisedFrom lo l).getD k 0) (l.getD (k + 1) 0) := by
  induction l generalizing lo k with
  | nil => cases inside
  | cons x l ih =>
    cases k with
    | zero =>
      cases l with
      | nil => simp at inside
      | cons y l => rfl
    | succ k => exact ih (max lo x) (by simpa using inside)

/-- A list of eight values, each raised to its predecessor, the first to `lo`. -/
theorem raisedInTurn {lo : Nat} {stored : Nat → Nat} {l : List Nat} (length : l.length = 8)
    (values : ∀ k, k < 8 → l.getD k 0 = stored k) : RaisedInTurn lo stored (raisedFrom lo l) := by
  refine ⟨(raisedFrom_length lo l).trans length, raisedFrom_pairwise lo l, ?_, fun k low high => ?_⟩
  · rw [← values 0 (by decide)]
    cases l with
    | nil => cases length
    | cons x l => rfl
  · obtain ⟨k, rfl⟩ : ∃ j, k = j + 1 := ⟨k - 1, by omega⟩
    rw [raisedFrom_step lo l (by omega), values _ high, Nat.add_sub_cancel]

/-! ### Fields and their ranges -/

theorem imgByte_lt (image : List Byte) (a : Nat) : imgByte image a < 256 := BitVec.isLt _

theorem clampTo_range {lo hi : Nat} (h : lo ≤ hi) (x : Nat) : lo ≤ clampTo lo hi x ∧ clampTo lo hi x ≤ hi := by
  unfold clampTo
  omega

theorem clampTo_zero (hi x : Nat) : clampTo 0 hi x = min hi x := by
  unfold clampTo
  omega

/-- The flag in a bit of a byte (R189). -/
theorem testBit_byte (n : Nat) : n.testBit 7 = decide (128 ≤ n % 256) ∧ n.testBit 6 = decide (64 ≤ n % 128)
    ∧ n.testBit 5 = decide (32 ≤ n % 64) ∧ n.testBit 4 = decide (16 ≤ n % 32) := by
  simp only [Nat.testBit_eq_decide_div_mod_eq]
  refine ⟨?_, ?_, ?_, ?_⟩ <;> congr 1 <;> rw [eq_iff_iff] <;> omega

theorem classCode_eq (n : Nat) :
    CondClass.ofCode n = [CondClass.alarm, .derate, .unload, .inhibitStart, .stop].getD n .shutdown := by
  match n with
  | 0 | 1 | 2 | 3 | 4 => rfl
  | n + 5 => rfl

section
variable (image : List Byte)

/-- The stored speeds, two of twelve bits to three bytes (R189). -/
def storedSpeed (k : Nat) : Nat :=
  if k % 2 = 0 then imgByte image (19 + 3 * (k / 2)) * 16 + imgByte image (20 + 3 * (k / 2)) / 16
  else imgByte image (20 + 3 * (k / 2)) % 16 * 256 + imgByte image (21 + 3 * (k / 2))

theorem npt_raised : RaisedInTurn 0 (fun k => min 20000 (imgWord image (3 + 2 * k))) (paramsOf image).npt := by
  refine raisedInTurn rfl fun k small => ?_
  have value : ((storedParams image).npt.map (clampTo 0 20000)).getD k 0 = clampTo 0 20000 (imgWord image (3 + 2 * k)) := by
    interval_cases k <;> rfl
  exact value.trans (clampTo_zero _ _)

theorem entSpeed_raised : RaisedInTurn (paramsOf image).idleSpeed (fun k => min 2100 (storedSpeed image k))
    (paramsOf image).entSpeed := by
  refine raisedInTurn rfl fun k small => ?_
  have value : ((storedParams image).entSpeed.map (clampTo 0 2100)).getD k 0 = clampTo 0 2100 (storedSpeed image k) := by
    interval_cases k <;> rfl
  exact value.trans (clampTo_zero _ _)

theorem entFrac_stored {k : Nat} (small : k < 8) :
    ((storedParams image).entFrac.map (clampTo 1 256)).getD k 0 = imgByte image (31 + k) + 1 := by
  have byte := imgByte_lt image (31 + k)
  have value : ((storedParams image).entFrac.map (clampTo 1 256)).getD k 0 = clampTo 1 256 (imgByte image (31 + k) + 1) := by
    interval_cases k <;> rfl
  rw [value, clampTo]
  omega

theorem entFrac_raised : RaisedInTurn 1 (fun k => imgByte image (31 + k) + 1) (paramsOf image).entFrac := by
  obtain ⟨length, order, first, next⟩ :=
    raisedInTurn (lo := 0) (l := (storedParams image).entFrac.map (clampTo 1 256)) rfl fun k small => entFrac_stored image small
  exact ⟨length, order, first.trans (by rw [max_eq_right (Nat.zero_le _), max_eq_right (Nat.le_add_left 1 _)]), next⟩

theorem npt_range : ∀ x ∈ (paramsOf image).npt, x ≤ 20000 := by
  refine fun x mem => (raisedFrom_range (Nat.zero_le _) (fun y hy => ?_) x mem).2
  obtain ⟨z, -, rfl⟩ := List.mem_map.1 hy
  exact (clampTo_range (by decide) z).2

theorem entSpeed_range : ∀ x ∈ (paramsOf image).entSpeed, (paramsOf image).idleSpeed ≤ x ∧ x ≤ 2100 := by
  have idle : (paramsOf image).idleSpeed ≤ 1000 := (clampTo_range (by decide) _).2
  refine raisedFrom_range (idle.trans (by decide)) fun y hy => ?_
  obtain ⟨z, -, rfl⟩ := List.mem_map.1 hy
  exact (clampTo_range (by decide) z).2

theorem entFrac_range : ∀ x ∈ (paramsOf image).entFrac, 1 ≤ x ∧ x ≤ 256 := by
  obtain ⟨length, order, first, -⟩ := entFrac_raised image
  intro x mem
  constructor
  · have least : 1 ≤ (paramsOf image).entFrac.getD 0 0 := by omega
    cases l : (paramsOf image).entFrac with
    | nil => rw [l] at length; cases length
    | cons y rest =>
      rw [l] at mem order least
      rcases List.mem_cons.1 mem with rfl | mem
      · exact least
      · exact Nat.le_trans least ((List.pairwise_cons.1 order).1 x mem)
  · refine (raisedFrom_range (Nat.zero_le _) (fun y hy => ?_) x mem).2
    obtain ⟨z, -, rfl⟩ := List.mem_map.1 hy
    exact (clampTo_range (by decide) z).2

theorem getD_le {l : List Nat} {hi : Nat} (h : ∀ x ∈ l, x ≤ hi) (i : Nat) : l.getD i 0 ≤ hi := by
  by_cases inside : i < l.length
  · exact h _ (getD_mem_of_lt inside)
  · rw [List.getD_eq_default _ _ (by omega)]
    exact Nat.zero_le hi

theorem routingEntryOf_eq (k : Fin 12) : routingEntryOf image k =
    { enable := decide (128 ≤ imgByte image (88 + 3 * k.val))
      activeOpen := decide (64 ≤ imgByte image (88 + 3 * k.val) % 128)
      latch := decide (32 ≤ imgByte image (88 + 3 * k.val) % 64)
      startMask := decide (16 ≤ imgByte image (88 + 3 * k.val) % 32)
      cls := [CondClass.alarm, .derate, .unload, .inhibitStart, .stop].getD (imgByte image (88 + 3 * k.val) % 8) .shutdown
      qualifyTime := min 100 (imgByte image (89 + 3 * k.val))
      derate := min 256 (imgByte image (90 + 3 * k.val) + 64) } := by
  obtain ⟨seven, six, five, four⟩ := testBit_byte (imgByte image (88 + 3 * k.val))
  rw [Nat.mod_eq_of_lt (imgByte_lt _ _)] at seven
  have derate : clampTo 64 256 (imgByte image (90 + 3 * k.val) + 64) = min 256 (imgByte image (90 + 3 * k.val) + 64) := by
    unfold clampTo
    omega
  unfold routingEntryOf
  dsimp only
  rw [seven, six, five, four, clampTo_zero, derate, classCode_eq]

theorem powerSteps_order {p : Params} (h : p.entFrac.Pairwise (· ≤ ·)) : (powerStepsOf p).Pairwise (· ≤ ·) :=
  List.pairwise_map.2 (h.imp fun le => Nat.div_le_div_right (Nat.mul_le_mul_left p.ratedPower le))

theorem powerSteps_le {p : Params} (h : ∀ x ∈ p.entFrac, x ≤ 256) : ∀ x ∈ powerStepsOf p, x ≤ p.ratedPower := by
  intro x mem
  obtain ⟨e, he, rfl⟩ := List.mem_map.1 mem
  have := Nat.mul_le_mul_left p.ratedPower (h e he)
  omega

end

/-- The parameters corrected one by one lie in the ranges of R177. -/
theorem corrected_range (image : List Byte) : let p := paramsOf image
    1000 ≤ p.overspeed ∧ p.overspeed ≤ 2600 ∧ p.warmMax ≤ 1800 ∧ 75 ≤ p.tTrip ∧ p.tTrip ≤ 125 ∧ 10 ≤ p.tWarmStop
      ∧ p.tWarmStop ≤ 80 ∧ 1 ≤ p.vOk ∧ p.vOk ≤ 1000 ∧ 1 ≤ p.heatTrip ∧ p.heatTrip ≤ 65535 := by
  have fastest := getD_le (fun x mem => (entSpeed_range image x mem).2) 7
  have overspeed : (paramsOf image).overspeed
      = max (clampTo 1000 2600 (storedParams image).overspeed) ((paramsOf image).entSpeed.getD 7 0 + 50) := rfl
  have warm : (paramsOf image).warmMax = max (clampTo 0 1800 (storedParams image).warmMax)
      (clampTo 0 600 (storedParams image).warmMin) := rfl
  have trip : (paramsOf image).tTrip = max (clampTo 75 125 (storedParams image).tTrip)
      (clampTo 70 115 (storedParams image).tDerate + 5) := rfl
  have stop : (paramsOf image).tWarmStop = max (clampTo 10 80 (storedParams image).tWarmStop)
      (clampTo 0 40 (storedParams image).tCold + 10) := rfl
  have ok : (paramsOf image).vOk = max (clampTo 1 1000 (storedParams image).vOk)
      (clampTo 0 999 (storedParams image).vLow + 1) := rfl
  have heat : (paramsOf image).heatTrip = max (clampTo 1 65535 (storedParams image).heatTrip)
      (clampTo 0 65534 (storedParams image).heatOk + 1) := rfl
  dsimp only
  rw [overspeed, warm, trip, stop, ok, heat]
  unfold clampTo
  omega

/-- Settles O29: the fields, clamps and corrections are read off one by one; lists by the lemmas on values raised in turn. -/
theorem loadedParametersAreClampedAndOrdered : Obligations.LoadedParametersAreClampedAndOrdered := by
  intro image p b w speed
  have pl : (p.prelubeRequired = true ↔ 128 ≤ b 53) := by
    obtain ⟨seven, -⟩ := testBit_byte (imgByte image 53)
    rw [Nat.mod_eq_of_lt (imgByte_lt _ _)] at seven
    show (imgByte image 53).testBit 7 = true ↔ _
    rw [seven, decide_eq_true_eq]
    rfl
  have zero (hi x : Nat) : clampTo 0 hi x = min hi x := clampTo_zero hi x
  obtain ⟨-, order, -, -⟩ := entFrac_raised image
  refine ⟨⟨rfl, rfl, rfl, rfl, zero _ _, zero _ _, zero _ _, rfl, rfl, rfl, pl, rfl, rfl, rfl, rfl, rfl, zero _ _, rfl, rfl,
      rfl, rfl, rfl, zero _ _, rfl, rfl, rfl, zero _ _, zero _ _, rfl, rfl, zero _ _⟩,
    ⟨rfl, rfl, congrArg (max · _) (zero _ _), rfl, rfl, rfl⟩, npt_raised image, entSpeed_raised image, entFrac_raised image,
    ⟨npt_range image, entSpeed_range image, entFrac_range image, corrected_range image⟩, fun k => ?_, zero _ _, rfl, rfl,
    powerSteps_order order, powerSteps_le fun x mem => (entFrac_range image x mem).2⟩
  rw [routingOf, Fin.getElem_fin, Vector.getElem_ofFn]
  exact routingEntryOf_eq image k

end Sys2Proof.Machine
end


section
/-! What a step takes up (logs 1 and 4), what 10 ms change (00_scope, Timers), and the resets (R183). -/

namespace Sys2Proof.Machine

section
variable {s : State}

/-! ### What is due -/

theorem passDue_iff (s : State) : s.passDue = true ↔ s.passWaits := by
  simp [State.passDue, and_assoc]

theorem frameDue_iff_waits (s : State) : s.frameDue = true ↔ s.frameWaits ∧ ¬ s.passWaits := by
  rw [← passDue_iff]
  simp [State.frameDue, and_assoc]

theorem startDue_iff_waits (s : State) : s.startDue = true ↔ s.startWaits := by
  rw [startDue_iff, Option.isSome_iff_ne_none]

theorem step_of_empty (h : s.pending = []) : step s = idle s := by
  unfold step
  rw [h]

theorem idle_pass (pass : s.passWaits) : idle s = exec .passStart s := if_pos ((passDue_iff s).2 pass)

theorem idle_frame (pass : ¬ s.passWaits) (frame : s.frameWaits) : idle s = exec .frameApplication s := by
  unfold idle
  rw [if_neg (mt (passDue_iff s).1 pass), if_pos ((frameDue_iff_waits s).2 ⟨frame, pass⟩)]

theorem idle_start (pass : ¬ s.passWaits) (frame : ¬ s.frameWaits) (start : s.startWaits) :
    idle s = exec .frameStart s := by
  unfold idle
  rw [if_neg (mt (passDue_iff s).1 pass), if_neg (fun due => frame ((frameDue_iff_waits s).1 due).1),
    if_pos ((startDue_iff_waits s).2 start)]

theorem idle_expiry {c : Instr} (pass : ¬ s.passWaits) (frame : ¬ s.frameWaits) (start : ¬ s.startWaits)
    (due : s.dueExpiry = some c) : idle s = exec c s := by
  unfold idle
  rw [if_neg (mt (passDue_iff s).1 pass), if_neg (fun due => frame ((frameDue_iff_waits s).1 due).1),
    if_neg (mt (startDue_iff_waits s).1 start), due]

theorem idle_time (pass : ¬ s.passWaits) (frame : ¬ s.frameWaits) (start : ¬ s.startWaits) (silent : s.dueExpiry = none) :
    idle s = .next (tick s) := by
  unfold idle
  rw [if_neg (mt (passDue_iff s).1 pass), if_neg (fun due => frame ((frameDue_iff_waits s).1 due).1),
    if_neg (mt (startDue_iff_waits s).1 start), silent]

/-- Settles O1: a step reads the queue first; the idle step goes through its tests in their order. -/
theorem stepRunsTheCommandInFront : Obligations.StepRunsTheCommandInFront := by
  refine ⟨fun c rest s queue => ?_, fun s empty => ?_⟩
  · unfold step
    rw [queue]
  · rw [step_of_empty empty]
    exact ⟨idle_pass, idle_frame, idle_start, fun _ => idle_expiry⟩

/-! ### Which expiry is due -/

theorem isDue_iff (t : Timer) : t.isDue = true ↔ t = .running 0 := by
  cases t <;> simp [Timer.isDue]

theorem dueOf_some {l : List (Bool × Instr)} {c : Instr} (h : dueOf l = some c) : (true, c) ∈ l := by
  unfold dueOf at h
  obtain ⟨⟨b, d⟩, found, rfl⟩ := Option.map_eq_some_iff.1 h
  have due : b = true := List.find?_some found
  exact due ▸ List.mem_of_find?_eq_some found

theorem dueOf_isSome {l : List (Bool × Instr)} {c : Instr} (h : (true, c) ∈ l) : (dueOf l).isSome = true := by
  unfold dueOf
  rw [Option.isSome_map, List.find?_isSome]
  exact ⟨_, h, rfl⟩

theorem limitsDue_waits (s : State) : ∀ x ∈ s.limitsDue, x.1 = true → s.expiryWaits x.2 := by
  simp only [State.limitsDue, List.forall_mem_cons, List.not_mem_nil, false_implies, implies_true, and_true, Bool.and_eq_true,
    beq_iff_eq, decide_eq_true_eq]
  exact ⟨id, id, id, fun h => ⟨h.1.1, h.1.2, h.2⟩, fun h => ⟨h.1.1, h.1.2, h.2⟩, id, id⟩

theorem timersDue_waits (s : State) : ∀ x ∈ s.timersDue, x.1 = true → s.expiryWaits x.2 := by
  unfold State.timersDue
  simp only [List.forall_mem_append]
  refine ⟨⟨?_, ?_⟩, ?_⟩
  · simp [State.expiryWaits, isDue_iff, CabUnit.line, OutputStage.proving, and_assoc]
    exact ⟨fun a b c => ⟨a, b, c⟩, fun a b c => ⟨a, b, c⟩⟩
  · intro x mem
    obtain ⟨i, -, rfl⟩ := List.mem_map.1 mem
    exact fun due => ⟨i, rfl, (isDue_iff _).1 due⟩
  · intro x mem
    obtain ⟨k, -, rfl⟩ := List.mem_map.1 mem
    exact fun due => ⟨k, rfl, (isDue_iff _).1 due⟩

theorem waits_of_dueExpiry {c : Instr} (h : s.dueExpiry = some c) : s.expiryWaits c := by
  rcases List.mem_append.1 (dueOf_some h) with mem | mem
  · exact limitsDue_waits s _ mem rfl
  · exact timersDue_waits s _ mem rfl

theorem mem_due_of_waits {c : Instr} (h : s.expiryWaits c) : (true, c) ∈ s.limitsDue ++ s.timersDue := by
  have age {n : Nat} (h : s.expiryWaits (.ageExpiry n)) : (true, Instr.ageExpiry n) ∈ s.timersDue := by
    obtain ⟨i, rfl, due⟩ := h
    refine List.mem_append_left _ (List.mem_append_right _ (List.mem_map.2 ⟨i, List.mem_finRange i, ?_⟩))
    rw [(isDue_iff _).2 due]
  have input {n : Nat} (h : s.expiryWaits (.protectiveInputQualification n)) :
      (true, Instr.protectiveInputQualification n) ∈ s.timersDue := by
    obtain ⟨k, rfl, due⟩ := h
    refine List.mem_append_right _ (List.mem_map.2 ⟨k, List.mem_finRange k, ?_⟩)
    rw [(isDue_iff _).2 due]
  refine List.mem_append.2 ?_
  cases c
  case ageExpiry => exact .inr (age h)
  case protectiveInputQualification => exact .inr (input h)
  case prelubeTimeExpiry | crankTimeExpiry | runupTimeExpiry | warmMinExpiry | warmMaxExpiry | cooldownExpiry
    | stopLimitExpiry =>
    left
    simp only [State.expiryWaits] at h
    simp [State.limitsDue, Params.prelubeLimit, Params.crankLimit, Params.runupLimit, Params.warmMinLimit,
      Params.warmMaxLimit, Params.cooldownLimit, Params.stopLimitMs, h]
  case cabLineQualification line =>
    right
    cases line <;> simp [State.expiryWaits, CabUnit.line] at h <;> simp [State.timersDue, h, Timer.isDue]
  case feedbackQualification o | provingTimerExpiry o =>
    right
    cases o <;> simp [State.expiryWaits, OutputStage.proving] at h <;> simp [State.timersDue, h, Timer.isDue]
  case upDwellEvent | downDwellEvent =>
    right
    simp only [State.expiryWaits] at h
    simp [State.timersDue, Params.dwellUpMs, Params.dwellDownMs, h]
  case throttleCodeQualification | invalidCodeTimerExpiry | layoverCheckExpiry | holdOffExpiry | heartbeatExpiry
    | spacingTimerExpiry | listenTimerExpiry | evaluationTimerExpiry | stopDelayExpiry | fireConfirmExpiry | restTimerExpiry
    | minRunExpiry | leaseExpiry | recoveryTimerExpiry | settleExpiry | heatUpdate | setpointRefreshExpiry
    | governorStatusTimerExpiry | graceTimerExpiry | stallTimerExpiry =>
    right
    simp only [State.expiryWaits] at h
    simp [State.timersDue, h, Timer.isDue]
  all_goals cases h

theorem dueExpiry_none (h : ∀ c, ¬ s.expiryWaits c) : s.dueExpiry = none := by
  cases due : s.dueExpiry with
  | none => rfl
  | some c => exact absurd (waits_of_dueExpiry due) (h c)

theorem dueExpiry_of_waits {c : Instr} (h : s.expiryWaits c) : ∃ d, s.dueExpiry = some d ∧ s.expiryWaits d := by
  obtain ⟨d, due⟩ := Option.isSome_iff_exists.1 (dueOf_isSome (mem_due_of_waits h))
  exact ⟨d, due, waits_of_dueExpiry due⟩

/-! ### 10 ms (00_scope, Timers) -/

theorem advance_eq_later (t : Timer) : t.advance 10 = t.later := by cases t <;> rfl

theorem advance_eq_clock_later (t : Stopwatch) : t.advance 10 = t.later := by cases t <;> rfl

theorem dwellTick_eq (d : Dwell) : d.tick = if d.running then { d with count := min 20000 (d.count + 10) } else d := rfl

theorem memberTick_eq : Member.tick = fun m => { m with activeMs := min 65535000 (m.activeMs + 10) } := rfl

theorem tick_eq_later (s : State) : tick s = s.later := by
  simp only [tick, State.later, Sequencer.tick, CabUnit.tick, QualifiedInput.tick, LinkUnit.tick, ConsistView.tick,
    Allocator.tick, ClaimUnit.tick, Port.tick, Monitor.tick, OutputStage.tick, Proving.tick, advance_eq_later,
    advance_eq_clock_later, dwellTick_eq, memberTick_eq, Config.tickMs]

/-! ### The queue -/

/-- A command leaves the queue as it is (log 29). -/
theorem after_pending (s : State) (c : Instr) : (s.after c).pending = s.pending := by
  cases reset : isReset c
  case true =>
    obtain ⟨kind, station, rate, ret, eq, -⟩ := after_of_isReset reset s
    rw [eq]
    rfl
  obtain ⟨codes, d⟩ := deeds_after (s := s) (e := true) (.inl rfl) (.inl rfl) c reset fun _ => rfl
  refine d.read (p := .queue) (not_mem_of_avoids ?_) (by simp [deedParts]) nofun
  cases c
  case cabLineQualification line => cases line <;> rfl
  case analogSample c raw => cases c <;> rfl
  all_goals rfl

theorem idle_answers (s : State) : ∃ t, idle s = .next t ∧ t.pending = s.pending := by
  obtain ⟨c, e⟩ | e := idle_cases s
  · exact ⟨s.after c, e.trans (exec_eq_after c s), after_pending s c⟩
  · exact ⟨tick s, e, rfl⟩

end

/-- Settles O2: every command answers a next state; on an empty queue with nothing else due the first expiry that is due is taken, and
without one every timer is advanced. -/
theorem everyCommandAnswersAndTimePassesBetween : Obligations.EveryCommandAnswersAndTimePassesBetween := by
  refine ⟨fun c s => ⟨⟨s.after c, exec_eq_after c s, after_pending s c⟩, fun empty => ?_⟩,
    fun s empty pass frame start => ⟨?_, fun silent => ?_⟩⟩
  · obtain ⟨t, next, queue⟩ := idle_answers s
    exact ⟨t, (step_of_empty empty).trans next, queue.trans empty⟩
  · rintro ⟨c, waits⟩
    obtain ⟨d, due, waits⟩ := dueExpiry_of_waits waits
    exact ⟨d, waits, (step_of_empty empty).trans (idle_expiry pass frame start due)⟩
  · exact ⟨tick s, (step_of_empty empty).trans (idle_time pass frame start (dueExpiry_none silent)), tick_eq_later s⟩

/-! ### The resets (R174, R182, R183) -/

theorem coreAtReset_afterReset (kind : ResetKind) (p : Straps) (ret : RetainedStore) (q : List Instr) :
    CoreAtReset p (State.afterReset kind (stationNumber p) (linkRateCode p) ret q) := by
  refine ⟨⟨rfl, rfl, rfl, rfl, rfl, rfl, rfl, rfl⟩, fun line => by cases line <;> exact ⟨rfl, rfl⟩,
    ⟨rfl, rfl, rfl, rfl, rfl, rfl, rfl, rfl, rfl, rfl⟩,
    ⟨rfl, rfl, rfl, rfl, rfl, rfl, rfl, rfl, rfl, rfl, rfl, rfl, rfl, rfl, rfl, rfl, rfl, rfl, rfl, rfl⟩,
    fun i => ?_, ⟨rfl, rfl, rfl, rfl⟩, ⟨rfl, rfl, rfl, rfl, rfl, rfl, rfl⟩,
    ⟨rfl, rfl, rfl, rfl, rfl, rfl, rfl, rfl, rfl, rfl, rfl⟩, ⟨rfl, rfl, rfl⟩,
    ⟨rfl, rfl, rfl, rfl, rfl, rfl, rfl, rfl, rfl, rfl, rfl, rfl, rfl⟩,
    ⟨rfl, rfl, rfl, rfl, rfl, rfl, rfl, rfl, rfl, rfl, rfl, rfl, rfl, rfl, rfl, rfl⟩, fun k => ?_,
    ⟨rfl, rfl, rfl, rfl⟩, fun o => by cases o <;> exact ⟨rfl, rfl, rfl⟩, ⟨rfl, rfl, rfl, rfl, rfl⟩, rfl⟩
  · have entry : (State.afterReset kind (stationNumber p) (linkRateCode p) ret q).view.entry i = .atReset :=
      Vector.getElem_replicate i.isLt
    rw [entry]
    exact ⟨rfl, rfl, rfl, rfl⟩
  · have routing : (State.afterReset kind (stationNumber p) (linkRateCode p) ret q).mon.routing[k] = .atReset :=
      Vector.getElem_replicate k.isLt
    have input : (State.afterReset kind (stationNumber p) (linkRateCode p) ret q).mon.inputs[k] = .atReset :=
      Vector.getElem_replicate k.isLt
    rw [routing, input]
    exact ⟨rfl, rfl⟩

/-- Settles O30: both resets are the one reset state, with the Retained Store cleared or kept. -/
theorem resetsSetTheCoreStateAndTreatTheRetainedStore : Obligations.ResetsSetTheCoreStateAndTreatTheRetainedStore :=
  fun _ _ => ⟨⟨_, rfl, coreAtReset_afterReset .., rfl, rfl, rfl⟩, ⟨_, rfl, coreAtReset_afterReset .., rfl, rfl, rfl⟩⟩

end Sys2Proof.Machine
end


section
/-! The peer table and the Allocator's phase under every step (R67 to R69, R75, R85, R87). -/

namespace Sys2Proof.Machine

section
variable {s t : State}

/-- What a command leaves alone: every part but its own and those of the deeds. -/
theorem read_after (s : State) {c : Instr} {p : Part} (reset : isReset c = false) (own : avoids (ownParts c) p = true)
    (outside : avoids (.needs :: deedParts) p = true) : p.read (s.after c) = p.read s := by
  obtain ⟨codes, d⟩ := deeds_after (s := s) (e := true) (.inl rfl) (.inl rfl) c reset fun _ => rfl
  have other := not_mem_of_avoids outside
  exact d.read (not_mem_of_avoids own) (fun h => other (List.mem_cons_of_mem _ h)) fun is => absurd (is ▸ List.mem_cons_self) other

/-- The commands that change the peer table, the Allocator's phase, the listen timer or whether the station has loaded. -/
def touchesView : Instr → Bool
  | .powerOnReset _ | .coreReset _ | .frameApplication | .ageExpiry _ | .listenTimerExpiry | .passStart | .passEnd
  | .configLoadCompletion => true
  | _ => false

theorem avoids_view (c : Instr) (h : touchesView c = false) : avoids (ownParts c) .peers = true
    ∧ avoids (ownParts c) .phase = true ∧ avoids (ownParts c) .listen = true := by
  cases c
  case cabLineQualification line => cases line <;> exact ⟨rfl, rfl, rfl⟩
  case analogSample channel raw => cases channel <;> exact ⟨rfl, rfl, rfl⟩
  case powerOnReset | coreReset | frameApplication | ageExpiry | listenTimerExpiry | passStart | passEnd
    | configLoadCompletion => cases h
  all_goals exact ⟨rfl, rfl, rfl⟩

theorem avoids_straps (c : Instr) : avoids (ownParts c) .straps = true := by
  cases c
  case cabLineQualification line => cases line <;> rfl
  case analogSample channel raw => cases channel <;> rfl
  all_goals rfl

/-- The straps' values change at a reset alone (R174). -/
theorem station_after (s : State) {c : Instr} (reset : isReset c = false) : (s.after c).load.station = s.load.station :=
  congrArg (fun p : Part.straps.Value => p.1) (read_after s (p := .straps) reset (avoids_straps c) rfl)

/-! ### The law of the entries (R67 to R69, R75) -/

/-- The entry at a place agrees with itself. -/
def EntryLaw (own inPass : Bool) (e : PeerEntry) : Prop := (if own then e.agreesAsSelf else e.agrees inPass) = true

theorem viewLaw_iff (s : State) : ViewLaw s ↔ (∀ i, EntryLaw (s.isSelf i) (s.alloc.phase == .inPass) (s.view.entry i))
    ∧ (s.alloc.phase = .waitLoad ↔ s.loaded = false) ∧ (s.alloc.phase = .listening ↔ s.alloc.listen.isRunning = true) := Iff.rfl

theorem viewLaw_of_same (h : ViewLaw s) (peers : t.view.peers = s.view.peers) (phase : t.alloc.phase = s.alloc.phase)
    (listen : t.alloc.listen = s.alloc.listen) (station : t.load.station = s.load.station) (loaded : t.loaded = s.loaded) :
    ViewLaw t := by
  unfold ViewLaw ConsistView.entry State.isSelf at h ⊢
  rw [peers, phase, listen, station, loaded]
  exact h

/-- An entry that agrees while no pass is in flight agrees at a pass start (R69). -/
theorem EntryLaw.passStarts {own : Bool} {e : PeerEntry} (h : EntryLaw own false e) (pass : Bool) : EntryLaw own pass e := by
  unfold EntryLaw at h ⊢
  cases own
  · simp only [Bool.false_eq_true, if_false] at h ⊢
    unfold PeerEntry.agrees at h ⊢
    cases presence : e.presence <;> rw [presence] at h
    · exact h
    · simp only [Bool.and_false, Bool.or_false] at h
      simp [h]
    · exact h
  · exact h

/-- An entry without a held expiry agrees after a pass too (R69). -/
theorem EntryLaw.passEnds {own pass : Bool} {e : PeerEntry} (h : EntryLaw own pass e) (free : e.heldExpiry = false) :
    EntryLaw own false e := by
  unfold EntryLaw at h ⊢
  cases own
  · simp only [Bool.false_eq_true, if_false] at h ⊢
    unfold PeerEntry.agrees at h ⊢
    cases presence : e.presence <;> rw [presence] at h
    · exact h
    · simpa [free] using h
    · exact h
  · exact h

/-- The changed mark has no part in the law. -/
theorem EntryLaw.setChanged {own pass : Bool} {e : PeerEntry} (h : EntryLaw own pass e) (b : Bool) :
    EntryLaw own pass { e with changed := b } := h

theorem EntryLaw.asSelf {pass : Bool} {e : PeerEntry} (h : EntryLaw true pass e) (r : StatusRecord) :
    EntryLaw true pass (e.asSelf r) := by
  simp only [EntryLaw, if_true, PeerEntry.agreesAsSelf, Bool.and_eq_true] at h ⊢
  exact ⟨⟨h.1.1, rfl⟩, h.2⟩

theorem entryLaw_atReset (own pass : Bool) : EntryLaw own pass .atReset := by cases own <;> exact rfl

/-- A peer heard outside a pass agrees (R68). -/
theorem EntryLaw.heard {pass : Bool} {e : PeerEntry} (h : EntryLaw false false e) (n : Nat) (r : Option StatusRecord) (b : Bool) :
    EntryLaw false pass { e with presence := .present, age := .running n, record := r, changed := b } := by
  have free : e.heldExpiry = false := by
    unfold EntryLaw PeerEntry.agrees at h
    cases presence : e.presence <;> rw [presence] at h <;> simp at h <;> tauto
  simp [EntryLaw, PeerEntry.agrees, Timer.isRunning, free]

/-- The entry after an age expiry that is taken (R69). -/
def PeerEntry.lost (e : PeerEntry) : PeerEntry := { e with presence := .lost, heldExpiry := false, changed := true }

theorem EntryLaw.lost {pass : Bool} {e : PeerEntry} (expired : e.age = .expired) : EntryLaw false pass e.lost := by
  simp [EntryLaw, PeerEntry.agrees, PeerEntry.lost, expired, Timer.isExpired]

theorem running_left {t : Timer} (h : t.isRunning = true) : ∃ left, t = .running left := by
  cases t with
  | running left => exact ⟨left, rfl⟩
  | stopped | expired => cases h

theorem expired_of_isExpired {t : Timer} (h : t.isExpired = true) : t = .expired := by
  cases t with
  | expired => rfl
  | stopped | running => cases h

/-- An entry whose age timer runs is a PRESENT peer's without a held expiry (R68, R69). -/
theorem EntryLaw.of_running {own pass : Bool} {e : PeerEntry} (h : EntryLaw own pass e) (running : e.age.isRunning = true) :
    own = false ∧ e.presence = .present ∧ e.heldExpiry = false := by
  obtain ⟨left, age⟩ := running_left running
  have notStopped : (e.age == .stopped) = false := by simp [age]
  have notExpired : e.age.isExpired = false := by rw [age]; rfl
  cases own
  · refine ⟨rfl, ?_⟩
    unfold EntryLaw PeerEntry.agrees at h
    cases presence : e.presence <;> rw [presence] at h <;> simp [notStopped, notExpired, running] at h
    exact ⟨rfl, h⟩
  · simp [EntryLaw, PeerEntry.agreesAsSelf, notStopped] at h

/-- A held expiry is a PRESENT peer's whose age has expired (R69). -/
theorem EntryLaw.of_held {own pass : Bool} {e : PeerEntry} (h : EntryLaw own pass e) (held : e.heldExpiry = true) :
    own = false ∧ e.age = .expired := by
  cases own
  · refine ⟨rfl, ?_⟩
    refine expired_of_isExpired ?_
    unfold EntryLaw PeerEntry.agrees at h
    cases presence : e.presence <;> rw [presence] at h <;> simp [held] at h
    exact h.1
  · simp [EntryLaw, PeerEntry.agreesAsSelf, held] at h

theorem EntryLaw.holds {e : PeerEntry} (present : e.presence = .present) :
    EntryLaw false true { e with age := .expired, heldExpiry := true } := by
  simp [EntryLaw, PeerEntry.agrees, present, Timer.isExpired]

/-! ### Tables -/

theorem entry_setEntry (v : ConsistView) (i j : Fin 7) (e : PeerEntry) :
    (v.setEntry i e).entry j = if i = j then e else v.entry j := by
  simp only [ConsistView.entry, ConsistView.setEntry, Fin.getElem_fin, Vector.getElem_set, Fin.ext_iff]

theorem setEntry_setEntry (v : ConsistView) (i : Fin 7) (a b : PeerEntry) : (v.setEntry i a).setEntry i b = v.setEntry i b := by
  simp only [ConsistView.setEntry, Vector.set_set]

theorem entry_setEntry_same (v : ConsistView) (i : Fin 7) (e : PeerEntry) : (v.setEntry i e).entry i = e := by
  rw [entry_setEntry, if_pos rfl]

/-- A chain of deeds whose own parts do not hold the peer table leaves table, phase, listen timer and station. -/
theorem Deeds.viewKept {r : Scope} (d : Deeds r s t) (parts : Part.peers ∉ r.parts ∧ Part.phase ∉ r.parts
    ∧ Part.listen ∉ r.parts ∧ Part.straps ∉ r.parts ∧ Part.progress ∉ r.parts) : t.view.peers = s.view.peers
      ∧ t.alloc.phase = s.alloc.phase ∧ t.alloc.listen = s.alloc.listen ∧ t.load.station = s.load.station
      ∧ t.loaded = s.loaded := by
  obtain ⟨peers, phase, listen, straps, progress⟩ := parts
  exact ⟨d.read (p := .peers) peers (by simp [deedParts]) nofun, d.read (p := .phase) phase (by simp [deedParts]) nofun,
    d.read (p := .listen) listen (by simp [deedParts]) nofun,
    congrArg (fun p : Part.straps.Value => p.1) (d.read (p := .straps) straps (by simp [deedParts]) nofun),
    d.loaded progress⟩

/-- The parts of the view's consequences without the table itself (R70 to R74, R79). -/
abbrev newsParts : List Part := [.alone, .sFrozen, .tally, .demand, .statusMarked, .reEvaluate] ++ claimParts

/-- The station with the entry at a place LOST (R69). -/
def State.withLost (s : State) (i : Fin 7) : State := s.setView (s.view.setEntry i (s.view.entry i).lost)

theorem ageTaken_eq (i : Fin 7) (s : State) : ageTaken i s = passTrigger (recomputeTally
    (if (s.withLost i).noPeerPresent && (s.withLost i).view.everSeen then enterAlone (s.withLost i) else s.withLost i)) := rfl

theorem deeds_ageTaken (i : Fin 7) (s : State) : Deeds ⟨[], true, newsParts⟩ (s.withLost i) (ageTaken i s) := by
  rw [ageTaken_eq]
  generalize s.withLost i = lost
  have start := Deeds.refl (r := ⟨[], true, newsParts⟩) lost (.inl rfl)
  have alone := Deeds.ite (c := (lost.noPeerPresent && lost.view.everSeen) = true) (start.enterAlone (by simp)) start
  exact (alone.recomputeTally (by simp)).trigger

theorem ageTaken_view (i : Fin 7) (s : State) : (ageTaken i s).view.peers = (s.withLost i).view.peers
    ∧ (ageTaken i s).alloc.phase = s.alloc.phase ∧ (ageTaken i s).alloc.listen = s.alloc.listen
    ∧ (ageTaken i s).load.station = s.load.station ∧ (ageTaken i s).loaded = s.loaded :=
  (deeds_ageTaken i s).viewKept (by simp)

/-- One entry's held expiry taken, if there is one (R69). -/
def takeIfHeld (s : State) (i : Fin 7) : State := if (s.view.entry i).heldExpiry then ageTaken i s else s

theorem takeHeldExpiries_eq (s : State) : takeHeldExpiries s = (List.finRange 7).foldl takeIfHeld s := rfl

/-- Phase, listen timer, station number and load stand. -/
def PhaseKept (s t : State) : Prop := t.alloc.phase = s.alloc.phase ∧ t.alloc.listen = s.alloc.listen
  ∧ t.load.station = s.load.station ∧ t.loaded = s.loaded

theorem PhaseKept.trans {u : State} (h : PhaseKept s t) (k : PhaseKept t u) : PhaseKept s u :=
  ⟨k.1.trans h.1, k.2.1.trans h.2.1, k.2.2.1.trans h.2.2.1, k.2.2.2.trans h.2.2.2⟩

theorem takeIfHeld_view (s : State) (i : Fin 7) : (∀ j, (takeIfHeld s i).view.entry j
      = if j = i ∧ (s.view.entry j).heldExpiry = true then (s.view.entry j).lost else s.view.entry j)
    ∧ PhaseKept s (takeIfHeld s i) := by
  unfold takeIfHeld
  split
  · next held =>
    obtain ⟨peers, kept⟩ := ageTaken_view i s
    refine ⟨fun j => ?_, kept⟩
    have entry : (ageTaken i s).view.entry j = (s.view.setEntry i (s.view.entry i).lost).entry j :=
      congrArg (fun p : Vector PeerEntry 7 => p[j]) peers
    rw [entry, entry_setEntry]
    by_cases same : j = i
    · subst same
      simp [held]
    · simp [same, Ne.symm same]
  · next free =>
    refine ⟨fun j => ?_, rfl, rfl, rfl, rfl⟩
    rw [if_neg]
    rintro ⟨rfl, held⟩
    exact free held

theorem takeHeld_view (l : List (Fin 7)) (s : State) : (∀ j, (l.foldl takeIfHeld s).view.entry j
      = if j ∈ l ∧ (s.view.entry j).heldExpiry = true then (s.view.entry j).lost else s.view.entry j)
    ∧ PhaseKept s (l.foldl takeIfHeld s) := by
  induction l generalizing s with
  | nil => exact ⟨fun j => by simp, rfl, rfl, rfl, rfl⟩
  | cons i l ih =>
    obtain ⟨first, kept⟩ := takeIfHeld_view s i
    obtain ⟨rest, kept'⟩ := ih (takeIfHeld s i)
    refine ⟨fun j => ?_, kept.trans kept'⟩
    rw [List.foldl_cons, rest, first]
    by_cases held : (s.view.entry j).heldExpiry = true
    · by_cases same : j = i
      · subst same
        simp [held, PeerEntry.lost]
      · simp [held, same]
    · simp [held]

/-- The held expiries, taken by rising number: each entry on its own (R69). -/
theorem takeHeldExpiries_view (s : State) : (∀ j, (takeHeldExpiries s).view.entry j
      = if (s.view.entry j).heldExpiry = true then (s.view.entry j).lost else s.view.entry j)
    ∧ PhaseKept s (takeHeldExpiries s) := by
  obtain ⟨entries, kept⟩ := takeHeld_view (List.finRange 7) s
  refine ⟨fun j => ?_, kept⟩
  rw [takeHeldExpiries_eq, entries]
  simp

/-! ### The events of the view (R68, R69, R87, R89, R91) -/

theorem viewLaw_of_entries (h : ViewLaw s) (kept : PhaseKept s t) (entries : ∀ j, t.view.entry j = s.view.entry j
    ∨ EntryLaw (s.isSelf j) (s.alloc.phase == .inPass) (t.view.entry j)) : ViewLaw t := by
  obtain ⟨phase, listen, station, loaded⟩ := kept
  obtain ⟨before, wait, listening⟩ := (viewLaw_iff s).1 h
  refine (viewLaw_iff t).2 ⟨fun j => ?_, by rw [phase, loaded]; exact wait, by rw [phase, listen]; exact listening⟩
  rw [State.isSelf, station, phase]
  obtain same | law := entries j
  · rw [same]
    exact before j
  · exact law

/-- The station with one entry of the peer table replaced. -/
def State.withEntry (s : State) (i : Fin 7) (e : PeerEntry) : State := s.setView (s.view.setEntry i e)

theorem withEntry_entry (s : State) (i j : Fin 7) (e : PeerEntry) :
    (s.withEntry i e).view.entry j = if i = j then e else s.view.entry j := entry_setEntry ..

theorem withEntry_withEntry (s : State) (i : Fin 7) (a b : PeerEntry) : (s.withEntry i a).withEntry i b = s.withEntry i b := by
  simp only [State.withEntry, setView_view, setView_setView, setEntry_setEntry]

theorem withLost_eq (s : State) (i : Fin 7) : s.withLost i = s.withEntry i (s.view.entry i).lost := rfl

/-- AGE_EXPIRY of a peer's running age timer (R69). -/
theorem after_ageExpiry {n : Nat} {i : Fin 7} (found : peerIndex n = some i) (running : (s.view.entry i).age.isRunning = true) :
    s.after (.ageExpiry n) = if s.alloc.phase = .inPass
      then s.withEntry i { s.view.entry i with age := .expired, heldExpiry := true }
      else ageTaken i (s.withEntry i { s.view.entry i with age := .expired }) := by
  simp only [State.after, exec, execAgeExpiry, found, running, if_true]
  split
  · rw [setView_view, entry_setEntry_same, setEntry_setEntry, setView_setView]
    rfl
  · rfl

theorem after_ageExpiry_idle {n : Nat} (idle : ∀ i, peerIndex n = some i → ¬ (s.view.entry i).age.isRunning = true) :
    s.after (.ageExpiry n) = s := by
  simp only [State.after, exec, execAgeExpiry]
  split
  · rfl
  · next i found => exact if_neg (idle i found)

theorem viewLaw_withEntry (h : ViewLaw s) (kept : PhaseKept s t) {i : Fin 7} {e : PeerEntry}
    (peers : t.view.peers = (s.withEntry i e).view.peers) (law : EntryLaw (s.isSelf i) (s.alloc.phase == .inPass) e) :
    ViewLaw t := by
  refine viewLaw_of_entries h kept fun j => ?_
  have entry : t.view.entry j = if i = j then e else s.view.entry j :=
    (congrArg (fun p : Vector PeerEntry 7 => p[j]) peers).trans (withEntry_entry s i j e)
  rw [entry]
  by_cases same : i = j
  · rw [if_pos same]
    exact .inr (same ▸ law)
  · rw [if_neg same]
    exact .inl rfl

theorem ViewLaw.ageExpiry (h : ViewLaw s) (n : Nat) : ViewLaw (s.after (.ageExpiry n)) := by
  by_cases due : ∃ i, peerIndex n = some i ∧ (s.view.entry i).age.isRunning = true
  · obtain ⟨i, found, running⟩ := due
    obtain ⟨peer, present, -⟩ := (((viewLaw_iff s).1 h).1 i).of_running running
    rw [after_ageExpiry found running]
    split
    · next pass =>
      refine viewLaw_withEntry h ⟨rfl, rfl, rfl, rfl⟩ rfl ?_
      rw [peer, pass]
      exact EntryLaw.holds present
    · obtain ⟨peers, kept⟩ := ageTaken_view i (s.withEntry i { s.view.entry i with age := .expired })
      rw [withLost_eq, withEntry_entry, if_pos rfl, withEntry_withEntry] at peers
      refine viewLaw_withEntry h kept peers ?_
      rw [peer]
      exact EntryLaw.lost rfl
  · rw [after_ageExpiry_idle fun i found running => due ⟨i, found, running⟩]
    exact h

theorem ViewLaw.listenTimerExpiry (h : ViewLaw s) : ViewLaw (s.after .listenTimerExpiry) := by
  obtain ⟨entries, wait, listening⟩ := (viewLaw_iff s).1 h
  simp only [State.after, exec, execListenTimerExpiry]
  split
  · next running =>
    have phase := listening.2 running
    refine ⟨fun i => ?_, ?_, ?_⟩
    · have entry := entries i
      rw [phase] at entry
      exact entry
    · have loaded : ¬ s.loaded = false := fun un => absurd (wait.2 un) (by rw [phase]; nofun)
      exact ⟨nofun, fun un => absurd un loaded⟩
    · exact ⟨nofun, nofun⟩
  · exact h

theorem peerIndex_eq_some_iff (n : Nat) (i : Fin 7) : peerIndex n = some i ↔ n = i.val + 1 := by
  unfold peerIndex
  split
  · simp only [Option.some.injEq, Fin.ext_iff]
    omega
  · simp only [reduceCtorEq, false_iff]
    omega

theorem viewAtPassStart_entry (s : State) (i : Fin 7) : ∃ e, s.viewAtPassStart.entry i = { e with changed := false }
    ∧ (e = s.view.entry i ∨ s.isSelf i = true ∧ e = (s.view.entry i).asSelf s.selfRecord) := by
  unfold State.viewAtPassStart
  have cleared (v : ConsistView) : ConsistView.entry { v with peers := v.peers.map fun e => { e with changed := false } } i
      = { v.entry i with changed := false } := Vector.getElem_map _ _
  split
  · next k found =>
    rw [cleared, entry_setEntry]
    refine ⟨_, rfl, ?_⟩
    split
    · next same =>
      subst same
      exact .inr ⟨(isSelf_iff s k).2 ((peerIndex_eq_some_iff _ _).1 found), rfl⟩
    · exact .inl rfl
  · exact ⟨_, cleared _, .inl rfl⟩

theorem ViewLaw.passStart (h : ViewLaw s) : ViewLaw (s.after .passStart) := by
  obtain ⟨entries, wait, listening⟩ := (viewLaw_iff s).1 h
  simp only [State.after, exec, execPassStart]
  split
  · next due =>
    obtain ⟨ready, -⟩ := (passDue_iff s).1 due
    have before (i : Fin 7) : EntryLaw (s.isSelf i) false (s.view.entry i) := by
      have entry := entries i
      rw [ready] at entry
      exact entry
    refine (viewLaw_iff _).2 ⟨fun i => ?_, ?_, ?_⟩
    · obtain ⟨e, eq, same | ⟨own, self⟩⟩ := viewAtPassStart_entry s i
      · show EntryLaw (s.isSelf i) _ (s.viewAtPassStart.entry i)
        rw [eq, same]
        exact ((before i).passStarts _).setChanged false
      · show EntryLaw (s.isSelf i) _ (s.viewAtPassStart.entry i)
        have law := (before i).passStarts true
        rw [own] at law
        rw [eq, self, own]
        exact (law.asSelf _).setChanged false
    · have loaded : ¬ s.loaded = false := fun un => absurd (wait.2 un) (by rw [ready]; nofun)
      exact ⟨nofun, fun un => absurd un loaded⟩
    · have stopped : ¬ s.alloc.listen.isRunning = true := fun run => absurd (listening.2 run) (by rw [ready]; nofun)
      exact ⟨nofun, fun run => absurd run stopped⟩
  · exact h

/-- The parts of a pass end before READY (R91). -/
theorem passEnd_kept (s : State) : (stepperExamine (sequencerPassEnd (publish s.passResults s))).view.peers = s.view.peers
    ∧ PhaseKept s (stepperExamine (sequencerPassEnd (publish s.passResults s))) := by
  have start := Deeds.refl (r := ⟨[], true, [.results, .stopDelay, .statusMarked]⟩) s (.inl rfl)
  have examined := (start.only (publish_only s.passResults s) (by simp)).sequencerPassEnd.stepperExamine
  obtain ⟨peers, phase, listen, station, loaded⟩ := examined.viewKept (by simp)
  exact ⟨peers, phase, listen, station, loaded⟩

/-- The view after a pass end, once the held expiries are taken (R69, R91). -/
theorem viewLaw_of_taken {u w : State} (law : ViewLaw u) (inPass : u.alloc.phase = .inPass) (ready : w.alloc.phase = .ready)
    (listen : w.alloc.listen = u.alloc.listen) (station : w.load.station = u.load.station) (loaded : w.loaded = u.loaded)
    (taken : ∀ j, w.view.entry j = if (u.view.entry j).heldExpiry = true then (u.view.entry j).lost else u.view.entry j) :
    ViewLaw w := by
  obtain ⟨entries, wait, listening⟩ := (viewLaw_iff u).1 law
  have loadedYet : ¬ u.loaded = false := fun un => absurd (wait.2 un) (by rw [inPass]; nofun)
  have stopped : ¬ u.alloc.listen.isRunning = true := fun run => absurd (listening.2 run) (by rw [inPass]; nofun)
  refine (viewLaw_iff w).2 ⟨fun j => ?_, ?_, ?_⟩
  · rw [taken, ready, State.isSelf, station]
    show EntryLaw (u.isSelf j) false _
    split
    · next held =>
      obtain ⟨peer, expired⟩ := (entries j).of_held held
      rw [peer]
      exact EntryLaw.lost expired
    · next free => exact (entries j).passEnds (Bool.not_eq_true _ ▸ free)
  · rw [ready, loaded]
    exact ⟨nofun, fun un => absurd un loadedYet⟩
  · rw [ready, listen]
    exact ⟨nofun, fun run => absurd run stopped⟩

theorem ViewLaw.passEnd (h : ViewLaw s) : ViewLaw (s.after .passEnd) := by
  simp only [State.after, exec, execPassEnd]
  split
  case isFalse => exact h
  next pass =>
  obtain ⟨peers, kept⟩ := passEnd_kept s
  have law : ViewLaw (stepperExamine (sequencerPassEnd (publish s.passResults s))) :=
    viewLaw_of_entries h kept fun j => .inl (congrArg (fun p : Vector PeerEntry 7 => p[j]) peers)
  have inPass := kept.1.trans pass
  generalize stepperExamine (sequencerPassEnd (publish s.passResults s)) = u at law inPass
  obtain ⟨taken, phase, listen, station, loaded⟩ := takeHeldExpiries_view (enterReady u)
  generalize takeHeldExpiries (enterReady u) = w at taken phase listen station loaded
  exact viewLaw_of_same (viewLaw_of_taken law inPass phase listen station loaded taken) rfl rfl rfl rfl rfl

theorem ViewLaw.configLoadCompletion (h : ViewLaw s) : ViewLaw (s.after .configLoadCompletion) := by
  rw [after_configLoadCompletion]
  split
  case isFalse => exact h
  next full =>
  obtain ⟨entries, wait, -⟩ := (viewLaw_iff s).1 h
  have waiting := wait.2 (unloaded_of_reading full)
  have loaded := (deeds_loadTail s).loaded (by simp)
  have handed := Deeds.loadHanded (s := s)
    (r := ⟨[codeConfigFault], true, [.startRecord, .hours, .minRun, .txEnabled, .heartbeat]⟩)
    (Deeds.refl _ (.inl rfl)) (by simp) (by simp [Scope.codes])
  obtain ⟨peers, -, -, station, -⟩ := (handed.only (enableTransmitter_only _) (by simp)).viewKept (by simp)
  generalize enableTransmitter (loadHanded s) = u at loaded peers station
  have exit := (Deeds.refl (r := ⟨[], true, [.minRun]⟩) (startLoadTimers u) (.inl rfl)).examineInit (by simp) (.inl rfl)
  obtain ⟨peers', phase, listen, station', -⟩ := exit.viewKept (by simp)
  generalize examineInit (startLoadTimers u) = v at loaded peers' phase listen station'
  have listening : v.alloc.phase = .listening := phase
  have running : v.alloc.listen = .running Config.listenMs := listen
  refine (viewLaw_iff v).2 ⟨fun j => ?_, ?_, ?_⟩
  · have entry := entries j
    rw [waiting] at entry
    have own : v.isSelf j = s.isSelf j := by
      rw [State.isSelf, station']
      exact congrArg (· == j.val + 1) station
    have same : v.view.entry j = s.view.entry j :=
      congrArg (fun p : Vector PeerEntry 7 => p[j]) (peers'.trans peers)
    rw [own, same, listening]
    exact entry
  · rw [listening, loaded]
    exact ⟨nofun, nofun⟩
  · rw [listening, running]
    exact ⟨fun _ => rfl, fun _ => rfl⟩

/-! ### Frames (R68, R70 to R73) -/

theorem heardPeer_peers (i : Fin 7) (s : State) :
    (heardPeer i s).view.peers = (s.withEntry i (s.view.entry i).heard).view.peers := rfl

theorem heardPeer_entry (i : Fin 7) (s : State) : (heardPeer i s).view.entry i = (s.view.entry i).heard :=
  (congrArg (fun p : Vector PeerEntry 7 => p[i]) (heardPeer_peers i s)).trans ((withEntry_entry ..).trans (if_pos rfl))

theorem withEntry_peers_congr {u : State} {i : Fin 7} {a : PeerEntry} (peers : u.view.peers = (s.withEntry i a).view.peers)
    (b : PeerEntry) : (u.withEntry i b).view.peers = (s.withEntry i b).view.peers := by
  show u.view.peers.set i b = s.view.peers.set i b
  rw [peers]
  exact Vector.set_set ..

/-- A frame of a peer touches its own entry alone: PRESENT, its age restarted, its record and changed mark as they come. -/
theorem applyPeer_view (i : Fin 7) (f : RawFrame) (s : State) : ∃ r b, (applyPeer i f s).view.peers
      = (s.withEntry i { s.view.entry i with presence := .present, age := .running Config.ageMs, record := r, changed := b }).view.peers
    ∧ PhaseKept s (applyPeer i f s) := by
  have kept : PhaseKept s (heardPeer i s) := ⟨rfl, rfl, rfl, rfl⟩
  have claimed {u : State} (d : Deeds ⟨[], true, newsParts⟩ (heardPeer i s) u) : ∃ r b, u.view.peers
      = (s.withEntry i { s.view.entry i with presence := .present, age := .running Config.ageMs, record := r, changed := b }).view.peers
      ∧ PhaseKept s u := by
    obtain ⟨peers, phase, listen, station, loaded⟩ := d.viewKept (by simp)
    exact ⟨_, _, peers.trans (heardPeer_peers i s), kept.trans ⟨phase, listen, station, loaded⟩⟩
  have start := Deeds.refl (r := ⟨[], true, newsParts⟩) (heardPeer i s) (.inl rfl)
  unfold applyPeer
  dsimp only
  split
  · split
    · exact claimed (Deeds.claimNews (start.applyClaim _ _ (by simp)) (by simp))
    · exact claimed start
  · exact claimed (Deeds.claimNews (start.peerReleases _ (by simp)) (by simp))
  · split
    · next r _ =>
      unfold applyStatus
      dsimp only
      rw [heardPeer_entry]
      generalize (((s.view.entry i).presence != .present) || recordChanged (s.view.entry i).heard.record r) = news
      have recorded := withEntry_peers_congr (heardPeer_peers i s) { (s.view.entry i).heard with
        record := some r, changed := (s.view.entry i).heard.changed || news }
      have begun := Deeds.refl (r := ⟨[], true, newsParts⟩) ((heardPeer i s).withEntry i { (s.view.entry i).heard with
        record := some r, changed := (s.view.entry i).heard.changed || news }) (.inl rfl)
      have listened := Deeds.ite (c := (heardPeer i s).link.linkFault = true) begun (begun.leaveAlone (by simp))
      obtain ⟨peers, phase, listen, station, loaded⟩ := (Deeds.triggerIf ((listened.applyStatusClaim (i.val + 1) r.claimHeld
        r.claimRemaining (by simp)).recomputeTally (by simp)) news).viewKept (by simp)
      exact ⟨_, _, peers.trans recorded, phase, listen, station, loaded⟩
    · exact claimed start
  · exact claimed (Deeds.ite (Deeds.trigger (start.recomputeTally (by simp))) start)

theorem ViewLaw.frameApplication (h : ViewLaw s) : ViewLaw (s.after .frameApplication) := by
  simp only [State.after, exec, execFrameApplication]
  split
  case isFalse => exact h
  next due =>
  obtain ⟨⟨-, outside, -⟩, -⟩ := (frameDue_iff_waits s).1 due
  split
  case h_2 => exact h
  next b rest _ =>
  have taken : ViewLaw (s.setLink (s.link.takePost b rest)) := viewLaw_of_same h rfl rfl rfl rfl rfl
  have outside' : (s.setLink (s.link.takePost b rest)).alloc.phase ≠ .inPass := outside
  generalize s.setLink (s.link.takePost b rest) = u at taken outside'
  generalize s.link.buffers[b] = f
  have keep {v : State} (d : Deeds ⟨[codeAddressConflict], true, .mailbox :: .replySlot :: conflictParts⟩ u v) : ViewLaw v := by
    obtain ⟨peers, phase, listen, station, loaded⟩ := d.viewKept (by simp)
    exact viewLaw_of_same taken peers phase listen station loaded
  have start := Deeds.refl (r := ⟨[codeAddressConflict], true, .mailbox :: .replySlot :: conflictParts⟩) u (.inl rfl)
  unfold applyFrame
  split
  · exact keep (start.only (requestFrame_only _ _) (by simp))
  split
  · exact keep (start.addressConflict (by simp) (covers_of_mem (by simp [Scope.codes]) (by decide)))
  next other =>
  split
  · next i found =>
    obtain ⟨r, b, peers, kept⟩ := applyPeer_view i f u
    have entry := ((viewLaw_iff u).1 taken).1 i
    have peer : u.isSelf i = false := by
      rw [Bool.eq_false_iff, Ne, isSelf_iff, ← (peerIndex_eq_some_iff _ _).1 found]
      exact fun same => other same.symm
    have idle : (u.alloc.phase == .inPass) = false := by simp [outside']
    rw [peer, idle] at entry
    refine viewLaw_withEntry taken kept peers ?_
    rw [peer]
    exact entry.heard _ r b
  · exact taken

theorem EntryLaw.tick {own pass : Bool} {e : PeerEntry} (h : EntryLaw own pass e) :
    EntryLaw own pass { e with age := e.age.advance Config.tickMs } := by
  have stopped : (e.age.advance Config.tickMs == .stopped) = (e.age == .stopped) := by cases e.age <;> rfl
  have expired : (e.age.advance Config.tickMs).isExpired = e.age.isExpired := by cases e.age <;> rfl
  unfold EntryLaw PeerEntry.agrees PeerEntry.agreesAsSelf at h ⊢
  dsimp only
  rw [stopped, expired, isRunning_advance]
  exact h

theorem ViewLaw.tick (h : ViewLaw s) : ViewLaw (Machine.tick s) := by
  obtain ⟨entries, wait, listening⟩ := (viewLaw_iff s).1 h
  refine (viewLaw_iff _).2 ⟨fun j => ?_, wait, ?_⟩
  · have entry : (Machine.tick s).view.entry j = { s.view.entry j with age := (s.view.entry j).age.advance Config.tickMs } :=
      Vector.getElem_map _ _
    rw [entry]
    exact (entries j).tick
  · show s.alloc.phase = .listening ↔ (s.alloc.listen.advance Config.tickMs).isRunning = true
    rw [isRunning_advance]
    exact listening

theorem viewLaw_afterReset (kind : ResetKind) (station rate : Nat) (ret : RetainedStore) (q : List Instr) :
    ViewLaw (State.afterReset kind station rate ret q) := by
  refine (viewLaw_iff _).2 ⟨fun j => ?_, ⟨fun _ => rfl, fun _ => rfl⟩, ⟨nofun, nofun⟩⟩
  have entry : (State.afterReset kind station rate ret q).view.entry j = .atReset := Vector.getElem_replicate j.isLt
  rw [entry]
  exact entryLaw_atReset _ _

theorem ViewLaw.after (h : ViewLaw s) (c : Instr) : ViewLaw (s.after c) := by
  cases reset : isReset c
  case true =>
    obtain ⟨kind, station, rate, ret, eq, -⟩ := after_of_isReset reset s
    rw [eq]
    exact viewLaw_afterReset ..
  cases own : touchesView c
  · obtain ⟨peers, phase, listen⟩ := avoids_view c own
    refine viewLaw_of_same h (read_after s (p := .peers) reset peers rfl) (read_after s (p := .phase) reset phase rfl)
      (read_after s (p := .listen) reset listen rfl) (station_after s reset) (loaded_after s c reset ?_)
    rintro rfl
    cases own
  · cases c
    case powerOnReset | coreReset => cases reset
    case frameApplication => exact h.frameApplication
    case ageExpiry n => exact h.ageExpiry n
    case listenTimerExpiry => exact h.listenTimerExpiry
    case passStart => exact h.passStart
    case passEnd => exact h.passEnd
    case configLoadCompletion => exact h.configLoadCompletion
    all_goals cases own

end

/-- Settles O10: an entry changes at a frame of its peer, at its age expiry and at the ends of a pass alone, and the phase at its own
four events; every entry agrees with itself before and after each. -/
theorem peerTableAndPhaseStayConsistent : Obligations.PeerTableAndPhaseStayConsistent := by
  intro s t law next
  exact step_keeps (P := ViewLaw) (fun _ _ h => h) (fun c _ h => h.after c) (fun _ h => h.tick) next law

end Sys2Proof.Machine
end


section
/-! The failed attempts under every step (R3, R13, R177). -/

namespace Sys2Proof.Machine

/-! ### The law without the load -/

/-- The failed attempts are within MAX_ATTEMPTS, which is at least 1 (R13, R177). -/
def AttemptsWithin (s : State) : Prop := 1 ≤ s.params.maxAttempts ∧ s.seq.attempts ≤ s.params.maxAttempts

/-- With it, another attempt may be made in the states from which one is made (R13). -/
def TryLaw (s : State) : Prop :=
  AttemptsWithin s ∧ (s.seq.state.starts = true → s.seq.attempts < s.params.maxAttempts)

theorem starts_iff (st : EngineState) :
    st.starts = true ↔ st ∈ [EngineState.stopped, .prelube, .claimWait, .claimSettle, .cranking] := by
  cases st <;> decide

theorem attemptLaw_iff (s : State) :
    AttemptLaw s ↔ TryLaw s ∧ (s.loaded = false → s.seq.state = .init ∧ s.seq.attempts = 0) := by
  rw [AttemptLaw, TryLaw, AttemptsWithin, starts_iff]
  tauto

section
variable {r : Scope} {s t u : State}

theorem AttemptsWithin.of_same (h : AttemptsWithin s) (attempts : t.seq.attempts = s.seq.attempts)
    (params : t.params = s.params) : AttemptsWithin t := by
  rw [AttemptsWithin, attempts, params]; exact h

theorem TryLaw.of_same (h : TryLaw s) (state : t.seq.state = s.seq.state) (attempts : t.seq.attempts = s.seq.attempts)
    (params : t.params = s.params) : TryLaw t := by
  rw [TryLaw, AttemptsWithin, state, attempts, params]; exact h

theorem TryLaw.of_seq (h : TryLaw s) (seq : t.seq = s.seq) (params : t.params = s.params) : TryLaw t :=
  h.of_same (by rw [seq]) (by rw [seq]) params

theorem TryLaw.quiet (h : TryLaw s) (q : Quiet s t) : TryLaw t := h.of_seq q.seq q.params

theorem TryLaw.stepped (h : TryLaw s) (k : Stepped s t) : TryLaw t := h.of_seq k.seq k.params

theorem TryLaw.only {l : List Part} (h : TryLaw s) (o : Only l s t) (engine : Part.engine ∉ l) (config : Part.config ∉ l) :
    TryLaw t := by
  have engine := o .engine engine
  exact h.of_same (congrArg (fun p : Part.engine.Value => p.1) engine) (congrArg (fun p : Part.engine.Value => p.2.2.1) engine)
    (congrArg (fun p : Part.config.Value => p.1) (o .config config))

/-- A Sequencer record that leaves the state and does not count an attempt. -/
theorem TryLaw.setSeq (h : TryLaw s) {x : Sequencer} (state : x.state = s.seq.state)
    (attempts : x.attempts = s.seq.attempts ∨ x.attempts = 0) : TryLaw (s.setSeq x) := by
  obtain ⟨⟨most, within⟩, below⟩ := h
  obtain same | zero := attempts
  · exact TryLaw.of_same ⟨⟨most, within⟩, below⟩ state same rfl
  · refine ⟨⟨most, ?_⟩, fun _ => ?_⟩
    · show x.attempts ≤ _
      rw [zero]; exact Nat.zero_le _
    · show x.attempts < _
      rw [zero]; exact most

theorem entered_seq (st : EngineState) (s : State) :
    (stepperEntry st (entryTold st s)).seq = { s.seq with state := st, stateTimer := 0, fireConfirm := .stopped }
      ∧ (stepperEntry st (entryTold st s)).params = s.params :=
  have stepped := (Stepped.refl (entryTold st s)).stepperEntry st
  ⟨stepped.seq.trans (entryTold_keeps st s).1, (entered_keeps st s).2.2.2.2.2⟩

/-- An entry keeps the law when another attempt may be made in the state entered. -/
theorem AttemptsWithin.entered (h : AttemptsWithin s) {st : EngineState}
    (start : st.starts = true → s.seq.attempts < s.params.maxAttempts) : TryLaw (stepperEntry st (entryTold st s)) := by
  obtain ⟨seq, params⟩ := entered_seq st s
  rw [TryLaw, AttemptsWithin, seq, params]
  exact ⟨h, start⟩

theorem TryLaw.entered (h : TryLaw s) {st : EngineState} (start : st.starts = true → s.mayTry) :
    TryLaw (stepperEntry st (entryTold st s)) := by
  refine h.1.entered fun starts => ?_
  obtain standing | none' | fewer := start starts
  · exact h.2 standing
  · rw [none']; exact h.1.1
  · exact fewer

theorem commandSet_params (c : CommandSet) (s : State) : (commandSet c s).params = s.params :=
  commandSet_keeps (P := fun t => t.params = s.params) rfl (fun _ _ h => h) (fun s o p h => by cases o <;> exact h)
    (fun _ _ _ h => ((Quiet.refl _).reportGone _).params.trans h)

theorem commandSet_seq (c : CommandSet) (s : State) : (commandSet c s).seq = s.seq :=
  commandSet_keeps (P := fun t => t.seq = s.seq) rfl (fun _ _ h => h) (fun s o p h => by cases o <;> exact h)
    (fun _ _ _ h => ((Quiet.refl _).reportGone _).seq.trans h)

theorem TryLaw.handSensorFault (h : TryLaw s) (code : Nat) : TryLaw (Machine.handSensorFault code s) := by
  obtain ⟨seq, -, -, -, -, -, -, params, -⟩ := handSensorFault_keeps code s
  exact h.of_seq seq params

/-- R13 along every chain that neither starts the rest timer nor loads parameters. -/
theorem TryLaw.deeds (h : TryLaw s) (d : Deeds r s t)
    (parts : Part.rest ∉ r.parts ∧ Part.config ∉ r.parts ∧ Part.engine ∉ r.parts) : TryLaw t := by
  induction d with
  | refl => exact h
  | records d x state _ _ attempts ih =>
    exact (ih h).setSeq state (attempts.imp id fun counted => counted.resolve_right fun rest => parts.1 rest.1)
  | entered d st _ start ih => exact (ih h).entered start
  | mark d ih => exact (ih h).quiet (Quiet.markStatus_self _)
  | trigger d ih => exact (ih h).quiet (Quiet.passTrigger_self _)
  | step d n ih => exact (ih h).stepped ((Stepped.refl _).stepNotch n)
  | commands d c ih => exact (ih h).of_seq (commandSet_seq c _) (commandSet_params c _)
  | derate d ih => exact (ih h).quiet (Quiet.refl _).computeDerate
  | hoursWrite d ih => exact (ih h).stepped ((Stepped.refl _).portMark _)
  | @join s t u d code mem isCode new k ih ihk =>
    have joined : TryLaw u := ihk ((ih h).quiet (((Quiet.refl t).withMember code).handDerate code _))
    exact (joined.handSensorFault code).quiet ((Quiet.refl _).handChange _ _)
  | leave d m _ _ ih => exact (ih h).quiet ((Quiet.refl _).leaveCondition m)
  | other d o _ ih => exact (ih h).only o parts.2.2 parts.2.1
  | slot d _ ih | own d _ _ _ ih | store d _ _ ih | phases d _ _ _ ih | input d _ _ ih | cause d _ _ ih
  | cleared d _ _ _ ih | dwell d _ ih => exact ih h

/-! ### A failed attempt (R13) -/

theorem AttemptsWithin.quiet (h : AttemptsWithin s) (q : Quiet s t) : AttemptsWithin t := h.of_same (by rw [q.seq]) q.params

theorem AttemptsWithin.entryBase (h : AttemptsWithin s) {st : EngineState}
    (start : st.starts = true → s.seq.attempts < s.params.maxAttempts) : TryLaw (Machine.entryBase st s) := by
  have entered := h.entered start
  rw [entryBase_eq]
  generalize stepperEntry st (entryTold st s) = w at entered
  exact entered.deeds (((Deeds.refl (r := ⟨[], true, []⟩) w (.inl rfl)).commands _).monitorEntry _) (by simp)

/-- STOPPING is no state from which an attempt is made. -/
theorem AttemptsWithin.enterStopping (h : AttemptsWithin s) : TryLaw (Machine.enterStopping s) := by
  have told : AttemptsWithin ((takeSnapshot s).setSeq
      { (takeSnapshot s).seq with resumed := false }) := h
  unfold Machine.enterStopping
  dsimp only
  generalize (takeSnapshot s).setSeq _ = v at told ⊢
  have entered : TryLaw (Machine.entryBase .stopping v) := told.entryBase nofun
  have start := Deeds.refl (r := ⟨[], true, []⟩) (Machine.entryBase .stopping v) (.inl rfl)
  exact entered.deeds (Deeds.stoppingExit rfl (start.store _ _)) (by simp)

theorem AttemptsWithin.failToStart (h : AttemptsWithin s) (code : Nat) :
    TryLaw (raiseMomentary code Machine.enterStopping s) := by
  refine TryLaw.quiet ?_ ((Quiet.refl _).reportGone code)
  unfold raiseBySequencer
  split
  · have caused : AttemptsWithin (s.setConditions (setCause code true s.mon.conditions)) := h
    exact caused.enterStopping
  · refine TryLaw.quiet (TryLaw.handSensorFault ?_ code) ((Quiet.refl _).handChange _ _)
    exact (h.quiet (((Quiet.refl s).withMember code).handDerate code _)).enterStopping

theorem TryLaw.failedAttempt (h : TryLaw s) (cranking : s.seq.state = .cranking) : TryLaw (Machine.failedAttempt s) := by
  have below : s.seq.attempts < s.params.maxAttempts := h.2 (by rw [cranking]; rfl)
  obtain ⟨seq, params⟩ := claimRelease_keeps .failed (s.setSeq { s.seq with attempts := s.seq.attempts + 1 })
  unfold Machine.failedAttempt
  dsimp only
  generalize claimRelease .failed (s.setSeq { s.seq with attempts := s.seq.attempts + 1 }) = u at seq params
  have attempts : u.seq.attempts = s.seq.attempts + 1 := by rw [seq]; rfl
  have most : u.params.maxAttempts = s.params.maxAttempts := by rw [params]; rfl
  have within : AttemptsWithin u := by rw [AttemptsWithin, attempts, most]; exact ⟨h.1.1, below⟩
  split
  · next again =>
    have rested : TryLaw (startRest u) := ⟨within, fun _ => by
      show u.seq.attempts < u.params.maxAttempts
      rw [attempts, most]; exact again⟩
    have start := Deeds.refl (r := ⟨[], true, []⟩) (startRest u) (.inl rfl)
    exact rested.deeds (start.enterClaimWait rfl (.inr (.inr (by
      show u.seq.attempts < u.params.maxAttempts
      rw [attempts, most]; exact again)))) (by simp)
  · exact within.failToStart codeFailToStart

theorem TryLaw.joiningAppears (h : TryLaw s) (code : Nat) (cls : CondClass) : TryLaw (Machine.joiningAppears code cls s) := by
  have start := Deeds.refl (r := ⟨[], true, []⟩) s (.inl rfl)
  have other : TryLaw (if code = codeCrankOpen then crankOpenAppears s else s) := by
    split
    · unfold crankOpenAppears
      split
      · exact h.failedAttempt ‹_›
      · exact h
    · exact h
  unfold Machine.joiningAppears
  split
  · exact h.deeds start.hardAppears (by simp)
  · exact h.deeds start.stopAppears (by simp)
  · exact h.deeds start.inhibitAppears (by simp)
  all_goals exact other

theorem TryLaw.reportPresent (h : TryLaw s) (code : Nat) : TryLaw (Machine.reportPresent code s) := by
  unfold Machine.reportPresent reportPresentWith
  split
  · exact h
  · exact ((TryLaw.joiningAppears (h.quiet (((Quiet.refl s).withMember code).handDerate code _)) code _).handSensorFault
      code).quiet ((Quiet.refl _).handChange _ _)

end

/-! ### Every command -/

/-- The commands that start the rest timer, load parameters or set every part. -/
def touchesAttempts : Instr → Bool
  | .powerOnReset _ | .coreReset _ | .configLoadCompletion | .crankTimeExpiry | .restTimerExpiry | .heatUpdate
  | .provingTimerExpiry _ => true
  | _ => false

theorem avoids_attempts (c : Instr) (h : touchesAttempts c = false) : avoids (ownParts c) .rest = true
    ∧ avoids (ownParts c) .config = true ∧ avoids (ownParts c) .engine = true := by
  cases c
  case cabLineQualification line => cases line <;> exact ⟨rfl, rfl, rfl⟩
  case analogSample channel raw => cases channel <;> exact ⟨rfl, rfl, rfl⟩
  case powerOnReset | coreReset | configLoadCompletion | crankTimeExpiry | restTimerExpiry | heatUpdate
    | provingTimerExpiry => cases h
  all_goals exact ⟨rfl, rfl, rfl⟩

section
variable {s : State}

theorem TryLaw.crankTimeExpiry (h : TryLaw s) : TryLaw (s.after .crankTimeExpiry) := by
  simp only [State.after, exec, execCrankTimeExpiry]
  split
  · next cranking =>
    refine TryLaw.failedAttempt (h.of_same ?_ ?_ ?_) ?_
    all_goals first | rfl | exact cranking
  · exact h

theorem TryLaw.heatUpdate (h : TryLaw s) : TryLaw (s.after .heatUpdate) := by
  have updated : TryLaw (s.setClaim { s.claim with
      heat := heatAfter s.params s.claim.heat s.out.crank, heatTimer := .running Config.heatMs }) := h
  simp only [State.after, exec, execHeatUpdate]
  split
  · split
    · exact updated.deeds (Deeds.refl (r := ⟨[], true, []⟩) _ (.inl rfl)).examineOffer (by simp)
    · split
      · next trips =>
        simp only [Bool.and_eq_true, decide_eq_true_eq] at trips
        exact updated.failedAttempt trips.2
      · exact updated
    all_goals exact updated
  · exact h

theorem TryLaw.provingTimerExpiry (h : TryLaw s) (o : ProvedOutput) : TryLaw (s.after (.provingTimerExpiry o)) := by
  simp only [State.after, exec, execProvingTimerExpiry]
  split
  · refine TryLaw.reportPresent ?_ _
    cases o <;> exact h
  · exact h

theorem AttemptLaw.configLoadCompletion (h : AttemptLaw s) : AttemptLaw (s.after .configLoadCompletion) := by
  rw [after_configLoadCompletion]
  split
  · next full =>
    have d := deeds_loadTail s
    obtain ⟨init, attempts⟩ := ((attemptLaw_iff s).1 h).2 (unloaded_of_reading full)
    have most : 1 ≤ (paramsOf s.load.image).maxAttempts := by
      show 1 ≤ clampTo 1 5 _
      unfold clampTo
      omega
    have parameters : TryLaw (loadParameters s) := by
      refine ⟨⟨most, ?_⟩, fun starts => ?_⟩
      · show s.seq.attempts ≤ _
        rw [attempts]; exact Nat.zero_le _
      · have starts : s.seq.state.starts = true := starts
        rw [init] at starts
        cases starts
    refine (attemptLaw_iff _).2 ⟨parameters.deeds d (by simp), fun unloaded => ?_⟩
    rw [d.loaded (by simp)] at unloaded
    cases unloaded
  · exact h

/-- Without entries and the rest timer no attempt is counted. -/
theorem Deeds.noAttempts {r : Scope} {t : State} (d : Deeds r s t) (e : r.entries = false) (engine : Part.engine ∉ r.parts)
    (zero : s.seq.attempts = 0) : t.seq.attempts = 0 := by
  induction d with
  | refl => exact zero
  | records d x _ _ _ attempts ih =>
    obtain same | none' | counted := attempts
    · exact same.trans (ih zero)
    · exact none'
    · rw [e] at counted; cases counted.2
  | entered d st e' => rw [e] at e'; cases e'
  | mark d ih => rw [(Quiet.markStatus_self _).seq]; exact ih zero
  | trigger d ih => rw [(Quiet.passTrigger_self _).seq]; exact ih zero
  | step d n ih => rw [((Stepped.refl _).stepNotch n).seq]; exact ih zero
  | commands d c ih => rw [commandSet_seq]; exact ih zero
  | derate d ih => rw [((Quiet.refl _).computeDerate).seq]; exact ih zero
  | hoursWrite d ih => rw [((Stepped.refl _).portMark _).seq]; exact ih zero
  | @join s t u d code mem isCode new k ih ihk =>
    rw [((Quiet.refl _).handChange _ _).seq, (handSensorFault_keeps code u).1]
    refine ihk ?_
    rw [(((Quiet.refl t).withMember code).handDerate code _).seq]
    exact ih zero
  | leave d m _ _ ih => rw [((Quiet.refl _).leaveCondition m).seq]; exact ih zero
  | other d o _ ih =>
    exact (congrArg (fun p : Part.engine.Value => p.2.2.1) (o .engine engine)).trans (ih zero)
  | slot d _ ih | own d _ _ _ ih | store d _ _ ih | phases d _ _ _ ih | input d _ _ ih | cause d _ _ ih
  | cleared d _ _ _ ih | dwell d _ ih => exact ih zero

theorem avoids_engine (c : Instr) : avoids (ownParts c) .engine = true := by
  cases c
  case cabLineQualification line => cases line <;> rfl
  case analogSample channel raw => cases channel <;> rfl
  all_goals rfl

theorem TryLaw.after (h : TryLaw s) (c : Instr) (reset : isReset c = false) (load : c ≠ .configLoadCompletion) :
    TryLaw (s.after c) := by
  cases own : touchesAttempts c
  · obtain ⟨codes, d⟩ := deeds_after (e := true) (.inl rfl) (.inl rfl) c reset fun _ => rfl
    obtain ⟨rest, config, engine⟩ := avoids_attempts c own
    exact h.deeds d ⟨not_mem_of_avoids rest, not_mem_of_avoids config, not_mem_of_avoids engine⟩
  · cases c
    case powerOnReset | coreReset => cases reset
    case configLoadCompletion => exact absurd rfl load
    case crankTimeExpiry => exact h.crankTimeExpiry
    case heatUpdate => exact h.heatUpdate
    case provingTimerExpiry o => exact h.provingTimerExpiry o
    case restTimerExpiry => exact h.only (only_restTimerExpiry s) (by simp) (by simp)
    all_goals cases own

theorem AttemptLaw.after (h : AttemptLaw s) (c : Instr) : AttemptLaw (s.after c) := by
  cases reset : isReset c
  · by_cases load : c = .configLoadCompletion
    · subst load; exact h.configLoadCompletion
    obtain ⟨within, before⟩ := (attemptLaw_iff s).1 h
    refine (attemptLaw_iff _).2 ⟨within.after c reset load, fun unloaded => ?_⟩
    rw [loaded_after s c reset load] at unloaded
    obtain ⟨init, zero⟩ := before unloaded
    obtain ⟨codes, d⟩ := deeds_after (e := false) (.inr init) (.inr unloaded) c reset fun is => absurd is load
    exact ⟨(d.state rfl).trans init, d.noAttempts rfl (not_mem_of_avoids (avoids_engine c)) zero⟩
  · obtain ⟨kind, station, rate, ret, eq, -⟩ := after_of_isReset reset s
    rw [eq]
    exact ⟨Nat.le_refl _, Nat.zero_le _, (fun _ => (by decide : 0 < 1)), fun _ => ⟨rfl, rfl⟩⟩

theorem AttemptLaw.tick (h : AttemptLaw s) : AttemptLaw (Machine.tick s) := h

end

end Sys2Proof.Machine
end


section
/-! The ranges of the counts under every step (R34, R37, R55, R56, R125, R143, R146, R157, R180, R181). -/

namespace Sys2Proof.Machine

section
variable {s t : State}

/-- A law of one part that its own commands keep is kept by every command but a reset. -/
theorem partLaw_after {p : Part} {P : p.Value → Prop} (h : P (p.read s)) {c : Instr} (reset : isReset c = false)
    (outside : avoids (.needs :: deedParts) p = true)
    (own : avoids (ownParts c) p = false → P (p.read (s.after c))) : P (p.read (s.after c)) := by
  cases touched : avoids (ownParts c) p
  · exact own touched
  · rw [read_after s reset touched outside]
    exact h

/-- A command without the part is none of its own commands. -/
theorem not_own {P : Prop} {l : List Part} {p : Part} (own : avoids l p = false) (clear : avoids l p = true := by rfl) : P :=
  absurd (own.symm.trans clear) Bool.false_ne_true

/-! ### Starter heat (R125) -/

theorem heatAfter_le (p : Params) (heat : Nat) (crank : Bool) : heatAfter p heat crank ≤ Config.heatMax := Nat.min_le_left _ _

/-- The claim with its heat and heat timer as an update leaves them (R125). -/
def State.heated (s : State) : State := s.setClaim { s.claim with
  heat := heatAfter s.params s.claim.heat s.out.crank, heatTimer := .running Config.heatMs }

/-- What a heat update does besides the heat itself (R13, R125). -/
theorem deeds_heated (s : State) (running : s.claim.heatTimer.isRunning = true) :
    Deeds ⟨[codeFailToStart], true, [.rest]⟩ s.heated (s.after .heatUpdate) := by
  have start := Deeds.refl (r := ⟨[codeFailToStart], true, [.rest]⟩) s.heated (.inl rfl)
  simp only [State.after, exec, execHeatUpdate, running, if_true]
  split
  · exact start.examineOffer
  · exact Deeds.ite (start.failedAttempt rfl (by simp) (by simp [Scope.codes])) start
  all_goals exact start

theorem after_heatUpdate_heat (s : State) : (s.after .heatUpdate).claim.heat
    = if s.claim.heatTimer.isRunning then heatAfter s.params s.claim.heat s.out.crank else s.claim.heat := by
  split
  · next running =>
    exact congrArg (fun p : Part.heat.Value => p.1) ((deeds_heated s running).read (p := .heat) (by simp) (by simp [deedParts]) nofun)
  · next idle =>
    simp only [State.after, exec, execHeatUpdate, idle]
    rfl

/-- R125 as a condition on the part. -/
def HeatRange (p : Part.heat.Value) : Prop := p.1 ≤ Config.heatMax

theorem heatRange_after (h : HeatRange (Part.heat.read s)) {c : Instr} (reset : isReset c = false) :
    HeatRange (Part.heat.read (s.after c)) := by
  refine partLaw_after h reset rfl fun own => ?_
  cases c
  case heatUpdate =>
    show (s.after .heatUpdate).claim.heat ≤ _
    rw [after_heatUpdate_heat]
    split
    · exact heatAfter_le _ _ _
    · exact h
  case cabLineQualification line => cases line <;> exact not_own own
  case analogSample channel raw => cases channel <;> exact not_own own
  all_goals exact not_own own

/-! ### Consecutive bit errors (R55, R56) -/

/-- R55, R56 as a condition on the part. -/
def BitErrorRange (p : Part.bitErrors.Value) : Prop := p.1 ≤ Config.bitErrorLimit ∧ p.2 = (p.1 == Config.bitErrorLimit)

theorem bitErrorRange_countError {l : LinkUnit} (h : BitErrorRange (l.bitErrors, l.linkFault)) :
    BitErrorRange (l.countError.bitErrors, l.countError.linkFault) := by
  obtain ⟨within, fault⟩ := h
  dsimp only at within fault
  unfold LinkUnit.countError
  dsimp only
  split
  · next faulty =>
    rw [faulty, eq_comm, beq_iff_eq] at fault
    refine ⟨Nat.min_le_left _ _, ?_⟩
    dsimp only
    rw [fault, faulty]
    rfl
  · next normal =>
    split
    · next reached =>
      refine ⟨Nat.min_le_left _ _, ?_⟩
      dsimp only
      rw [Nat.min_eq_left reached, beq_self_eq_true]
    · next below =>
      refine ⟨Nat.min_le_left _ _, ?_⟩
      dsimp only
      rw [Bool.not_eq_true] at normal
      rw [normal, eq_comm, beq_eq_false_iff_ne]
      omega

/-- The station once the failed frame waits again and the bit error is counted (R55). -/
def State.errorCounted (s : State) (kind : TxKind) (place : BitErrorPlace) : State :=
  (endFailed kind s).setLink ((endFailed kind s).link.afterBitError place).countError

/-- What a bit error does besides the failure and the count (R56, R79). -/
theorem deeds_errorCounted (s : State) (place : BitErrorPlace) {x : Transmission} (sends : s.link.sending = some x) :
    Deeds ⟨[codeLinkFault], true, [.alone, .sFrozen]⟩ (s.errorCounted x.kind place) (s.after (.bitError place)) := by
  have start := Deeds.refl (r := ⟨[codeLinkFault], true, [.alone, .sFrozen]⟩) (s.errorCounted x.kind place) (.inl rfl)
  simp only [State.after, exec, execBitError, sends]
  refine Deeds.ite (Deeds.enterAlone (start.reportPresent (covers_of_mem ?_ (by decide)) rfl) (by simp)) start
  simp [Scope.codes]

theorem bitErrorRange_errorCounted (h : BitErrorRange (Part.bitErrors.read s)) (kind : TxKind) (place : BitErrorPlace) :
    BitErrorRange (Part.bitErrors.read (s.errorCounted kind place)) := by
  have ended : BitErrorRange (Part.bitErrors.read (endFailed kind s)) := by
    rw [endFailed_only kind s .bitErrors (by simp)]
    exact h
  obtain ⟨-, -, -, -, fault, -, -, -, errors⟩ := afterBitError_keeps (endFailed kind s).link place
  refine bitErrorRange_countError ?_
  rw [fault, errors]
  exact ended

/-- The station once the completed frame has freed its slot (R57). -/
def State.completed (s : State) (kind : TxKind) : State := s.setLink (s.link.completed kind)

/-- What a completion does besides the freed slot (R56, R57, R80). -/
theorem deeds_completed (s : State) {x : Transmission} (sends : s.link.sending = some x) :
    Deeds ⟨[codeLinkFault], true, [.alone, .spacing, .heartbeat, .replySlot, .mailbox]⟩ (s.completed x.kind)
      (s.after .transmissionCompletion) := by
  have start := Deeds.refl (r := ⟨[codeLinkFault], true, [.alone, .spacing, .heartbeat, .replySlot, .mailbox]⟩)
    (s.completed x.kind) (.inl rfl)
  have ended := Deeds.ite (c := s.link.linkFault = true) (start.linkFaultEnds (by simp) (by simp [Scope.codes])) start
  simp only [State.after, exec, execTransmissionCompletion, sends]
  rw [← State.completed]
  generalize (if s.link.linkFault = true then _ else _) = u at ended
  unfold handCompletion
  split
  · exact Deeds.ite ended.ownClaimCompleted ended
  · exact Deeds.ite ended.examineOffer ended
  · exact ended.only (statusCompleted_only u) (by simp)
  · exact ended.serveMailbox (by simp)

theorem completed_bitErrors (l : LinkUnit) (kind : TxKind) :
    (l.completed kind).bitErrors = 0 ∧ (l.completed kind).linkFault = false := by
  by_cases disable : l.disablePending = true <;> cases kind <;>
    simp [LinkUnit.completed, LinkUnit.slotsAtCompletion, LinkUnit.settle, LinkUnit.atOutcome, LinkUnit.emptied, disable]

theorem bitErrorRange_after (h : BitErrorRange (Part.bitErrors.read s)) {c : Instr} (reset : isReset c = false) :
    BitErrorRange (Part.bitErrors.read (s.after c)) := by
  refine partLaw_after h reset rfl fun own => ?_
  cases c
  case bitError place =>
    cases sends : s.link.sending with
    | none => simpa only [State.after, exec, execBitError, sends] using h
    | some x =>
      rw [(deeds_errorCounted s place sends).read (p := .bitErrors) (by simp) (by simp [deedParts]) nofun]
      exact bitErrorRange_errorCounted h _ _
  case transmissionCompletion =>
    cases sends : s.link.sending with
    | none => simpa only [State.after, exec, execTransmissionCompletion, sends] using h
    | some x =>
      rw [(deeds_completed s sends).read (p := .bitErrors) (by simp) (by simp [deedParts]) nofun]
      obtain ⟨errors, fault⟩ := completed_bitErrors s.link x.kind
      show BitErrorRange ((s.link.completed x.kind).bitErrors, (s.link.completed x.kind).linkFault)
      rw [errors, fault]
      exact ⟨by decide, rfl⟩
  case cabLineQualification line => cases line <;> exact not_own own
  case analogSample channel raw => cases channel <;> exact not_own own
  all_goals exact not_own own

/-! ### The governor's counts (R143) -/

/-- R143 as a condition on the part. -/
def ReportRange (p : Part.report.Value) : Prop := p.2.2.1 ≤ 2 ∧ p.2.2.2 ≤ 2

theorem judge_counts {p : Port} (bad : p.badReads ≤ 2) (good : p.goodReads ≤ 2) (b : Bool) :
    (p.judge b).badReads ≤ 2 ∧ (p.judge b).goodReads ≤ 2 := by
  unfold Port.judge
  split
  · exact ⟨Nat.zero_le _, good⟩
  · split
    · next below => exact ⟨below, good⟩
    · exact ⟨Nat.zero_le _, Nat.zero_le _⟩
  · exact ⟨bad, Nat.zero_le _⟩
  · split
    · next below => exact ⟨bad, below⟩
    · exact ⟨Nat.zero_le _, Nat.zero_le _⟩

/-- The port with a STATUS_READ's report kept and judged (R142, R143). -/
def Port.judged (p : Port) (r : GovernorReport) : Port :=
  Port.judge { p with
    report := r
    buffer := fillBuffer p.buffer [r.signature, r.state, r.faultCode, r.fuelDemand] } r.good

/-- What a STATUS_READ does besides the judgement (R137, R143). -/
theorem deeds_judged (s : State) (r : GovernorReport) (flies : s.port.inFlight = some .statusRead) :
    Deeds ⟨[codeGovernorFault], true, [.port]⟩ (s.setPort (s.port.judged r))
      (s.after (.statusReadCompletion r.signature r.state r.faultCode r.fuelDemand)) := by
  have start := Deeds.refl (r := ⟨[codeGovernorFault], true, [.port]⟩) (s.setPort (s.port.judged r)) (.inl rfl)
  simp only [State.after, exec, execStatusReadCompletion]
  rw [if_pos flies]
  have freed := start.only (portRelease_only _) (by simp)
  refine Deeds.ite freed (freed.reportCause (covers_of_mem ?_ (by decide)) rfl _)
  simp [Scope.codes]

theorem reportRange_after (h : ReportRange (Part.report.read s)) {c : Instr} (reset : isReset c = false) :
    ReportRange (Part.report.read (s.after c)) := by
  refine partLaw_after h reset rfl fun own => ?_
  cases c
  case statusReadCompletion signature state faultCode fuelDemand =>
    by_cases flies : s.port.inFlight = some .statusRead
    · rw [(deeds_judged s ⟨signature, state, faultCode, fuelDemand⟩ flies).read (p := .report) (by simp) (by simp [deedParts]) nofun]
      exact judge_counts (p := { s.port with
        report := ⟨signature, state, faultCode, fuelDemand⟩
        buffer := fillBuffer s.port.buffer [signature, state, faultCode, fuelDemand] }) h.1 h.2 _
    · simpa only [State.after, exec, execStatusReadCompletion, flies, if_false] using h
  case cabLineQualification line => cases line <;> exact not_own own
  case analogSample channel raw => cases channel <;> exact not_own own
  all_goals exact not_own own

/-! ### Speed and running time (R146, R180, R181) -/

/-- R180 as a condition on the part. -/
def HoursRange (p : Part.hours.Value) : Prop := p.1 ≤ Config.maxHours ∧ p.2 ≤ Config.maxHours

/-- R181 as a condition on the part. -/
def WindowRange (p : Part.windows.Value) : Prop := p.2 ≤ 59 ∧ p.1 ≤ 599

/-- The measured speed taken (R146). -/
def State.measured (s : State) (pulses : Nat) : State :=
  s.setMon { s.mon with speed := speedOf s.params.teeth pulses, speedYet := true }

/-- The tests of a speed value before the running time (R148, R149, R164; log 14). -/
def State.tested (s : State) (pulses : Nat) : State := failToStopCause (stallTest (overspeedTest (s.measured pulses)))

theorem after_speedValue (s : State) (pulses : Nat) :
    s.after (.speedValue pulses) = sequencerSpeed (runningTime (s.tested pulses)) := rfl

theorem deeds_tested (s : State) (pulses : Nat) :
    Deeds ⟨[codeOverspeed, codeFailToStop], true, []⟩ (s.measured pulses) (s.tested pulses) :=
  (((Deeds.refl _ (.inl rfl)).overspeedTest (by simp [Scope.codes])).stallTest).failToStopCause (by simp [Scope.codes])

theorem deeds_sequencerSpeed (s : State) : Deeds ⟨[], true, [.minRun]⟩ s (sequencerSpeed s) :=
  (Deeds.refl (r := ⟨[], true, [.minRun]⟩) s (.inl rfl)).sequencerSpeed (by simp) (.inl rfl)

theorem after_speedValue_speed (s : State) (pulses : Nat) :
    Part.speed.read (s.after (.speedValue pulses)) = (speedOf s.params.teeth pulses, true) := by
  have timed := (Deeds.refl (r := ⟨[], true, [.windows, .hours]⟩) (s.tested pulses) (.inl rfl)).runningTime (by simp)
  rw [after_speedValue, (deeds_sequencerSpeed _).read (p := .speed) (by simp) (by simp [deedParts]) nofun,
    timed.read (p := .speed) (by simp) (by simp [deedParts]) nofun,
    (deeds_tested s pulses).read (p := .speed) (by simp) (by simp [deedParts]) nofun]
  rfl

theorem runningTime_ranges (h : HoursRange (Part.hours.read s)) (k : WindowRange (Part.windows.read s)) :
    HoursRange (Part.hours.read (runningTime s)) ∧ WindowRange (Part.windows.read (runningTime s)) := by
  obtain ⟨minutes, windows⟩ := k
  unfold runningTime
  split
  case isFalse => exact ⟨h, minutes, windows⟩
  unfold countWindow
  split
  · next fewer => exact ⟨h, minutes, Nat.le_of_lt_succ fewer⟩
  dsimp only
  split
  · next fewer => exact ⟨h, Nat.le_of_lt_succ fewer, Nat.zero_le _⟩
  unfold hourPasses
  dsimp only
  split
  · next fewer =>
    have counted : HoursRange (s.load.hours + 1, s.load.hours + 1) := ⟨fewer, fewer⟩
    split
    · exact ⟨counted, Nat.zero_le _, Nat.zero_le _⟩
    · rw [portMark_only _ _ .hours (by simp), portMark_only _ _ .windows (by simp)]
      exact ⟨counted, Nat.zero_le _, Nat.zero_le _⟩
  · exact ⟨h, Nat.zero_le _, Nat.zero_le _⟩

theorem timeRanges_speedValue (h : HoursRange (Part.hours.read s)) (k : WindowRange (Part.windows.read s)) (pulses : Nat) :
    HoursRange (Part.hours.read (s.after (.speedValue pulses)))
      ∧ WindowRange (Part.windows.read (s.after (.speedValue pulses))) := by
  have tested := deeds_tested s pulses
  rw [after_speedValue, (deeds_sequencerSpeed _).read (p := .hours) (by simp) (by simp [deedParts]) nofun,
    (deeds_sequencerSpeed _).read (p := .windows) (by simp) (by simp [deedParts]) nofun]
  refine runningTime_ranges ?_ ?_
  · rw [tested.read (p := .hours) (by simp) (by simp [deedParts]) nofun]
    exact h
  · rw [tested.read (p := .windows) (by simp) (by simp [deedParts]) nofun]
    exact k

end

end Sys2Proof.Machine
end


section
/-! Hours, sampled code, demand with its tally, and active times under every step; then all counts (R34, R37, R83, R157, R180). -/

namespace Sys2Proof.Machine

section
variable {s t : State}

/-! ### The hours at the load (R180) -/

theorem loadedHours_le (h : s.ret.shadow ≤ Config.maxHours) : s.loadedHours ≤ Config.maxHours := by
  have stored (image : List Byte) : hoursOf image ≤ Config.maxHours := Nat.min_le_left _ _
  unfold State.loadedHours
  split
  · exact stored _
  · exact Nat.max_le.2 ⟨stored _, h⟩
  · exact Nat.zero_le _
  · exact h

theorem loadHours_hours (s : State) : Part.hours.read (loadHours s) = (s.loadedHours, s.loadedHours) := by
  unfold loadHours
  dsimp only
  split
  · rw [portMark_only _ _ .hours (by simp)]
    rfl
  · rfl

/-- What the load does once the hours are set (R179). -/
theorem deeds_afterHours (s : State) : Deeds ⟨[codeConfigFault], true, [.txEnabled, .heartbeat, .listen, .phase, .layoverCheck,
    .recovery, .statusTimer, .minRun]⟩ (loadHours (loadParameters s))
      (examineInit (startLoadTimers (enableTransmitter (loadHanded s)))) := by
  have judged := (Deeds.refl (r := ⟨[codeConfigFault], true, [.txEnabled, .heartbeat, .listen, .phase, .layoverCheck, .recovery,
    .statusTimer, .minRun]⟩) (loadHours (loadParameters s)) (.inl rfl)).judgeConfig (by simp [Scope.codes])
  have handed := judged.derate.unmaskInputs false
  exact ((handed.only (enableTransmitter_only _) (by simp)).only (startLoadTimers_only _) (by simp)).examineInit (by simp) (.inl rfl)

theorem hoursRange_load (h : HoursRange (Part.hours.read s)) : HoursRange (Part.hours.read (s.after .configLoadCompletion)) := by
  rw [after_configLoadCompletion]
  split
  · rw [(deeds_afterHours s).read (p := .hours) (by simp) (by simp [deedParts]) nofun, loadHours_hours]
    have kept : (loadParameters s).ret.shadow ≤ Config.maxHours := h.2
    exact ⟨loadedHours_le kept, loadedHours_le kept⟩
  · exact h

theorem hoursRange_after (h : HoursRange (Part.hours.read s)) (k : WindowRange (Part.windows.read s)) {c : Instr}
    (reset : isReset c = false) : HoursRange (Part.hours.read (s.after c)) := by
  refine partLaw_after h reset rfl fun own => ?_
  cases c
  case speedValue pulses => exact (timeRanges_speedValue h k pulses).1
  case configLoadCompletion => exact hoursRange_load h
  case cabLineQualification line => cases line <;> exact not_own own
  case analogSample channel raw => cases channel <;> exact not_own own
  all_goals exact not_own own

theorem windowRange_after (h : HoursRange (Part.hours.read s)) (k : WindowRange (Part.windows.read s)) {c : Instr}
    (reset : isReset c = false) : WindowRange (Part.windows.read (s.after c)) := by
  refine partLaw_after k reset rfl fun own => ?_
  cases c
  case speedValue pulses => exact (timeRanges_speedValue h k pulses).2
  case cabLineQualification line => cases line <;> exact not_own own
  case analogSample channel raw => cases channel <;> exact not_own own
  all_goals exact not_own own

/-! ### The speed (R146) -/

/-- R146 as a condition on the part. -/
def SpeedRange (p : Part.speed.Value) : Prop := p.1 ≤ Config.maxRpm

theorem speedRange_after (h : SpeedRange (Part.speed.read s)) {c : Instr} (reset : isReset c = false) :
    SpeedRange (Part.speed.read (s.after c)) := by
  refine partLaw_after h reset rfl fun own => ?_
  cases c
  case speedValue pulses =>
    rw [after_speedValue_speed]
    exact Nat.min_le_left _ _
  case cabLineQualification line => cases line <;> exact not_own own
  case analogSample channel raw => cases channel <;> exact not_own own
  all_goals exact not_own own

/-! ### The sampled code (R34) -/

/-- R34 as a condition on the part. -/
def CodeRange (p : Part.sampledCode.Value) : Prop := p.1 ≤ 15

theorem throttleCode_le (l : CabLevels) : throttleCode l ≤ 15 := by
  have bounded (b : Bool) : bit b ≤ 1 := by cases b <;> decide
  have t1 := bounded l.t1
  have t2 := bounded l.t2
  have t3 := bounded l.t3
  have t4 := bounded l.t4
  unfold throttleCode
  omega

theorem sampleCode_le {c : CabUnit} (h : c.sampledCode ≤ 15) {code : Nat} (new : code ≤ 15) :
    (c.sampleCode code).sampledCode ≤ 15 := by
  unfold CabUnit.sampleCode
  split
  · exact h
  · exact new

theorem codeRange_after (h : CodeRange (Part.sampledCode.read s)) {c : Instr} (reset : isReset c = false) :
    CodeRange (Part.sampledCode.read (s.after c)) := by
  refine partLaw_after h reset rfl fun own => ?_
  cases c
  case cabLineSample levels => exact sampleCode_le (c := { s.cab with
    run := _, estop := _, faultReset := _, isolate := _ }) h (throttleCode_le levels)
  case cabLineQualification line => cases line <;> exact not_own own
  case analogSample channel raw => cases channel <;> exact not_own own
  all_goals exact not_own own

/-! ### Demand and tally (R37, R83) -/

/-- The demand is 0..8 and the tally counts nine notches (R37, R83). -/
def DemandLaw (s : State) : Prop := s.cab.demand ≤ 8 ∧ s.view.tally.length = 9

theorem demandLaw_of_same (h : DemandLaw s) (demand : t.cab.demand = s.cab.demand) (tally : t.view.tally = s.view.tally) :
    DemandLaw t := by
  rw [DemandLaw, demand, tally]; exact h

theorem DemandLaw.deeds {r : Scope} (h : DemandLaw s) (d : Deeds r s t)
    (parts : Part.demand ∉ r.parts ∧ Part.tally ∉ r.parts) : DemandLaw t :=
  demandLaw_of_same h (congrArg (fun p : Part.demand.Value => p.1) (d.read (p := .demand) parts.1 (by simp [deedParts]) nofun))
    (d.read (p := .tally) parts.2 (by simp [deedParts]) nofun)

theorem majority_lt {tally : List Nat} {n : Nat} (h : majority tally = some n) : n < tally.length := by
  by_cases counted : ∃ k ∈ tally, 0 < k
  · obtain ⟨e, lowest, inside, -⟩ := majority_lowest counted
    rw [h, Option.some.injEq] at lowest
    rw [lowest]
    exact inside
  · have empty : ∀ k ∈ tally, k = 0 := fun k mem => Nat.eq_zero_of_not_pos fun positive => counted ⟨k, mem, positive⟩
    rw [majority_none empty] at h
    cases h

theorem takeMajority_demand (c : CabUnit) {tally : List Nat} (length : tally.length = 9) :
    (c.takeMajority (majority tally)).demand ≤ 8 := by
  unfold CabUnit.takeMajority
  split
  · next notch most =>
    have inside := majority_lt most
    rw [length] at inside
    exact Nat.le_of_lt_succ inside
  · exact Nat.zero_le _

theorem changeDecoder_keeps (c : CabUnit) (s : State) : (changeDecoder c s).cab = c ∧ (changeDecoder c s).view = s.view := by
  unfold changeDecoder
  rw [markStatusIf_eq, passTriggerIf_eq]
  exact ⟨rfl, rfl⟩

theorem demandLaw_changeDecoder (h : DemandLaw s) {c : CabUnit} (demand : c.demand ≤ 8) : DemandLaw (changeDecoder c s) := by
  obtain ⟨cab, view⟩ := changeDecoder_keeps c s
  rw [DemandLaw, cab, view]
  exact ⟨demand, h.2⟩

theorem DemandLaw.majorityNotice (h : DemandLaw s) : DemandLaw (Machine.majorityNotice s) := by
  unfold Machine.majorityNotice
  split
  · exact demandLaw_changeDecoder h (takeMajority_demand _ h.2)
  · exact h

theorem countTally_length (s : State) : s.countTally.length = 9 := by
  rw [State.countTally, List.length_map, List.length_range]

theorem DemandLaw.recomputeTally (h : DemandLaw s) : DemandLaw (Machine.recomputeTally s) := by
  have counted : DemandLaw (s.setView { s.view with tally := s.countTally }) := ⟨h.1, countTally_length s⟩
  unfold Machine.recomputeTally
  dsimp only
  split
  · exact h
  · exact counted.majorityNotice

theorem DemandLaw.passTrigger (h : DemandLaw s) : DemandLaw (Machine.passTrigger s) := by rw [passTrigger_eq]; exact h

theorem DemandLaw.passTriggerIf (h : DemandLaw s) (b : Bool) : DemandLaw (Machine.passTriggerIf b s) := by
  rw [passTriggerIf_eq]; exact h

theorem DemandLaw.claimNews (h : DemandLaw s) : DemandLaw (Machine.claimNews s) := h.recomputeTally.passTrigger

/-- The parts of a peer's frame without tally and demand. -/
abbrev heardParts : List Part := [.peers, .everSeen, .alone, .sFrozen] ++ claimParts

theorem DemandLaw.ageTaken (h : DemandLaw s) (i : Fin 7) : DemandLaw (Machine.ageTaken i s) := by
  have lost : DemandLaw (s.withLost i) := h
  rw [ageTaken_eq]
  generalize s.withLost i = u at lost
  refine (DemandLaw.recomputeTally ?_).passTrigger
  split
  · exact lost.deeds ((Deeds.refl (r := ⟨[], true, heardParts⟩) u (.inl rfl)).enterAlone (by simp)) (by simp)
  · exact lost

theorem DemandLaw.takeHeldExpiries (h : DemandLaw s) : DemandLaw (Machine.takeHeldExpiries s) := by
  rw [takeHeldExpiries_eq]
  generalize List.finRange 7 = l
  induction l generalizing s with
  | nil => exact h
  | cons i l ih =>
    refine ih ?_
    unfold takeIfHeld
    split
    · exact h.ageTaken i
    · exact h

theorem DemandLaw.applyPeer (h : DemandLaw s) (i : Fin 7) (f : RawFrame) : DemandLaw (Machine.applyPeer i f s) := by
  have heard : DemandLaw (heardPeer i s) := h
  unfold Machine.applyPeer
  dsimp only
  generalize heardPeer i s = u at heard
  have start := Deeds.refl (r := ⟨[], true, heardParts⟩) u (.inl rfl)
  split
  · split
    · exact (heard.deeds (start.applyClaim _ _ (by simp)) (by simp)).claimNews
    · exact heard
  · exact (heard.deeds (start.peerReleases _ (by simp)) (by simp)).claimNews
  · split
    · unfold applyStatus
      dsimp only
      have recorded (e : PeerEntry) : Deeds ⟨[], true, heardParts⟩ u (u.setView (u.view.setEntry i e)) :=
        start.only (setEntry_only u i e) (by simp)
      exact (DemandLaw.recomputeTally (heard.deeds ((Deeds.ite (recorded _) ((recorded _).leaveAlone (by simp))).applyStatusClaim
        _ _ _ (by simp)) (by simp))).passTriggerIf _
    · exact heard
  · split
    · exact heard.recomputeTally.passTrigger
    · exact heard

theorem DemandLaw.frameApplication (h : DemandLaw s) : DemandLaw (s.after .frameApplication) := by
  simp only [State.after, exec, execFrameApplication]
  split
  case isFalse => exact h
  split
  case h_2 => exact h
  next b rest _ =>
  have taken : DemandLaw (s.setLink (s.link.takePost b rest)) := h
  generalize s.setLink (s.link.takePost b rest) = u at taken
  generalize s.link.buffers[b] = f
  have start := Deeds.refl (r := ⟨[codeAddressConflict], true, .mailbox :: .replySlot :: conflictParts⟩) u (.inl rfl)
  unfold applyFrame
  split
  · exact taken.deeds (start.only (requestFrame_only _ _) (by simp)) (by simp)
  split
  · exact taken.deeds (start.addressConflict (by simp) (covers_of_mem (by simp [Scope.codes]) (by decide))) (by simp)
  split
  · exact taken.applyPeer _ f
  · exact taken

theorem DemandLaw.ageExpiry (h : DemandLaw s) (n : Nat) : DemandLaw (s.after (.ageExpiry n)) := by
  by_cases due : ∃ i, peerIndex n = some i ∧ (s.view.entry i).age.isRunning = true
  · obtain ⟨i, found, running⟩ := due
    rw [after_ageExpiry found running]
    split
    · exact h
    · have expired : DemandLaw (s.withEntry i { s.view.entry i with age := .expired }) := h
      exact expired.ageTaken i
  · rw [after_ageExpiry_idle fun i found running => due ⟨i, found, running⟩]
    exact h

theorem DemandLaw.passEnd (h : DemandLaw s) : DemandLaw (s.after .passEnd) := by
  have start := Deeds.refl (r := ⟨[], true, [.results, .stopDelay, .statusMarked]⟩) s (.inl rfl)
  have examined : DemandLaw (stepperExamine (sequencerPassEnd (publish s.passResults s))) :=
    h.deeds (start.only (publish_only s.passResults s) (by simp)).sequencerPassEnd.stepperExamine (by simp)
  simp only [State.after, exec, execPassEnd]
  split
  · generalize stepperExamine (sequencerPassEnd (publish s.passResults s)) = u at examined
    have ready : DemandLaw (enterReady u) := examined
    have taken : DemandLaw (Machine.takeHeldExpiries (enterReady u)) := ready.takeHeldExpiries
    generalize Machine.takeHeldExpiries (enterReady u) = w at taken
    exact taken
  · exact h

theorem qualifyCode_demand {c : CabUnit} (h : c.demand ≤ 8) (code : Nat) : (c.qualifyCode code).demand ≤ 8 := by
  unfold CabUnit.qualifyCode
  dsimp only
  split
  · next valid => exact valid
  · split <;> exact h

theorem DemandLaw.throttleCodeQualification (h : DemandLaw s) : DemandLaw (s.after .throttleCodeQualification) := by
  simp only [State.after, exec, execThrottleCodeQualification]
  split
  · split
    · exact h
    · exact demandLaw_changeDecoder h (qualifyCode_demand (c := { s.cab with codeStability := .expired }) h.1 _)
  · exact h

theorem DemandLaw.invalidCodeTimerExpiry (h : DemandLaw s) : DemandLaw (s.after .invalidCodeTimerExpiry) := by
  simp only [State.after, exec, execInvalidCodeTimerExpiry]
  split
  · split
    · exact demandLaw_changeDecoder h (takeMajority_demand _ h.2)
    · exact h
  · exact h

/-- The commands that change demand or tally. -/
def touchesDemand : Instr → Bool
  | .throttleCodeQualification | .invalidCodeTimerExpiry | .frameApplication | .ageExpiry _ | .passEnd => true
  | _ => false

theorem avoids_demand (c : Instr) (h : touchesDemand c = false) :
    avoids (ownParts c) .demand = true ∧ avoids (ownParts c) .tally = true := by
  cases c
  case cabLineQualification line => cases line <;> exact ⟨rfl, rfl⟩
  case analogSample channel raw => cases channel <;> exact ⟨rfl, rfl⟩
  case throttleCodeQualification | invalidCodeTimerExpiry | frameApplication | ageExpiry | passEnd => cases h
  all_goals exact ⟨rfl, rfl⟩

theorem DemandLaw.after (h : DemandLaw s) {c : Instr} (reset : isReset c = false) : DemandLaw (s.after c) := by
  cases own : touchesDemand c
  · obtain ⟨demand, tally⟩ := avoids_demand c own
    exact demandLaw_of_same h (congrArg (fun p : Part.demand.Value => p.1) (read_after s (p := .demand) reset demand rfl))
      (read_after s (p := .tally) reset tally rfl)
  · cases c
    case throttleCodeQualification => exact h.throttleCodeQualification
    case invalidCodeTimerExpiry => exact h.invalidCodeTimerExpiry
    case frameApplication => exact h.frameApplication
    case ageExpiry n => exact h.ageExpiry n
    case passEnd => exact h.passEnd
    all_goals cases own

/-! ### Active times (R157) -/

/-- Every member's active time is held (R157). -/
def ActiveLaw (s : State) : Prop := ∀ m ∈ s.mon.conditions, m.activeMs ≤ Config.activeHoldMs

theorem activeLaw_of_same (h : ActiveLaw s) (conditions : t.mon.conditions = s.mon.conditions) : ActiveLaw t := by
  rw [ActiveLaw, conditions]; exact h

theorem ActiveLaw.setCause (h : ActiveLaw s) (code : Nat) (b : Bool) :
    ActiveLaw (s.setConditions (Machine.setCause code b s.mon.conditions)) := by
  intro m mem
  obtain ⟨x, there, rfl⟩ := List.mem_map.1 mem
  split <;> exact h x there

theorem ActiveLaw.leaveCondition (h : ActiveLaw s) (m : Member) : ActiveLaw (Machine.leaveCondition m s) := by
  rw [ActiveLaw, leaveCondition_conditions]
  exact fun x mem => h x (List.mem_of_mem_filter mem)

theorem ActiveLaw.reportGone (h : ActiveLaw s) (code : Nat) : ActiveLaw (Machine.reportGone code s) := by
  unfold Machine.reportGone
  split
  · exact h
  · split
    · exact h.setCause code false
    · exact h.leaveCondition _

theorem ActiveLaw.withMember (h : ActiveLaw s) (code : Nat) : ActiveLaw (s.withMember code) := by
  intro m mem
  obtain rfl | there := mem_insertMember.1 mem
  · exact Nat.zero_le _
  · exact h m there

theorem ActiveLaw.commandSet (h : ActiveLaw s) (c : CommandSet) : ActiveLaw (Machine.commandSet c s) :=
  commandSet_keeps h (fun _ _ h => h) (fun s o p h => by cases o <;> exact h) (fun _ code _ h => h.reportGone code)

/-- R157 along every chain. -/
theorem ActiveLaw.deeds {r : Scope} (h : ActiveLaw s) (d : Deeds r s t) (parts : Part.conditions ∉ r.parts) : ActiveLaw t := by
  induction d with
  | refl => exact h
  | entered d st _ _ ih => exact activeLaw_of_same (ih h) (by rw [(entered_keeps st _).2.1])
  | mark d ih => exact activeLaw_of_same (ih h) (by rw [markStatus_eq]; rfl)
  | trigger d ih => exact activeLaw_of_same (ih h) (by rw [passTrigger_eq]; rfl)
  | step d n ih => exact activeLaw_of_same (ih h) (by rw [((Stepped.refl _).stepNotch n).mon])
  | commands d c ih => exact (ih h).commandSet c
  | derate d ih => exact activeLaw_of_same (ih h) (computeDerate_conditions _)
  | hoursWrite d ih => exact activeLaw_of_same (ih h) (by rw [((Stepped.refl _).portMark _).mon])
  | cause d _ b ih => exact (ih h).setCause _ b
  | @join s t u d code mem isCode new k ih ihk =>
    have joined : ActiveLaw u := ihk (activeLaw_of_same ((ih h).withMember code) (handDerate_conditions _ _ _))
    exact activeLaw_of_same joined (by rw [handChange_conditions, (handSensorFault_keeps code u).2.1])
  | leave d m _ _ ih => exact (ih h).leaveCondition m
  | other d o _ ih => exact activeLaw_of_same (ih h) (o .conditions parts)
  | records d _ _ _ _ _ ih | slot d _ ih | own d _ _ _ ih | store d _ _ ih | phases d _ _ _ ih | input d _ _ ih
  | cleared d _ _ _ ih | dwell d _ ih => exact ih h

theorem ActiveLaw.after (h : ActiveLaw s) {c : Instr} (reset : isReset c = false) : ActiveLaw (s.after c) := by
  obtain ⟨codes, d⟩ := deeds_after (e := true) (.inl rfl) (.inl rfl) c reset fun _ => rfl
  exact h.deeds d (not_mem_of_avoids (avoids_alarm c).1)

/-! ### All counts -/

theorem counterLaw_iff (s : State) : CounterLaw s ↔ HeatRange (Part.heat.read s) ∧ BitErrorRange (Part.bitErrors.read s)
    ∧ ReportRange (Part.report.read s) ∧ HoursRange (Part.hours.read s) ∧ WindowRange (Part.windows.read s)
    ∧ SpeedRange (Part.speed.read s) ∧ CodeRange (Part.sampledCode.read s) ∧ DemandLaw s ∧ ActiveLaw s := by
  unfold CounterLaw HeatRange BitErrorRange ReportRange HoursRange WindowRange SpeedRange CodeRange DemandLaw ActiveLaw
  constructor
  · rintro ⟨heat, errors, fault, bad, good, hours, shadow, minutes, windows, speed, code, demand, tally, active⟩
    exact ⟨heat, ⟨errors, fault⟩, ⟨bad, good⟩, ⟨hours, shadow⟩, ⟨minutes, windows⟩, speed, code, ⟨demand, tally⟩, active⟩
  · rintro ⟨heat, ⟨errors, fault⟩, ⟨bad, good⟩, ⟨hours, shadow⟩, ⟨minutes, windows⟩, speed, code, ⟨demand, tally⟩, active⟩
    exact ⟨heat, errors, fault, bad, good, hours, shadow, minutes, windows, speed, code, demand, tally, active⟩

theorem counterLaw_afterReset (kind : ResetKind) (station rate : Nat) {ret : RetainedStore} (q : List Instr)
    (shadow : ret.shadow ≤ Config.maxHours) (minutes : ret.minutes ≤ 59) :
    CounterLaw (State.afterReset kind station rate ret q) :=
  (counterLaw_iff _).2 ⟨Nat.zero_le _, ⟨Nat.zero_le _, rfl⟩, ⟨Nat.zero_le _, Nat.zero_le _⟩, ⟨Nat.zero_le _, shadow⟩,
    ⟨minutes, Nat.zero_le _⟩, Nat.zero_le _, Nat.zero_le _, ⟨Nat.zero_le _, rfl⟩, nofun⟩

theorem CounterLaw.after (h : CounterLaw s) (c : Instr) : CounterLaw (s.after c) := by
  obtain ⟨heat, errors, reads, hours, windows, speed, code, demand, active⟩ := (counterLaw_iff s).1 h
  cases reset : isReset c
  · exact (counterLaw_iff _).2 ⟨heatRange_after heat reset, bitErrorRange_after errors reset, reportRange_after reads reset,
      hoursRange_after hours windows reset, windowRange_after hours windows reset, speedRange_after speed reset,
      codeRange_after code reset, demand.after reset, active.after reset⟩
  · obtain ⟨kind, station, rate, ret, eq, rfl | rfl⟩ := after_of_isReset reset s
    · rw [eq]
      exact counterLaw_afterReset kind station rate s.pending (Nat.zero_le _) (Nat.zero_le _)
    · rw [eq]
      exact counterLaw_afterReset kind station rate s.pending hours.2 windows.1

theorem CounterLaw.tick (h : CounterLaw s) : CounterLaw (Machine.tick s) := by
  obtain ⟨heat, errors, reads, hours, windows, speed, code, demand, active⟩ := (counterLaw_iff s).1 h
  refine (counterLaw_iff _).2 ⟨heat, errors, reads, hours, windows, speed, code, demand, fun m mem => ?_⟩
  obtain ⟨x, -, rfl⟩ := List.mem_map.1 mem
  exact Nat.min_le_left _ _

end

/-- Settles O7: each count by its own events, the failed attempts by the entries of the Sequencer. -/
theorem countsStayWithinTheirRanges : Obligations.CountsStayWithinTheirRanges := by
  intro s t next
  exact ⟨step_keeps (P := CounterLaw) (fun _ _ h => h) (fun c _ h => h.after c) (fun _ h => h.tick) next,
    step_keeps (P := AttemptLaw) (fun _ _ h => h) (fun c _ h => h.after c) (fun _ h => h.tick) next⟩

end Sys2Proof.Machine
end


section
/-! The receive pool (R64), the frame taken up (R65, R86), the line (R44, R63) and the first STATUS (R179) under every step. -/

namespace Sys2Proof.Machine

section
variable {s t : State}

/-! ### The station after a frame has arrived (R48, R63) -/

/-- The line settles with the frame's last released bits; its buffer holds it and is no longer being filled. -/
def State.received (s : State) (b : Fin 8) (f : RawFrame) : State :=
  s.setLink { s.link.settle (trailingReleased f.endField) with filling := none, buffers := s.link.buffers.set b f }

/-- The Claim Unit told of a foreign CLAIM (R58, R118). -/
def State.told (s : State) (f : RawFrame) (u : State) : State := if s.isForeignClaim f then foreignClaim u else u

/-- A buffer that joins the post list. -/
def State.posted (s : State) (b : Fin 8) : State := s.setLink { s.link with postList := s.link.postList ++ [b] }

/-- A buffer that joins the free list. -/
def State.freed (s : State) (b : Fin 8) : State := s.setLink { s.link with freeList := s.link.freeList ++ [b] }

theorem after_frameArrival_filling {b : Fin 8} (f : RawFrame) (filling : s.link.filling = some b) :
    s.after (.frameArrival f) = if goodFrame f then takeUpFrame ((s.told f (s.received b f)).posted b)
      else (s.received b f).freed b := by
  simp only [State.after, exec, execFrameArrival, filling]
  split
  · unfold State.told
    split <;> rfl
  · rfl

theorem after_frameArrival_nothing (f : RawFrame) (filling : s.link.filling = none) :
    s.after (.frameArrival f) = if s.link.intoNothing
      then s.setLink { s.link.settle (trailingReleased f.endField) with intoNothing := false } else s := by
  simp only [State.after, exec, execFrameArrival, filling]

theorem told_only (s : State) (f : RawFrame) (u : State) : Only [.claimSlot, .claimPhase, .foreignMark] u (s.told f u) :=
  Only.ite (foreignClaim_only u) (Only.refl u)

/-! ### The pool (R64) -/

theorem poolLaw_of_perm (h : PoolLaw s) (perm : t.link.places.Perm s.link.places) : PoolLaw t := perm.trans h

theorem poolLaw_of_same (h : PoolLaw s) (free : t.link.freeList = s.link.freeList) (post : t.link.postList = s.link.postList)
    (filling : t.link.filling = s.link.filling) (applying : t.link.applying = s.link.applying) : PoolLaw t := by
  rw [PoolLaw, LinkUnit.places, free, post, filling, applying]; exact h

theorem PoolLaw.only {l : List Part} (h : PoolLaw s) (o : Only l s t) (parts : Part.freeList ∉ l ∧ Part.postList ∉ l
    ∧ Part.filling ∉ l ∧ Part.applying ∉ l) : PoolLaw t := by
  obtain ⟨free, post, filling, applying⟩ := parts
  exact poolLaw_of_same h (o .freeList free) (o .postList post)
    (congrArg (fun p : Part.filling.Value => p.1) (o .filling filling)) (o .applying applying)

theorem PoolLaw.deeds {r : Scope} (h : PoolLaw s) (d : Deeds r s t) (parts : Part.freeList ∉ r.parts ∧ Part.postList ∉ r.parts
    ∧ Part.filling ∉ r.parts ∧ Part.applying ∉ r.parts) : PoolLaw t := by
  obtain ⟨free, post, filling, applying⟩ := parts
  exact poolLaw_of_same h (d.read (p := .freeList) free (by simp [deedParts]) nofun)
    (d.read (p := .postList) post (by simp [deedParts]) nofun)
    (congrArg (fun p : Part.filling.Value => p.1) (d.read (p := .filling) filling (by simp [deedParts]) nofun))
    (d.read (p := .applying) applying (by simp [deedParts]) nofun)

theorem takeBuffer_places (l : LinkUnit) : l.takeBuffer.places.Perm l.places := by
  unfold LinkUnit.takeBuffer
  split
  · next idle =>
    simp only [LinkUnit.notReceiving, Bool.and_eq_true, Option.isNone_iff_eq_none] at idle
    split
    · exact List.Perm.refl _
    · next b rest free =>
      refine List.perm_iff_count.2 fun a => ?_
      simp only [LinkUnit.places, free, idle.1, Option.toList, List.count_append, List.count_cons, List.count_nil]
      omega
  · exact List.Perm.refl _

theorem PoolLaw.takeBuffer (h : PoolLaw s) : PoolLaw (s.setLink s.link.takeBuffer) := poolLaw_of_perm h (takeBuffer_places _)

theorem afterBitError_places (l : LinkUnit) (place : BitErrorPlace) : (l.afterBitError place).places.Perm l.places := by
  cases place
  · exact List.Perm.refl _
  · exact List.Perm.refl _
  · exact takeBuffer_places l
  · exact takeBuffer_places l

theorem countError_places (l : LinkUnit) : l.countError.places = l.places := by
  unfold LinkUnit.countError
  dsimp only
  split
  · rfl
  · split <;> rfl

theorem PoolLaw.bitError (h : PoolLaw s) (place : BitErrorPlace) : PoolLaw (s.after (.bitError place)) := by
  cases sends : s.link.sending with
  | none => simpa only [State.after, exec, execBitError, sends] using h
  | some x =>
    refine PoolLaw.deeds ?_ (deeds_errorCounted s place sends) (by simp)
    refine poolLaw_of_perm (h.only (endFailed_only x.kind s) (by simp)) ?_
    show ((endFailed x.kind s).link.afterBitError place).countError.places.Perm _
    rw [countError_places]
    exact afterBitError_places _ _

theorem PoolLaw.frameArrival (h : PoolLaw s) (f : RawFrame) : PoolLaw (s.after (.frameArrival f)) := by
  cases filling : s.link.filling with
  | none =>
    rw [after_frameArrival_nothing f filling]
    split
    · exact h
    · exact h
  | some b =>
    rw [after_frameArrival_filling f filling]
    have o := told_only s f (s.received b f)
    split
    · rw [poolLaw_takeUpFrame]
      have free : (s.told f (s.received b f)).link.freeList = s.link.freeList := o .freeList (by simp)
      have post : (s.told f (s.received b f)).link.postList = s.link.postList := o .postList (by simp)
      have empty : (s.told f (s.received b f)).link.filling = none :=
        congrArg (fun p : Part.filling.Value => p.1) (o .filling (by simp))
      have applying : (s.told f (s.received b f)).link.applying = s.link.applying := o .applying (by simp)
      generalize s.told f (s.received b f) = u at free post empty applying
      refine poolLaw_of_perm h (List.perm_iff_count.2 fun a => ?_)
      simp only [State.posted, setLink_link, LinkUnit.places, free, post, empty, applying, filling, Option.toList,
        List.count_append, List.count_cons, List.count_nil]
      omega
    · refine poolLaw_of_perm h (List.perm_iff_count.2 fun a => ?_)
      simp only [State.freed, State.received, LinkUnit.settle, setLink_link, LinkUnit.places, filling, Option.toList,
        List.count_append, List.count_cons, List.count_nil]
      omega

theorem PoolLaw.takePost (h : PoolLaw s) (idle : s.link.applying = none) {b : Fin 8} {rest : List (Fin 8)}
    (post : s.link.postList = b :: rest) : PoolLaw (s.setLink (s.link.takePost b rest)) := by
  refine poolLaw_of_perm h (List.perm_iff_count.2 fun a => ?_)
  simp only [LinkUnit.takePost, setLink_link, LinkUnit.places, post, idle, Option.toList, List.count_append, List.count_cons,
    List.count_nil]
  omega

/-- What the application of a frame does besides taking its buffer (R70). -/
theorem deeds_applyFrame (s : State) (f : RawFrame) : Deeds ⟨[codeAddressConflict], true, applicationParts⟩ s (applyFrame f s) :=
  (Deeds.refl (r := ⟨[codeAddressConflict], true, applicationParts⟩) s (.inl rfl)).applyFrame f (List.Subset.refl _)
    (covers_of_mem (by simp [Scope.codes]) (by decide))

/-- A frame application does nothing, or takes the head of the post list and applies it (R65). -/
theorem after_frameApplication_cases (s : State) : s.after .frameApplication = s
    ∨ ∃ b rest, s.frameDue = true ∧ s.link.postList = b :: rest
      ∧ s.after .frameApplication = applyFrame s.link.buffers[b] (s.setLink (s.link.takePost b rest)) := by
  simp only [State.after, exec, execFrameApplication]
  split
  · next due =>
    split
    · next b rest post => exact .inr ⟨b, rest, due, post, rfl⟩
    · exact .inl rfl
  · exact .inl rfl

theorem PoolLaw.frameApplication (h : PoolLaw s) : PoolLaw (s.after .frameApplication) := by
  obtain eq | ⟨b, rest, due, post, eq⟩ := after_frameApplication_cases s
  · rw [eq]; exact h
  · rw [eq]
    exact (h.takePost ((frameDue_iff s).1 due).1 post).deeds (deeds_applyFrame _ _) (by simp)

theorem PoolLaw.applicationEnd (h : PoolLaw s) : PoolLaw (s.after .applicationEnd) := by
  simp only [State.after, exec, execApplicationEnd]
  split
  · next b applying =>
    rw [poolLaw_takeUpFrame]
    refine poolLaw_of_perm h (List.perm_iff_count.2 fun a => ?_)
    simp only [setLink_link, LinkUnit.places, applying, Option.toList, List.count_append, List.count_cons, List.count_nil]
    omega
  · exact h

/-- The commands that move a buffer. -/
def movesBuffer : Instr → Bool
  | .endOfPriorityField | .bitError _ | .frameArrival _ | .frameApplication | .applicationEnd => true
  | _ => false

theorem avoids_pool (c : Instr) (h : movesBuffer c = false) : avoids (ownParts c) .freeList = true
    ∧ avoids (ownParts c) .postList = true ∧ avoids (ownParts c) .filling = true ∧ avoids (ownParts c) .applying = true := by
  cases c
  case cabLineQualification line => cases line <;> exact ⟨rfl, rfl, rfl, rfl⟩
  case analogSample channel raw => cases channel <;> exact ⟨rfl, rfl, rfl, rfl⟩
  case endOfPriorityField | bitError | frameArrival | frameApplication | applicationEnd => cases h
  all_goals exact ⟨rfl, rfl, rfl, rfl⟩

theorem poolLaw_afterReset (kind : ResetKind) (station rate : Nat) (ret : RetainedStore) (q : List Instr) :
    PoolLaw (State.afterReset kind station rate ret q) := by
  show (List.finRange 8 ++ [] ++ [] ++ []).Perm _
  simp

theorem PoolLaw.after (h : PoolLaw s) (c : Instr) : PoolLaw (s.after c) := by
  cases reset : isReset c
  case true =>
    obtain ⟨kind, station, rate, ret, eq, -⟩ := after_of_isReset reset s
    rw [eq]
    exact poolLaw_afterReset ..
  cases own : movesBuffer c
  · obtain ⟨free, post, filling, applying⟩ := avoids_pool c own
    exact poolLaw_of_same h (read_after s (p := .freeList) reset free rfl) (read_after s (p := .postList) reset post rfl)
      (congrArg (fun p : Part.filling.Value => p.1) (read_after s (p := .filling) reset filling rfl))
      (read_after s (p := .applying) reset applying rfl)
  · cases c
    case endOfPriorityField =>
      simp only [State.after, exec, execEndOfPriorityField]
      split
      · exact h.takeBuffer
      · exact h
    case bitError place => exact h.bitError place
    case frameArrival f => exact h.frameArrival f
    case frameApplication => exact h.frameApplication
    case applicationEnd => exact h.applicationEnd
    all_goals cases own

theorem PoolLaw.tick (h : PoolLaw s) : PoolLaw (Machine.tick s) := h

/-! ### The frame taken up (R65, R86) -/

theorem TakenLaw.takePost (b : Fin 8) (rest : List (Fin 8)) : TakenLaw (s.setLink (s.link.takePost b rest)) :=
  takenLaw_of_not_taken rfl

theorem headTaken_deeds {r : Scope} (d : Deeds r s t) (parts : Part.headTaken ∉ r.parts) :
    t.link.headTaken = s.link.headTaken := d.read (p := .headTaken) parts (by simp [deedParts]) nofun

/-- The commands that change the post list, the frame being applied, the flag or the Allocator's phase. -/
def touchesTaken : Instr → Bool
  | .frameArrival _ | .frameApplication | .applicationEnd | .listenTimerExpiry | .passStart | .passEnd | .configLoadCompletion => true
  | _ => false

theorem avoids_taken (c : Instr) (h : touchesTaken c = false) : avoids (ownParts c) .headTaken = true
    ∧ avoids (ownParts c) .applying = true ∧ avoids (ownParts c) .postList = true ∧ avoids (ownParts c) .phase = true := by
  cases c
  case cabLineQualification line => cases line <;> exact ⟨rfl, rfl, rfl, rfl⟩
  case analogSample channel raw => cases channel <;> exact ⟨rfl, rfl, rfl, rfl⟩
  case frameArrival | frameApplication | applicationEnd | listenTimerExpiry | passStart | passEnd | configLoadCompletion => cases h
  all_goals exact ⟨rfl, rfl, rfl, rfl⟩

theorem TakenLaw.frameArrival (h : TakenLaw s) (f : RawFrame) : TakenLaw (s.after (.frameArrival f)) := by
  cases filling : s.link.filling with
  | none =>
    rw [after_frameArrival_nothing f filling]
    split
    · exact h
    · exact h
  | some b =>
    rw [after_frameArrival_filling f filling]
    split
    · exact takenLaw_takeUpFrame _
    · exact h

theorem TakenLaw.frameApplication (h : TakenLaw s) : TakenLaw (s.after .frameApplication) := by
  obtain eq | ⟨b, rest, -, -, eq⟩ := after_frameApplication_cases s
  · rw [eq]; exact h
  · rw [eq]
    exact takenLaw_of_not_taken (headTaken_deeds (deeds_applyFrame _ _) (by simp))

theorem TakenLaw.applicationEnd (h : TakenLaw s) : TakenLaw (s.after .applicationEnd) := by
  simp only [State.after, exec, execApplicationEnd]
  split
  · exact takenLaw_takeUpFrame _
  · exact h

/-- With a phase other than IN_PASS the law asks no more (R65). -/
theorem TakenLaw.leaves (h : TakenLaw s) (flag : t.link.headTaken = s.link.headTaken)
    (applying : t.link.applying = s.link.applying) (posts : t.link.postList = s.link.postList)
    (phase : t.alloc.phase ≠ .inPass) : TakenLaw t := by
  intro taken
  rw [flag] at taken
  obtain ⟨idle, posted, -⟩ := h taken
  exact ⟨applying.trans idle, posts ▸ posted, phase⟩

theorem TakenLaw.passStart (h : TakenLaw s) : TakenLaw (s.after .passStart) := by
  simp only [State.after, exec, execPassStart]
  split
  · next due =>
    obtain ⟨-, -, -, taken, -⟩ := (passDue_iff s).1 due
    exact takenLaw_of_not_taken taken
  · exact h

theorem after_passEnd (pass : s.alloc.phase = .inPass) : s.after .passEnd = beginDrain (takeHeldExpiries (enterReady
    (stepperExamine (sequencerPassEnd (publish s.passResults s))))) := if_pos pass

theorem deeds_takeHeldExpiries (s : State) : Deeds ⟨[], true, ageParts⟩ s (takeHeldExpiries s) :=
  (Deeds.refl (r := ⟨[], true, ageParts⟩) s (.inl rfl)).takeHeldExpiries (List.Subset.refl _)

/-- The examinations of a pass end, after the results are published (R91). -/
theorem deeds_examined (s : State) : Deeds ⟨[], true, [.results, .stopDelay, .statusMarked]⟩ s
    (stepperExamine (sequencerPassEnd (publish s.passResults s))) :=
  ((Deeds.refl (r := ⟨[], true, [.results, .stopDelay, .statusMarked]⟩) s (.inl rfl)).only (publish_only s.passResults s)
    (by simp)).sequencerPassEnd.stepperExamine

theorem TakenLaw.passEnd (h : TakenLaw s) : TakenLaw (s.after .passEnd) := by
  by_cases pass : s.alloc.phase = .inPass
  · have free : s.link.headTaken = false := Bool.eq_false_iff.2 fun taken => (h taken).2.2 pass
    rw [after_passEnd pass]
    have examined := headTaken_deeds (deeds_examined s) (by simp)
    generalize stepperExamine (sequencerPassEnd (publish s.passResults s)) = u at examined
    have taken := headTaken_deeds (deeds_takeHeldExpiries (enterReady u)) (by simp)
    generalize takeHeldExpiries (enterReady u) = w at taken
    exact takenLaw_of_not_taken (taken.trans (examined.trans free))
  · have same : s.after .passEnd = s := if_neg pass
    rw [same]
    exact h

theorem TakenLaw.configLoadCompletion (h : TakenLaw s) : TakenLaw (s.after .configLoadCompletion) := by
  have flag := read_after s (c := .configLoadCompletion) (p := .headTaken) rfl rfl rfl
  have applying := read_after s (c := .configLoadCompletion) (p := .applying) rfl rfl rfl
  have posts := read_after s (c := .configLoadCompletion) (p := .postList) rfl rfl rfl
  by_cases full : s.load.progress = .reading 16
  · refine h.leaves flag applying posts ?_
    rw [after_configLoadCompletion, if_pos full]
    generalize enableTransmitter (loadHanded s) = u
    have exit := (Deeds.refl (r := ⟨[], true, [.minRun]⟩) (startLoadTimers u) (.inl rfl)).examineInit (by simp) (.inl rfl)
    have phase : (examineInit (startLoadTimers u)).alloc.phase = .listening :=
      exit.read (p := .phase) (by simp) (by simp [deedParts]) nofun
    rw [phase]
    decide
  · rw [after_configLoadCompletion, if_neg full]
    exact h

theorem takenLaw_afterReset (kind : ResetKind) (station rate : Nat) (ret : RetainedStore) (q : List Instr) :
    TakenLaw (State.afterReset kind station rate ret q) := takenLaw_of_not_taken rfl

theorem TakenLaw.after (h : TakenLaw s) (c : Instr) : TakenLaw (s.after c) := by
  cases reset : isReset c
  case true =>
    obtain ⟨kind, station, rate, ret, eq, -⟩ := after_of_isReset reset s
    rw [eq]
    exact takenLaw_afterReset kind station rate ret s.pending
  cases own : touchesTaken c
  · obtain ⟨flag, applying, posts, phase⟩ := avoids_taken c own
    exact h.of_same (read_after s (p := .headTaken) reset flag rfl) (read_after s (p := .applying) reset applying rfl)
      (read_after s (p := .postList) reset posts rfl) (read_after s (p := .phase) reset phase rfl)
  · cases c
    case frameArrival f => exact h.frameArrival f
    case frameApplication => exact h.frameApplication
    case applicationEnd => exact h.applicationEnd
    case listenTimerExpiry =>
      simp only [State.after, exec, execListenTimerExpiry]
      split
      · exact h.leaves rfl rfl rfl nofun
      · exact h
    case passStart => exact h.passStart
    case passEnd => exact h.passEnd
    case configLoadCompletion => exact h.configLoadCompletion
    all_goals cases own

theorem TakenLaw.tick (h : TakenLaw s) : TakenLaw (Machine.tick s) := h

end

end Sys2Proof.Machine
end


section
/-! The line (R44, R63) and the first STATUS (R179) under every step; all the laws after a reset. -/

namespace Sys2Proof.Machine

section
variable {s t : State}

/-! ### The line (R44, R63) -/

theorem lineLaw_of_same (h : LineLaw s) (line : Part.line.read t = Part.line.read s)
    (sending : Part.sending.read t = Part.sending.read s) (filling : Part.filling.read t = Part.filling.read s) : LineLaw t := by
  have line' : t.link.line = s.link.line := congrArg (fun p : Part.line.Value => p.1) line
  have bits : t.link.releasedBits = s.link.releasedBits := congrArg (fun p : Part.line.Value => p.2) line
  have sends : t.link.sending = s.link.sending := sending
  have filling' : t.link.filling = s.link.filling := congrArg (fun p : Part.filling.Value => p.1) filling
  have nothing : t.link.intoNothing = s.link.intoNothing := congrArg (fun p : Part.filling.Value => p.2) filling
  unfold LineLaw LinkUnit.frameOnLine LinkUnit.notReceiving at h ⊢
  rw [line', bits, sends, filling', nothing]
  exact h

theorem LineLaw.only {l : List Part} (h : LineLaw s) (o : Only l s t)
    (parts : Part.line ∉ l ∧ Part.sending ∉ l ∧ Part.filling ∉ l) : LineLaw t :=
  lineLaw_of_same h (o .line parts.1) (o .sending parts.2.1) (o .filling parts.2.2)

theorem LineLaw.deeds {r : Scope} (h : LineLaw s) (d : Deeds r s t)
    (parts : Part.line ∉ r.parts ∧ Part.sending ∉ r.parts ∧ Part.filling ∉ r.parts) : LineLaw t :=
  lineLaw_of_same h (d.read parts.1 (by simp [deedParts]) nofun) (d.read parts.2.1 (by simp [deedParts]) nofun)
    (d.read parts.2.2 (by simp [deedParts]) nofun)

/-- A frame is on the line: it is not IDLE, and in SETTLING at most the end field's bits are counted (R44). -/
def LinkUnit.carries (l : LinkUnit) : Prop := l.line ≠ .idle ∧ (l.line = .settling → l.releasedBits ≤ Config.endBits)

theorem LineLaw.carries (h : LineLaw s) (frame : s.link.frameOnLine = true) : s.link.carries :=
  ⟨fun idle => absurd (frame.symm.trans (h.2.2.1 idle).2) nofun, fun settling => h.2.1 settling frame⟩

/-- While a frame is on the line that the station does not send, its reception may begin (R63). -/
theorem lineLaw_of_carries (carries : t.link.carries) (silent : t.link.sending = none) : LineLaw t := by
  obtain ⟨busy, few⟩ := carries
  refine ⟨fun settling => Nat.lt_of_le_of_lt (few settling) (by decide), fun settling _ => few settling,
    fun idle => absurd idle busy, fun sends => absurd silent sends⟩

theorem takeBuffer_line (l : LinkUnit) : l.takeBuffer.line = l.line ∧ l.takeBuffer.releasedBits = l.releasedBits
    ∧ l.takeBuffer.sending = l.sending := by
  unfold LinkUnit.takeBuffer
  split
  · split <;> exact ⟨rfl, rfl, rfl⟩
  · exact ⟨rfl, rfl, rfl⟩

theorem lineLaw_takeBuffer (carries : s.link.carries) (silent : s.link.sending = none) :
    LineLaw (s.setLink s.link.takeBuffer) := by
  obtain ⟨line, bits, sending⟩ := takeBuffer_line s.link
  refine lineLaw_of_carries ?_ ?_
  · rw [setLink_link, LinkUnit.carries, line, bits]
    exact carries
  · rw [setLink_link, sending, silent]

theorem lineLaw_settleSilent {l : LinkUnit} {n : Nat} (low : n ≤ Config.endBits) (silent : l.sending = none) :
    LineLaw (s.setLink (l.settle n)) :=
  lineLaw_of_carries ⟨nofun, fun _ => low⟩ silent

theorem LineLaw.frameStart (h : LineLaw s) : LineLaw (s.after .frameStart) := by
  obtain eq | ⟨kind, -, line, -, eq⟩ := after_frameStart_cases s
  · rw [eq]; exact h
  · rw [eq]
    obtain ⟨-, free⟩ := h.2.2.1 line
    have idle : s.link.notReceiving = true := by
      simp only [LinkUnit.frameOnLine, Bool.or_eq_false_iff] at free
      simpa using free.2
    refine ⟨nofun, nofun, nofun, fun _ => ?_⟩
    cases kind <;> exact idle

theorem afterFailure_line (l : LinkUnit) (kind : TxKind) : (l.afterFailure kind).line = l.line
    ∧ (l.afterFailure kind).releasedBits = l.releasedBits := by
  by_cases disable : l.disablePending = true <;> cases kind <;>
    simp [LinkUnit.afterFailure, LinkUnit.slotsAtFailure, LinkUnit.atOutcome, LinkUnit.emptied, disable]

theorem endFailed_line (kind : TxKind) (s : State) : (endFailed kind s).link.line = s.link.line
    ∧ (endFailed kind s).link.releasedBits = s.link.releasedBits ∧ (endFailed kind s).link.sending = none := by
  have link : (endFailed kind s).link = s.link.afterFailure kind := by
    rw [endFailed_eq]
    split
    · unfold ownClaimFailed
      split <;> rfl
    · rfl
  rw [link]
  exact ⟨(afterFailure_line _ _).1, (afterFailure_line _ _).2, afterFailure_sending _ _⟩

theorem endFailed_carries (carries : s.link.carries) (kind : TxKind) : (endFailed kind s).link.carries := by
  obtain ⟨line, bits, -⟩ := endFailed_line kind s
  rw [LinkUnit.carries, line, bits]
  exact carries

theorem frameOnLine_of_sending {x : Transmission} (sends : s.link.sending = some x) : s.link.frameOnLine = true := by
  rw [LinkUnit.frameOnLine, sends]
  rfl

theorem LineLaw.arbitrationLoss (h : LineLaw s) : LineLaw (s.after .arbitrationLoss) := by
  simp only [State.after, exec, execArbitrationLoss]
  split
  · next x sends =>
    exact lineLaw_of_carries (endFailed_carries (h.carries (frameOnLine_of_sending sends)) _) (endFailed_line _ _).2.2
  · exact h

theorem lineLaw_afterBitError (carries : s.link.carries) (silent : s.link.sending = none) (place : BitErrorPlace) :
    LineLaw (s.setLink (s.link.afterBitError place)) := by
  cases place
  · exact lineLaw_settleSilent (Nat.zero_le _) silent
  · exact lineLaw_of_carries carries silent
  · exact lineLaw_takeBuffer carries silent
  · exact lineLaw_settleSilent (Nat.zero_le _) ((takeBuffer_line _).2.2.trans silent)

theorem countError_only (s : State) : Only [.bitErrors, .holdOff] s (s.setLink s.link.countError) := by
  unfold LinkUnit.countError
  intro p outside
  dsimp only
  repeat' split
  all_goals cases p <;> simp at outside <;> rfl

theorem LineLaw.bitError (h : LineLaw s) (place : BitErrorPlace) : LineLaw (s.after (.bitError place)) := by
  cases sends : s.link.sending with
  | none => simpa only [State.after, exec, execBitError, sends] using h
  | some x =>
    refine LineLaw.deeds ?_ (deeds_errorCounted s place sends) (by simp)
    have placed := lineLaw_afterBitError (endFailed_carries (h.carries (frameOnLine_of_sending sends)) x.kind)
      (endFailed_line x.kind s).2.2 place
    exact placed.only (countError_only _) (by simp)

theorem completed_line (l : LinkUnit) (kind : TxKind) : (l.completed kind).line = .settling
    ∧ (l.completed kind).releasedBits = 7 ∧ (l.completed kind).sending = none := by
  by_cases disable : l.disablePending = true <;> cases kind <;>
    simp [LinkUnit.completed, LinkUnit.slotsAtCompletion, LinkUnit.settle, LinkUnit.atOutcome, LinkUnit.emptied, disable]

theorem LineLaw.transmissionCompletion (h : LineLaw s) : LineLaw (s.after .transmissionCompletion) := by
  cases sends : s.link.sending with
  | none => simpa only [State.after, exec, execTransmissionCompletion, sends] using h
  | some x =>
    refine LineLaw.deeds ?_ (deeds_completed s sends) (by simp)
    obtain ⟨line, bits, silent⟩ := completed_line s.link x.kind
    refine lineLaw_of_carries ?_ silent
    show (s.link.completed x.kind).carries
    rw [LinkUnit.carries, line, bits]
    exact ⟨nofun, fun _ => by decide⟩

theorem trailingReleased_le (e : BitVec 7) : trailingReleased e ≤ Config.endBits := by
  unfold trailingReleased
  refine le_trans (List.takeWhile_sublist _).length_le ?_
  rw [List.length_reverse, bitsOf, List.length_map, List.length_range]
  exact Nat.le_refl 7

theorem LineLaw.silent_of_receiving (h : LineLaw s) (receiving : s.link.notReceiving = false) : s.link.sending = none := by
  by_contra sends
  rw [h.2.2.2 sends] at receiving
  cases receiving

theorem LineLaw.frameArrival (h : LineLaw s) (f : RawFrame) : LineLaw (s.after (.frameArrival f)) := by
  cases filling : s.link.filling with
  | none =>
    rw [after_frameArrival_nothing f filling]
    split
    · next nothing =>
      have silent := h.silent_of_receiving (by simp [LinkUnit.notReceiving, nothing])
      exact lineLaw_of_carries ⟨nofun, fun _ => trailingReleased_le _⟩ silent
    · exact h
  | some b =>
    have silent := h.silent_of_receiving (by simp [LinkUnit.notReceiving, filling])
    have received : LineLaw (s.received b f) := lineLaw_of_carries ⟨nofun, fun _ => trailingReleased_le _⟩ silent
    rw [after_frameArrival_filling f filling]
    split
    · have told : LineLaw (s.told f (s.received b f)) := received.only (told_only s f _) (by simp)
      exact told
    · exact received

theorem LineLaw.endOfPriorityField (h : LineLaw s) : LineLaw (s.after .endOfPriorityField) := by
  simp only [State.after, exec, execEndOfPriorityField]
  split
  · next receives =>
    simp only [Bool.and_eq_true, decide_eq_true_eq, Option.isNone_iff_eq_none] at receives
    refine lineLaw_takeBuffer ⟨?_, ?_⟩ receives.2 <;> rw [receives.1] <;> nofun
  · exact h

/-- The commands that change the line, the transmission or the reception. -/
def touchesLine : Instr → Bool
  | .lineIdle _ | .startBitRead | .endOfPriorityField | .frameStart | .arbitrationLoss | .bitError _ | .transmissionCompletion
  | .frameArrival _ => true
  | _ => false

theorem avoids_line (c : Instr) (h : touchesLine c = false) : avoids (ownParts c) .line = true
    ∧ avoids (ownParts c) .sending = true ∧ avoids (ownParts c) .filling = true := by
  cases c
  case cabLineQualification line => cases line <;> exact ⟨rfl, rfl, rfl⟩
  case analogSample channel raw => cases channel <;> exact ⟨rfl, rfl, rfl⟩
  case lineIdle | startBitRead | endOfPriorityField | frameStart | arbitrationLoss | bitError | transmissionCompletion
    | frameArrival => cases h
  all_goals exact ⟨rfl, rfl, rfl⟩

theorem lineLaw_afterReset (kind : ResetKind) (station rate : Nat) (ret : RetainedStore) (q : List Instr) :
    LineLaw (State.afterReset kind station rate ret q) :=
  lineLaw_of_carries ⟨nofun, fun _ => Nat.zero_le _⟩ rfl

theorem LineLaw.after (h : LineLaw s) (c : Instr) : LineLaw (s.after c) := by
  cases reset : isReset c
  case true =>
    obtain ⟨kind, station, rate, ret, eq, -⟩ := after_of_isReset reset s
    rw [eq]
    exact lineLaw_afterReset kind station rate ret s.pending
  cases own : touchesLine c
  · obtain ⟨line, sending, filling⟩ := avoids_line c own
    exact lineLaw_of_same h (read_after s reset line rfl) (read_after s reset sending rfl) (read_after s reset filling rfl)
  · cases c
    case lineIdle n => exact lineLaw_readReleased h n
    case startBitRead => exact lineLaw_readDriven h
    case endOfPriorityField => exact h.endOfPriorityField
    case frameStart => exact h.frameStart
    case arbitrationLoss => exact h.arbitrationLoss
    case bitError place => exact h.bitError place
    case transmissionCompletion => exact h.transmissionCompletion
    case frameArrival f => exact h.frameArrival f
    all_goals cases own

theorem LineLaw.tick (h : LineLaw s) : LineLaw (Machine.tick s) := h

/-! ### The first STATUS (R179) -/

theorem FirstStatusLaw.deeds {r : Scope} (h : FirstStatusLaw s) (d : Deeds r s t) (parts : Part.firstHeartbeat ∉ r.parts
    ∧ Part.sending ∉ r.parts ∧ Part.txEnabled ∉ r.parts ∧ Part.heartbeat ∉ r.parts) : FirstStatusLaw t := by
  obtain ⟨first, sending, enabled, beat⟩ := parts
  exact h.of_same (d.read (p := .firstHeartbeat) first (by simp [deedParts]) nofun)
    (d.read (p := .sending) sending (by simp [deedParts]) nofun) (d.read (p := .txEnabled) enabled (by simp [deedParts]) nofun)
    (d.read (p := .heartbeat) beat (by simp [deedParts]) nofun)

/-- A change that leaves nothing in transmission, and the rest of the law. -/
theorem FirstStatusLaw.silent (h : FirstStatusLaw s) (sending : t.link.sending = none)
    (beat : t.link.firstHeartbeat = s.link.firstHeartbeat) (enabled : t.link.txEnabled = s.link.txEnabled)
    (timer : t.link.heartbeat = s.link.heartbeat) : FirstStatusLaw t := by
  intro first
  rw [beat] at first
  rw [LinkUnit.sendingKind, sending, enabled, timer]
  exact ⟨nofun, (h first).2⟩

theorem FirstStatusLaw.frameStart (h : FirstStatusLaw s) : FirstStatusLaw (s.after .frameStart) := by
  obtain eq | ⟨kind, candidate, -, -, eq⟩ := after_frameStart_cases s
  · rw [eq]; exact h
  · rw [eq]
    have kept : (s.linkAtStart kind).firstHeartbeat = s.link.firstHeartbeat ∧ (s.linkAtStart kind).txEnabled = s.link.txEnabled
        ∧ (s.linkAtStart kind).heartbeat = s.link.heartbeat := by cases kind <;> exact ⟨rfl, rfl, rfl⟩
    obtain ⟨first', enabled, timer⟩ := kept
    intro first
    rw [setLink_link, first'] at first
    rw [setLink_link, enabled, timer]
    refine ⟨fun status => ?_, (h first).2⟩
    have kind' : kind = .status := Option.some.inj status
    subst kind'
    obtain ⟨-, -, beat⟩ := (statusReady_iff s.link).1 (statusReady_of_candidate candidate)
    rw [first] at beat
    cases beat

theorem FirstStatusLaw.endFailed (h : FirstStatusLaw s) (kind : TxKind) : FirstStatusLaw (Machine.endFailed kind s) := by
  have o := endFailed_only kind s
  exact h.silent (endFailed_line kind s).2.2 (o .firstHeartbeat (by simp)) (o .txEnabled (by simp)) (o .heartbeat (by simp))

theorem FirstStatusLaw.bitError (h : FirstStatusLaw s) (place : BitErrorPlace) :
    FirstStatusLaw (s.after (.bitError place)) := by
  cases sends : s.link.sending with
  | none => simpa only [State.after, exec, execBitError, sends] using h
  | some x =>
    refine FirstStatusLaw.deeds ?_ (deeds_errorCounted s place sends) (by simp)
    have ended := h.endFailed x.kind
    have o := errorCounted_only (Machine.endFailed x.kind s) place
    exact ended.of_same (o .firstHeartbeat (by simp)) (o .sending (by simp)) (o .txEnabled (by simp)) (o .heartbeat (by simp))

theorem FirstStatusLaw.statusCompleted (h : FirstStatusLaw s) : FirstStatusLaw (Machine.statusCompleted s) := by
  intro first
  obtain ⟨silent, running⟩ := h first
  refine ⟨silent, fun enabled => ?_⟩
  show (if s.link.txEnabled then Timer.running Config.heartbeatMs else s.link.heartbeat).isRunning = true
  have enabled : s.link.txEnabled = true := enabled
  rw [if_pos enabled]
  rfl

theorem FirstStatusLaw.transmissionCompletion (h : FirstStatusLaw s) : FirstStatusLaw (s.after .transmissionCompletion) := by
  cases sends : s.link.sending with
  | none => simpa only [State.after, exec, execTransmissionCompletion, sends] using h
  | some x =>
    have o := completed_only s x.kind
    have freed : FirstStatusLaw (s.completed x.kind) := h.silent (completed_line s.link x.kind).2.2
      (o .firstHeartbeat (by simp)) (o .txEnabled (by simp)) (o .heartbeat (by simp))
    have start := Deeds.refl (r := ⟨[codeLinkFault], true, [.alone, .replySlot, .mailbox]⟩) (s.completed x.kind) (.inl rfl)
    have ended := Deeds.ite (c := s.link.linkFault = true) (start.linkFaultEnds (by simp) (by simp [Scope.codes])) start
    simp only [State.after, exec, execTransmissionCompletion, sends]
    rw [← State.completed]
    generalize (if s.link.linkFault = true then _ else _) = u at ended
    unfold handCompletion
    split
    · exact freed.deeds (Deeds.ite ended.ownClaimCompleted ended) (by simp)
    · exact freed.deeds (Deeds.ite ended.examineOffer ended) (by simp)
    · exact (freed.deeds ended (by simp)).statusCompleted
    · exact freed.deeds (ended.serveMailbox (by simp)) (by simp)

theorem FirstStatusLaw.disableTransmitter (h : FirstStatusLaw s) : FirstStatusLaw (Machine.disableTransmitter s) := by
  have o := disableTransmitter_only s
  have first' : (Machine.disableTransmitter s).link.firstHeartbeat = s.link.firstHeartbeat := o .firstHeartbeat (by simp)
  have sending : (Machine.disableTransmitter s).link.sending = s.link.sending := o .sending (by simp)
  have disabled : (Machine.disableTransmitter s).link.txEnabled = false := by
    unfold Machine.disableTransmitter claimWithoutTransmitter
    dsimp only
    split <;> split <;> rfl
  intro first
  rw [first'] at first
  rw [LinkUnit.sendingKind, sending, disabled]
  exact ⟨(h first).1, nofun⟩

theorem FirstStatusLaw.frameApplication (h : FirstStatusLaw s) : FirstStatusLaw (s.after .frameApplication) := by
  obtain eq | ⟨b, rest, -, -, eq⟩ := after_frameApplication_cases s
  · rw [eq]; exact h
  rw [eq]
  have taken : FirstStatusLaw (s.setLink (s.link.takePost b rest)) := h
  generalize s.setLink (s.link.takePost b rest) = u at taken
  generalize s.link.buffers[b] = f
  have start := Deeds.refl (r := ⟨[], true, .mailbox :: .replySlot :: peerParts⟩) u (.inl rfl)
  unfold applyFrame
  split
  · exact taken.deeds (start.only (requestFrame_only _ _) (by simp)) (by simp)
  split
  · have joined := Deeds.refl (r := ⟨[codeAddressConflict], true, []⟩) (Machine.disableTransmitter u) (.inl rfl)
    exact taken.disableTransmitter.deeds (joined.reportPresent (covers_of_mem (by simp [Scope.codes]) (by decide)) rfl) (by simp)
  split
  · exact taken.deeds (start.applyPeer _ f (by simp)) (by simp)
  · exact taken

theorem FirstStatusLaw.configLoadCompletion (h : FirstStatusLaw s) : FirstStatusLaw (s.after .configLoadCompletion) := by
  rw [after_configLoadCompletion]
  split
  case isFalse => exact h
  have parameters : FirstStatusLaw (loadParameters s) := h
  have handed : FirstStatusLaw (loadHanded s) := parameters.deeds (Deeds.loadHanded
    (r := ⟨[codeConfigFault], true, [.startRecord, .hours]⟩) (Deeds.refl _ (.inl rfl)) (by simp) (by simp [Scope.codes])) (by simp)
  have enabled : FirstStatusLaw (enableTransmitter (loadHanded s)) := by
    generalize loadHanded s = u at handed
    unfold enableTransmitter
    split
    · exact fun first => ⟨(handed first).1, fun _ => rfl⟩
    · exact handed
  generalize enableTransmitter (loadHanded s) = u at enabled
  have timed : FirstStatusLaw (startLoadTimers u) := enabled
  exact timed.deeds ((Deeds.refl (r := ⟨[], true, [.minRun]⟩) (startLoadTimers u) (.inl rfl)).examineInit (by simp) (.inl rfl))
    (by simp)

/-- The commands that change the transmission, the transmitter or the heartbeat. -/
def touchesHeartbeat : Instr → Bool
  | .frameStart | .arbitrationLoss | .bitError _ | .transmissionCompletion | .heartbeatExpiry | .frameApplication
  | .configLoadCompletion => true
  | _ => false

theorem avoids_heartbeat (c : Instr) (h : touchesHeartbeat c = false) : avoids (ownParts c) .firstHeartbeat = true
    ∧ avoids (ownParts c) .sending = true ∧ avoids (ownParts c) .txEnabled = true ∧ avoids (ownParts c) .heartbeat = true := by
  cases c
  case cabLineQualification line => cases line <;> exact ⟨rfl, rfl, rfl, rfl⟩
  case analogSample channel raw => cases channel <;> exact ⟨rfl, rfl, rfl, rfl⟩
  case frameStart | arbitrationLoss | bitError | transmissionCompletion | heartbeatExpiry | frameApplication
    | configLoadCompletion => cases h
  all_goals exact ⟨rfl, rfl, rfl, rfl⟩

theorem firstStatusLaw_afterReset (kind : ResetKind) (station rate : Nat) (ret : RetainedStore) (q : List Instr) :
    FirstStatusLaw (State.afterReset kind station rate ret q) := fun _ => ⟨nofun, nofun⟩

theorem FirstStatusLaw.after (h : FirstStatusLaw s) (c : Instr) : FirstStatusLaw (s.after c) := by
  cases reset : isReset c
  case true =>
    obtain ⟨kind, station, rate, ret, eq, -⟩ := after_of_isReset reset s
    rw [eq]
    exact firstStatusLaw_afterReset kind station rate ret s.pending
  cases own : touchesHeartbeat c
  · obtain ⟨first, sending, enabled, beat⟩ := avoids_heartbeat c own
    exact h.of_same (read_after s (p := .firstHeartbeat) reset first rfl) (read_after s (p := .sending) reset sending rfl)
      (read_after s (p := .txEnabled) reset enabled rfl) (read_after s (p := .heartbeat) reset beat rfl)
  · cases c
    case frameStart => exact h.frameStart
    case arbitrationLoss =>
      simp only [State.after, exec, execArbitrationLoss]
      split
      · exact h.endFailed _
      · exact h
    case bitError place => exact h.bitError place
    case transmissionCompletion => exact h.transmissionCompletion
    case heartbeatExpiry =>
      simp only [State.after, exec, execHeartbeatExpiry, markStatus_eq]
      split
      · exact firstStatusLaw_of_beat rfl
      · exact h
    case frameApplication => exact h.frameApplication
    case configLoadCompletion => exact h.configLoadCompletion
    all_goals cases own

theorem FirstStatusLaw.tick (h : FirstStatusLaw s) : FirstStatusLaw (Machine.tick s) := by
  intro first
  obtain ⟨silent, running⟩ := h first
  refine ⟨silent, fun enabled => ?_⟩
  show (s.link.heartbeat.advance Config.tickMs).isRunning = true
  rw [isRunning_advance]
  exact running enabled

end

/-- Settles O4: a buffer moves at the end of a priority field, at an error, at an arrival and at the two ends of an application alone. -/
theorem everyBufferStaysInOnePlace : Obligations.EveryBufferStaysInOnePlace := by
  intro s t next
  exact ⟨step_keeps (P := PoolLaw) (fun _ _ h => h) (fun c _ h => h.after c) (fun _ h => h.tick) next,
    step_keeps (P := TakenLaw) (fun _ _ h => h) (fun c _ h => h.after c) (fun _ h => h.tick) next,
    step_keeps (P := LineLaw) (fun _ _ h => h) (fun c _ h => h.after c) (fun _ h => h.tick) next,
    step_keeps (P := FirstStatusLaw) (fun _ _ h => h) (fun c _ h => h.after c) (fun _ h => h.tick) next⟩

/-! ### After a reset -/

section
variable (kind : ResetKind) (station rate : Nat) (q : List Instr)

theorem attemptLaw_afterReset (ret : RetainedStore) : AttemptLaw (State.afterReset kind station rate ret q) :=
  ⟨Nat.le_refl _, Nat.zero_le _, fun _ => (by decide : 0 < 1), fun _ => ⟨rfl, rfl⟩⟩

theorem provingLaw_afterReset (ret : RetainedStore) : ProvingLaw (State.afterReset kind station rate ret q) := by
  intro o
  cases o <;> exact ⟨by simp [OutputStage.proving, State.afterReset, Proving.atReset, QualifiedInput.matchesCommand,
    QualifiedInput.atReset], by simp [OutputStage.proving, State.afterReset, Proving.atReset, Timer.isRunning]⟩

/-- Every law holds after a reset that leaves the retained counts in their ranges. -/
theorem allLaws_afterReset {ret : RetainedStore} (shadow : ret.shadow ≤ Config.maxHours) (minutes : ret.minutes ≤ 59) :
    AllLaws (State.afterReset kind station rate ret q) := by
  obtain ⟨output, notch, claim⟩ := (engineGood_iff _).2 (engineGood_afterReset kind station rate ret q)
  obtain ⟨conditions, derate, fresh⟩ := freshLaw_afterReset kind station rate ret q
  exact ⟨output, claim, notch, transmitterLaw_afterReset kind station rate ret q, poolLaw_afterReset kind station rate ret q,
    takenLaw_afterReset kind station rate ret q, lineLaw_afterReset kind station rate ret q,
    firstStatusLaw_afterReset kind station rate ret q, derate, fresh, conditions, rfl,
    counterLaw_afterReset kind station rate q shadow minutes, attemptLaw_afterReset kind station rate q ret,
    layoverLaw_of_layover rfl, ⟨fun _ => rfl, rfl, fun _ => ⟨rfl, rfl⟩⟩, provingLaw_afterReset kind station rate q ret,
    viewLaw_afterReset kind station rate ret q⟩

end

/-- Settles O11: the reset state meets every law whatever the straps; only the retained counts come from before. -/
theorem everyLawHoldsAfterReset : Obligations.EveryLawHoldsAfterReset := by
  refine ⟨allLaws_afterReset .powerOn 7 3 [] (Nat.zero_le _) (Nat.zero_le _), fun p s t => ⟨fun next => ?_, fun shadow minutes next => ?_⟩⟩
  · rw [← after_eq_of_exec next]
    exact allLaws_afterReset .powerOn _ _ s.pending (Nat.zero_le _) (Nat.zero_le _)
  · rw [← after_eq_of_exec next]
    exact allLaws_afterReset .core _ _ s.pending shadow minutes

end Sys2Proof.Machine
end


section
/-! Which commands change which part (the footprints): each part's own events by name, and the events that reach neither Sequencer nor
Stepper. -/

namespace Sys2Proof.Machine

/-- The names of the commands that change a part besides what the Sequencer's and the Stepper's deeds do to it. -/
def Part.events : Part → List String
  | .rest => ["CRANK_TIME_EXPIRY", "REST_TIMER_EXPIRY", "HEAT_UPDATE", "PROVING_TIMER_EXPIRY"]
  | .minRun => ["FIRE_CONFIRM_EXPIRY", "MIN_RUN_EXPIRY", "SPEED_VALUE", "CONFIG_LOAD_COMPLETION"]
  | .lines => ["CAB_LINE_SAMPLE", "CAB_LINE_QUALIFICATION"]
  | .sampledCode => ["CAB_LINE_SAMPLE"]
  | .codeStability => ["CAB_LINE_SAMPLE", "THROTTLE_CODE_QUALIFICATION"]
  | .qualifiedCode => ["THROTTLE_CODE_QUALIFICATION"]
  | .decoder => ["THROTTLE_CODE_QUALIFICATION", "INVALID_CODE_TIMER_EXPIRY"]
  | .demand => ["THROTTLE_CODE_QUALIFICATION", "INVALID_CODE_TIMER_EXPIRY", "FRAME_APPLICATION", "AGE_EXPIRY", "PASS_END"]
  | .mode => ["CAB_LINE_QUALIFICATION"]
  | .layoverCheck => ["CAB_LINE_QUALIFICATION", "LAYOVER_CHECK_EXPIRY", "CONFIG_LOAD_COMPLETION"]
  | .needs => ["CAB_LINE_QUALIFICATION", "LAYOVER_CHECK_EXPIRY"]
  | .line => ["FRAME_START", "BIT_ERROR", "TRANSMISSION_COMPLETION", "FRAME_ARRIVAL", "LINE_IDLE", "START_BIT_READ"]
  | .sending => ["FRAME_START", "ARBITRATION_LOSS", "BIT_ERROR", "TRANSMISSION_COMPLETION"]
  | .txEnabled => ["FRAME_APPLICATION", "CONFIG_LOAD_COMPLETION"]
  | .disablePending => ["ARBITRATION_LOSS", "BIT_ERROR", "TRANSMISSION_COMPLETION", "FRAME_APPLICATION"]
  | .bitErrors => ["BIT_ERROR", "TRANSMISSION_COMPLETION"]
  | .holdOff => ["BIT_ERROR", "HOLD_OFF_EXPIRY", "TRANSMISSION_COMPLETION"]
  | .heartbeat => ["TRANSMISSION_COMPLETION", "HEARTBEAT_EXPIRY", "FRAME_APPLICATION", "CONFIG_LOAD_COMPLETION"]
  | .firstHeartbeat => ["HEARTBEAT_EXPIRY"]
  | .spacing => ["TRANSMISSION_COMPLETION", "SPACING_TIMER_EXPIRY"]
  | .claimSlot => ["FRAME_START", "ARBITRATION_LOSS", "BIT_ERROR", "TRANSMISSION_COMPLETION", "FRAME_ARRIVAL",
      "FRAME_APPLICATION", "REST_TIMER_EXPIRY", "LEASE_EXPIRY", "RECOVERY_TIMER_EXPIRY"]
  | .statusMarked => ["CAB_LINE_QUALIFICATION", "THROTTLE_CODE_QUALIFICATION", "INVALID_CODE_TIMER_EXPIRY",
      "LAYOVER_CHECK_EXPIRY", "FRAME_START", "ARBITRATION_LOSS", "BIT_ERROR", "TRANSMISSION_COMPLETION", "HEARTBEAT_EXPIRY",
      "FRAME_APPLICATION", "AGE_EXPIRY", "PASS_END", "STATUS_READ_COMPLETION", "FEEDBACK_QUALIFICATION"]
  | .replySlot => ["ARBITRATION_LOSS", "BIT_ERROR", "TRANSMISSION_COMPLETION", "FRAME_APPLICATION"] ++ requestNames
  | .buffers => ["FRAME_ARRIVAL"]
  | .filling => ["BIT_ERROR", "FRAME_ARRIVAL", "END_OF_PRIORITY_FIELD"]
  | .freeList => ["BIT_ERROR", "FRAME_ARRIVAL", "APPLICATION_END", "END_OF_PRIORITY_FIELD"]
  | .postList => ["FRAME_ARRIVAL", "FRAME_APPLICATION"]
  | .applying => ["FRAME_APPLICATION", "APPLICATION_END"]
  | .draining => ["APPLICATION_END", "PASS_END"]
  | .drainLeft => ["FRAME_APPLICATION", "PASS_END"]
  | .headTaken => ["FRAME_ARRIVAL", "FRAME_APPLICATION", "APPLICATION_END"]
  | .peers => ["FRAME_APPLICATION", "AGE_EXPIRY", "PASS_START", "PASS_END"]
  | .everSeen => ["FRAME_APPLICATION"]
  | .alone => ["BIT_ERROR", "TRANSMISSION_COMPLETION", "FRAME_APPLICATION", "AGE_EXPIRY", "PASS_END"]
  | .sFrozen => ["BIT_ERROR", "AGE_EXPIRY", "PASS_END"]
  | .tally => ["FRAME_APPLICATION", "AGE_EXPIRY", "PASS_END"]
  | .phase => ["LISTEN_TIMER_EXPIRY", "PASS_START", "PASS_END", "CONFIG_LOAD_COMPLETION"]
  | .reEvaluate => ["CAB_LINE_QUALIFICATION", "THROTTLE_CODE_QUALIFICATION", "INVALID_CODE_TIMER_EXPIRY", "FRAME_APPLICATION",
      "AGE_EXPIRY", "LISTEN_TIMER_EXPIRY", "EVALUATION_TIMER_EXPIRY", "PASS_START", "PASS_END", "STATUS_READ_COMPLETION",
      "FEEDBACK_QUALIFICATION"]
  | .listen => ["LISTEN_TIMER_EXPIRY", "CONFIG_LOAD_COMPLETION"]
  | .evaluation => ["EVALUATION_TIMER_EXPIRY", "PASS_START"]
  | .stopDelay => ["CAB_LINE_QUALIFICATION", "PASS_END", "STOP_DELAY_EXPIRY"]
  | .results => ["PASS_END"]
  | .snapshot => ["PASS_START"]
  | .claimPhase => ["ARBITRATION_LOSS", "BIT_ERROR", "FRAME_ARRIVAL", "FRAME_APPLICATION", "REST_TIMER_EXPIRY", "LEASE_EXPIRY",
      "RECOVERY_TIMER_EXPIRY"]
  | .holder => ["FRAME_APPLICATION", "LEASE_EXPIRY"]
  | .recovery => ["FRAME_APPLICATION", "LEASE_EXPIRY", "RECOVERY_TIMER_EXPIRY", "CONFIG_LOAD_COMPLETION"]
  | .settle => ["FRAME_APPLICATION"]
  | .lease => ["FRAME_APPLICATION", "LEASE_EXPIRY"]
  | .foreignMark => ["FRAME_ARRIVAL", "FRAME_APPLICATION"]
  | .heat => ["HEAT_UPDATE"]
  | .port => ["CONFIG_READ_COMPLETION", "SETPOINT_WRITE_COMPLETION", "HOURS_WRITE_COMPLETION", "SETPOINT_REFRESH_EXPIRY",
      "STATUS_READ_COMPLETION", "GOVERNOR_STATUS_TIMER_EXPIRY"]
  | .report => ["STATUS_READ_COMPLETION"]
  | .statusTimer => ["GOVERNOR_STATUS_TIMER_EXPIRY", "CONFIG_LOAD_COMPLETION"]
  | .coolant | .oil | .battery => ["ANALOG_SAMPLE"]
  | .speed | .windows => ["SPEED_VALUE"]
  | .derate | .conditions | .alarm => ["STATUS_READ_COMPLETION", "FEEDBACK_QUALIFICATION"]
  | .proof => ["FEEDBACK_QUALIFICATION", "PROVING_TIMER_EXPIRY"]
  | .feedback => ["FEEDBACK_QUALIFICATION", "FEEDBACK_SAMPLE"]
  | .hours => ["SPEED_VALUE", "CONFIG_LOAD_COMPLETION"]
  | .config | .startRecord => ["CONFIG_LOAD_COMPLETION"]
  | .progress => ["CONFIG_READ_COMPLETION", "CONFIG_LOAD_COMPLETION"]
  | .image => ["CONFIG_READ_COMPLETION"]
  | .mailbox => ["TRANSMISSION_COMPLETION", "FRAME_APPLICATION"] ++ requestNames
  | .engine | .stepper | .runPhase | .inputs | .commands | .record | .straps | .queue => []

/-- The parts that a command changes at all when it reaches neither Sequencer nor Stepper: a governor fault and a mismatch that is gone
change the condition set. -/
def apartParts (c : Instr) : List Part :=
  match c with
  | .statusReadCompletion _ _ _ _ | .feedbackQualification _ =>
    [.statusMarked, .reEvaluate, .derate, .conditions, .alarm] ++ ownParts c
  | _ => ownParts c

/-- The command is one of the events of every part that it changes. -/
def knowsEvents (c : Instr) : Bool := (apartParts c).all fun p => p.events.elem c.mnemonic

theorem knowsEvents_all (c : Instr) : knowsEvents c = true := by
  cases c
  case cabLineQualification line => cases line <;> rfl
  case analogSample channel raw => cases channel <;> rfl
  all_goals rfl

theorem ownParts_subset (c : Instr) : ownParts c ⊆ apartParts c := by
  unfold apartParts
  split
  · exact List.subset_append_right _ _
  · exact List.subset_append_right _ _
  · exact List.Subset.refl _

theorem mem_events {c : Instr} {p : Part} (h : p ∈ apartParts c) : c.mnemonic ∈ p.events :=
  List.elem_iff.1 (List.all_eq_true.1 (knowsEvents_all c) p h)

section
variable {c : Instr} {names : List String}

theorem isReset_of_noneOf (h : c.isNoneOf names) : isReset c = false := by
  rw [Bool.eq_false_iff]
  intro reset
  cases c
  case powerOnReset => exact h (by simp [Instr.mnemonic])
  case coreReset => exact h (by simp [Instr.mnemonic])
  all_goals cases reset

theorem not_mem_apart_of_noneOf {p : Part} (h : c.isNoneOf names) (sub : p.events ⊆ names) : p ∉ apartParts c := fun mem =>
  h (List.mem_cons_of_mem _ (List.mem_cons_of_mem _ (sub (mem_events mem))))

/-- What a command leaves alone, by the names of the events of a part. -/
theorem read_of_noneOf (h : c.isNoneOf names) (s : State) {p : Part} (sub : p.events ⊆ names := by decide)
    (outside : avoids (.needs :: deedParts) p = true := by rfl) : p.read (s.after c) = p.read s := by
  obtain ⟨codes, d⟩ := deeds_after (s := s) (e := true) (.inl rfl) (.inl rfl) c (isReset_of_noneOf h) fun _ => rfl
  have other := not_mem_of_avoids outside
  exact d.read (fun own => not_mem_apart_of_noneOf h sub (ownParts_subset c own))
    (fun deed => other (List.mem_cons_of_mem _ deed)) fun is => absurd (is ▸ List.mem_cons_self) other

/-! ### Events that reach neither Sequencer nor Stepper -/

theorem feedbackQualified_only (o : ProvedOutput) (s : State) :
    Only [.statusMarked, .reEvaluate, .derate, .conditions, .alarm, .feedback, .proof] s (feedbackQualified o s) := by
  have proved (p : Proving) : Only [.statusMarked, .reEvaluate, .derate, .conditions, .alarm, .feedback, .proof] s
      (s.setProving o p) := (setProving_parts s o p).mono (by simp)
  unfold feedbackQualified
  dsimp only
  exact Only.ite (Only.ite ((proved _).trans (((Quiet.refl _).reportGone _).only.mono (by simp))) (proved _))
    (Only.ite (proved _) (Only.refl s))

theorem only_feedbackQualification (o : ProvedOutput) (s : State) :
    Only [.statusMarked, .reEvaluate, .derate, .conditions, .alarm, .feedback, .proof] s (s.after (.feedbackQualification o)) := by
  simp only [State.after, exec, execFeedbackQualification]
  have settled := (setProving_parts s o { s.out.proving o with feedback := (s.out.proving o).feedback.settled }).mono
    (k := [.statusMarked, .reEvaluate, .derate, .conditions, .alarm, .feedback, .proof]) (by simp)
  exact Only.ite (Only.ite (settled.trans (feedbackQualified_only o _)) settled) (Only.refl s)

/-- GOVERNOR_FAULT is of class UNLOAD: its joining reaches no engine (R157, R162). -/
theorem Quiet.reportGovernorFault {s t : State} (h : Quiet s t) (b : Bool) : Quiet s (reportCause codeGovernorFault b t) := by
  have still (u : State) : joiningAppears codeGovernorFault (t.classOf codeGovernorFault) u = u := rfl
  unfold reportCause
  refine Quiet.ite ?_ (h.reportGone _)
  unfold reportPresent reportPresentWith
  refine Quiet.ite (h.setConditions _) ?_
  unfold joinCondition
  dsimp only
  rw [still, handSensorFault_of_other (by decide) (by decide)]
  exact ((h.withMember _).handDerate _ _).handChange _ _

theorem only_statusReadCompletion (signature state faultCode fuelDemand : Byte) (s : State) :
    Only [.statusMarked, .reEvaluate, .derate, .conditions, .alarm, .port, .report] s
      (s.after (.statusReadCompletion signature state faultCode fuelDemand)) := by
  simp only [State.after, exec, execStatusReadCompletion]
  have judged := setReport_only s (Port.judge { s.port with
      report := ⟨signature, state, faultCode, fuelDemand⟩
      buffer := fillBuffer s.port.buffer [signature, state, faultCode, fuelDemand] }
    (GovernorReport.good ⟨signature, state, faultCode, fuelDemand⟩)) (by rw [judge_frame])
  have freed := (judged.trans ((portRelease_only _).mono (by simp))).mono
    (k := [.statusMarked, .reEvaluate, .derate, .conditions, .alarm, .port, .report]) (by simp)
  exact Only.ite (Only.ite freed (freed.trans (((Quiet.refl _).reportGovernorFault _).only.mono (by simp)))) (Only.refl s)

/-- An event that reaches neither Sequencer nor Stepper changes its own parts alone. -/
theorem only_apart (s : State) (reset : isReset c = false) (h : c.mnemonic ∉ engineEvents) : Only (apartParts c) s (s.after c) := by
  cases c
  case throttleCodeQualification => exact only_throttleCodeQualification s
  case invalidCodeTimerExpiry => exact only_invalidCodeTimerExpiry s
  case layoverCheckExpiry => exact only_layoverCheckExpiry s
  case frameStart => exact only_frameStart s
  case arbitrationLoss => exact only_arbitrationLoss s
  case holdOffExpiry => exact only_holdOffExpiry s
  case frameArrival f => exact only_frameArrival f s
  case heartbeatExpiry => exact only_heartbeatExpiry s
  case spacingTimerExpiry => exact only_spacingTimerExpiry s
  case applicationEnd => exact only_applicationEnd s
  case listenTimerExpiry => exact only_listenTimerExpiry s
  case evaluationTimerExpiry => exact only_evaluationTimerExpiry s
  case passStart => exact only_passStart s
  case restTimerExpiry => exact only_restTimerExpiry s
  case leaseExpiry => exact only_leaseExpiry s
  case recoveryTimerExpiry => exact only_recoveryTimerExpiry s
  case configReadCompletion b => exact only_configReadCompletion b s
  case setpointWriteCompletion => exact only_setpointWriteCompletion s
  case hoursWriteCompletion => exact only_hoursWriteCompletion s
  case setpointRefreshExpiry => exact only_setpointRefreshExpiry s
  case statusReadCompletion a b c d => exact only_statusReadCompletion a b c d s
  case governorStatusTimerExpiry => exact only_governorStatusTimerExpiry s
  case feedbackQualification o => exact only_feedbackQualification o s
  case cabLineSample x => exact only_cabLineSample x s
  case feedbackSample x y z => exact only_feedbackSample x y z s
  case lineIdle n => exact only_lineIdle n s
  case startBitRead => exact only_startBitRead s
  case endOfPriorityField => exact only_endOfPriorityField s
  case readSelf | readPeer | readConditions | readFaultRecord | readHours | readInputs | badCode => exact request_only _ s
  case powerOnReset | coreReset => cases reset
  all_goals exact absurd (List.elem_iff.1 rfl) h

/-- What an event that reaches neither Sequencer nor Stepper leaves alone. -/
theorem read_apart (h : c.isNoneOf names) (s : State) {p : Part} (engine : engineEvents ⊆ names := by decide)
    (sub : p.events ⊆ names := by decide) : p.read (s.after c) = p.read s :=
  only_apart s (isReset_of_noneOf h) (fun mem => h (List.mem_cons_of_mem _ (List.mem_cons_of_mem _ (engine mem)))) p
    (not_mem_apart_of_noneOf h sub)

end

section
variable {s t : State}

/-- The Sequencer's records are those of its two parts and the rest timer. -/
theorem seq_of_read (engine : Part.engine.read t = Part.engine.read s) (minRun : t.seq.minRun = s.seq.minRun) :
    t.seq = { s.seq with rest := t.seq.rest } := by
  have parts : (t.seq.state, t.seq.stateTimer, t.seq.attempts, t.seq.fireConfirm, t.seq.stopReason, t.seq.resumed, t.seq.snapshot)
      = (s.seq.state, s.seq.stateTimer, s.seq.attempts, s.seq.fireConfirm, s.seq.stopReason, s.seq.resumed, s.seq.snapshot) := engine
  simp only [Prod.mk.injEq] at parts
  obtain ⟨state, timer, attempts, confirm, reason, resumed, snapshot⟩ := parts
  dsimp only
  rw [← state, ← timer, ← attempts, ← confirm, ← reason, ← resumed, ← snapshot, ← minRun]

/-- The Retained Store is that of its three parts and the FUEL latch. -/
theorem ret_of_read (commands : t.standingCommands = s.standingCommands) (record : Part.record.read t = Part.record.read s)
    (windows : Part.windows.read t = Part.windows.read s) (hours : Part.hours.read t = Part.hours.read s) : t.ret = s.ret := by
  have latch : t.ret.fuelLatch = s.ret.fuelLatch := congrArg CommandSet.fuel commands
  have record' : t.ret.record = s.ret.record := congrArg (fun p : Part.record.Value => p.1) record
  have running : t.ret.wasRunning = s.ret.wasRunning := congrArg (fun p : Part.record.Value => p.2) record
  have minutes : t.ret.minutes = s.ret.minutes := congrArg (fun p : Part.windows.Value => p.2) windows
  have shadow : t.ret.shadow = s.ret.shadow := congrArg (fun p : Part.hours.Value => p.2) hours
  show (⟨t.ret.fuelLatch, t.ret.minutes, t.ret.shadow, t.ret.record, t.ret.wasRunning⟩ : RetainedStore) = s.ret
  rw [latch, minutes, shadow, record', running]

end

/-- Settles O14: only the Sequencer's and the Stepper's deeds touch these records, and only the events named make any. -/
theorem engineAndOutputsMoveOnlyAtTheirEvents : Obligations.EngineAndOutputsMoveOnlyAtTheirEvents := by
  intro c s t next h
  rw [← after_eq_of_exec next]
  have commands := read_apart h s (p := .commands)
  have phases := read_apart h s (p := .runPhase)
  refine ⟨seq_of_read (read_apart h s (p := .engine)) (read_apart h s (p := .minRun)), read_apart h s (p := .stepper), commands,
    ret_of_read commands (read_apart h s (p := .record)) (read_apart h s (p := .windows)) (read_apart h s (p := .hours)), ?_, ?_, ?_⟩
  · exact congrArg (fun p : Part.runPhase.Value => p.1) phases
  · exact congrArg (fun p : Part.runPhase.Value => p.2.1) phases
  · exact congrArg (fun p : Part.runPhase.Value => p.2.2) phases

/-! ### The parts by their own events -/

section
variable {c : Instr}

/-- The need flags change at the qualification of RUN, a layover check and an analog sample alone (R39 to R41). -/
theorem needs_after (h : c.isNoneOf ["CAB_LINE_QUALIFICATION", "LAYOVER_CHECK_EXPIRY", "ANALOG_SAMPLE"]) (s : State) :
    Part.needs.read (s.after c) = Part.needs.read s := by
  by_cases engine : c.mnemonic ∈ engineEvents
  · have of_deeds {r : Scope} (d : Deeds r s (s.after c)) (own : Part.needs ∉ r.parts := by simp)
        (codes : codeCoolantSensor ∉ r.codes ∧ codeBatterySensor ∉ r.codes := by decide) :
        Part.needs.read (s.after c) = Part.needs.read s :=
      d.read (p := .needs) own (by simp [deedParts]) fun _ clears => clears.elim codes.1 codes.2
    cases c
    case powerOnReset | coreReset => exact absurd (isReset_of_noneOf h) nofun
    case bitError p => exact of_deeds (deeds_bitError (.inl rfl) p)
    case transmissionCompletion => exact of_deeds (deeds_transmissionCompletion (.inl rfl))
    case frameApplication => exact of_deeds (deeds_frameApplication (.inl rfl))
    case ageExpiry n => exact of_deeds (deeds_ageExpiry (.inl rfl) n)
    case passEnd => exact of_deeds (deeds_passEnd (.inl rfl))
    case stopDelayExpiry => exact of_deeds (deeds_stopDelayExpiry (.inl rfl))
    case prelubeTimeExpiry => exact of_deeds (deeds_prelubeTimeExpiry (.inl rfl))
    case crankTimeExpiry => exact of_deeds (deeds_crankTimeExpiry (.inl rfl))
    case fireConfirmExpiry => exact of_deeds (deeds_fireConfirmExpiry (.inl rfl))
    case runupTimeExpiry => exact of_deeds (deeds_runupTimeExpiry (.inl rfl))
    case warmMinExpiry => exact of_deeds (deeds_warmMinExpiry (.inl rfl))
    case warmMaxExpiry => exact of_deeds (deeds_warmMaxExpiry (.inl rfl))
    case cooldownExpiry => exact of_deeds (deeds_cooldownExpiry (.inl rfl))
    case stopLimitExpiry => exact of_deeds (deeds_stopLimitExpiry (.inl rfl))
    case minRunExpiry => exact of_deeds (deeds_minRunExpiry (.inl rfl))
    case settleExpiry => exact of_deeds (deeds_settleExpiry (.inl rfl))
    case heatUpdate => exact of_deeds (deeds_heatUpdate (.inl rfl))
    case upDwellEvent => exact of_deeds (deeds_upDwellEvent (.inl rfl))
    case downDwellEvent => exact of_deeds (deeds_downDwellEvent (.inl rfl))
    case speedValue pulses => exact of_deeds (deeds_speedValue (.inl rfl) (.inl rfl) pulses)
    case graceTimerExpiry => exact of_deeds (deeds_graceTimerExpiry (.inl rfl))
    case stallTimerExpiry => exact of_deeds (deeds_stallTimerExpiry (.inl rfl))
    case protectiveInputQualification k => exact of_deeds (deeds_protectiveInputQualification (.inl rfl) k)
    case protectiveInputSample l => exact of_deeds (deeds_protectiveInputSample (.inl rfl) l)
    case provingTimerExpiry o => exact of_deeds (deeds_provingTimerExpiry (.inl rfl) o)
    case configLoadCompletion => exact of_deeds deeds_configLoadCompletion
    case cabLineQualification line => exact absurd (by simp [Instr.mnemonic]) h
    case analogSample channel raw => exact absurd (by simp [Instr.mnemonic]) h
    all_goals simp [Instr.mnemonic, engineEvents] at engine
  · exact only_apart s (isReset_of_noneOf h) engine .needs (not_mem_apart_of_noneOf h (by decide))

end

/-- Settles O12: each part by the names of its own events. -/
theorem configurationAndInputsHaveTheirOwnEvents : Obligations.ConfigurationAndInputsHaveTheirOwnEvents := by
  intro c s t next
  rw [← after_eq_of_exec next]
  refine ⟨fun h => ?_, fun h => ?_, fun h => read_of_noneOf h s (p := .image), fun h => read_of_noneOf h s (p := .progress),
    fun h => ?_, fun h => ?_, fun h => ?_, fun h => ?_, fun h => read_of_noneOf h s (p := .codeStability), fun h => ?_,
    fun h => ?_, fun h => ?_, fun h => read_of_noneOf h s (p := .mode), fun h => read_of_noneOf h s (p := .layoverCheck),
    fun h => ?_, fun h => ?_, fun h => ?_, fun h => ?_⟩
  · have straps := read_of_noneOf h s (p := .straps)
    exact ⟨congrArg (fun p : Part.straps.Value => p.1) straps, congrArg (fun p : Part.straps.Value => p.2.1) straps,
      congrArg (fun p : Part.straps.Value => p.2.2) straps⟩
  · have config := read_of_noneOf h s (p := .config)
    exact ⟨congrArg (fun p : Part.config.Value => p.1) config, congrArg (fun p : Part.config.Value => p.2.1) config,
      congrArg (fun p : Part.config.Value => p.2.2.1) config, congrArg (fun p : Part.config.Value => p.2.2.2) config,
      read_of_noneOf h s (p := .startRecord)⟩
  · have hours := read_of_noneOf h s (p := .hours)
    exact ⟨congrArg (fun p : Part.hours.Value => p.1) hours, congrArg (fun p : Part.hours.Value => p.2) hours⟩
  · have windows := read_of_noneOf h s (p := .windows)
    exact ⟨congrArg (fun p : Part.windows.Value => p.1) windows, congrArg (fun p : Part.windows.Value => p.2) windows⟩
  · have lines := read_of_noneOf h s (p := .lines)
    exact ⟨congrArg (fun p : Part.lines.Value => p.1) lines, congrArg (fun p : Part.lines.Value => p.2.1) lines,
      congrArg (fun p : Part.lines.Value => p.2.2.1) lines, congrArg (fun p : Part.lines.Value => p.2.2.2) lines⟩
  · have code := read_of_noneOf h s (p := .sampledCode)
    exact ⟨congrArg (fun p : Part.sampledCode.Value => p.1) code, congrArg (fun p : Part.sampledCode.Value => p.2) code⟩
  · have code := read_of_noneOf h s (p := .qualifiedCode)
    exact ⟨congrArg (fun p : Part.qualifiedCode.Value => p.1) code, congrArg (fun p : Part.qualifiedCode.Value => p.2) code⟩
  · have decoder := read_of_noneOf h s (p := .decoder)
    exact ⟨congrArg (fun p : Part.decoder.Value => p.1) decoder, congrArg (fun p : Part.decoder.Value => p.2) decoder⟩
  · have demand := read_of_noneOf h s (p := .demand)
    exact ⟨congrArg (fun p : Part.demand.Value => p.1) demand, congrArg (fun p : Part.demand.Value => p.2) demand⟩
  · have needs := needs_after h s
    exact ⟨congrArg (fun p : Part.needs.Value => p.1) needs, congrArg (fun p : Part.needs.Value => p.2) needs⟩
  · exact ⟨read_of_noneOf h s (p := .coolant), read_of_noneOf h s (p := .oil), read_of_noneOf h s (p := .battery)⟩
  · have speed := read_of_noneOf h s (p := .speed)
    exact ⟨congrArg (fun p : Part.speed.Value => p.1) speed, congrArg (fun p : Part.speed.Value => p.2) speed⟩
  · have feedback := read_of_noneOf h s (p := .feedback)
    exact ⟨congrArg (fun p : Part.feedback.Value => p.1) feedback, congrArg (fun p : Part.feedback.Value => p.2.1) feedback,
      congrArg (fun p : Part.feedback.Value => p.2.2) feedback⟩

/-- Settles O13: each part by the names of its own events, those that the Sequencer's deeds touch by the events that make none. -/
theorem linkViewAndClaimHaveTheirOwnEvents : Obligations.LinkViewAndClaimHaveTheirOwnEvents := by
  intro c s t next
  rw [← after_eq_of_exec next]
  refine ⟨fun h => ?_, fun h => read_of_noneOf h s (p := .sending), fun h => read_of_noneOf h s (p := .txEnabled),
    fun h => read_of_noneOf h s (p := .disablePending), fun h => ?_, fun h => ?_, fun h => read_of_noneOf h s (p := .heartbeat),
    fun h => read_of_noneOf h s (p := .firstHeartbeat), fun h => read_of_noneOf h s (p := .spacing),
    fun h => read_of_noneOf h s (p := .buffers), fun h => ?_, fun h => read_of_noneOf h s (p := .freeList),
    fun h => read_of_noneOf h s (p := .postList), fun h => read_of_noneOf h s (p := .applying),
    fun h => read_of_noneOf h s (p := .draining), fun h => read_of_noneOf h s (p := .drainLeft),
    fun h => read_of_noneOf h s (p := .mailbox), fun h => read_of_noneOf h s (p := .replySlot),
    fun h => read_of_noneOf h s (p := .peers), fun h => read_of_noneOf h s (p := .everSeen),
    fun h => read_of_noneOf h s (p := .tally), fun h => read_of_noneOf h s (p := .alone),
    fun h => read_of_noneOf h s (p := .sFrozen), fun h => read_of_noneOf h s (p := .results),
    fun h => read_of_noneOf h s (p := .snapshot), fun h => read_of_noneOf h s (p := .phase),
    fun h => read_of_noneOf h s (p := .listen), fun h => read_of_noneOf h s (p := .evaluation),
    fun h => read_of_noneOf h s (p := .headTaken), fun h => read_apart h s (p := .statusMarked),
    fun h => read_apart h s (p := .claimSlot), fun h => read_apart h s (p := .reEvaluate),
    fun h => read_apart h s (p := .stopDelay), fun h => read_apart h s (p := .claimPhase),
    fun h => read_apart h s (p := .holder), fun h => read_apart h s (p := .recovery), fun h => ?_,
    fun h => read_of_noneOf h s (p := .lease), fun h => read_of_noneOf h s (p := .foreignMark), fun h => ?_, fun h => ?_,
    fun h => read_of_noneOf h s (p := .statusTimer), fun h => read_of_noneOf h s (p := .rest),
    fun h => read_of_noneOf h s (p := .minRun)⟩
  · have line := read_of_noneOf h s (p := .line)
    exact ⟨congrArg (fun p : Part.line.Value => p.1) line, congrArg (fun p : Part.line.Value => p.2) line⟩
  · have errors := read_of_noneOf h s (p := .bitErrors)
    exact ⟨congrArg (fun p : Part.bitErrors.Value => p.1) errors, congrArg (fun p : Part.bitErrors.Value => p.2) errors⟩
  · have holdOff := read_of_noneOf h s (p := .holdOff)
    exact ⟨congrArg (fun p : Part.holdOff.Value => p.1) holdOff, congrArg (fun p : Part.holdOff.Value => p.2) holdOff⟩
  · have filling := read_of_noneOf h s (p := .filling)
    exact ⟨congrArg (fun p : Part.filling.Value => p.1) filling, congrArg (fun p : Part.filling.Value => p.2) filling⟩
  · have settle := read_apart h s (p := .settle)
    exact ⟨congrArg (fun p : Part.settle.Value => p.1) settle, congrArg (fun p : Part.settle.Value => p.2.1) settle,
      congrArg (fun p : Part.settle.Value => p.2.2.1) settle, congrArg (fun p : Part.settle.Value => p.2.2.2) settle⟩
  · have heat := read_of_noneOf h s (p := .heat)
    exact ⟨congrArg (fun p : Part.heat.Value => p.1) heat, congrArg (fun p : Part.heat.Value => p.2) heat⟩
  · have report := read_of_noneOf h s (p := .report)
    exact ⟨congrArg (fun p : Part.report.Value => p.1) report, congrArg (fun p : Part.report.Value => p.2.1) report,
      congrArg (fun p : Part.report.Value => p.2.2.1) report, congrArg (fun p : Part.report.Value => p.2.2.2) report⟩

end Sys2Proof.Machine
end


section
/-! The serial port (R135 to R143): what the arbiter grants, the completions and timers, the judgement of a STATUS_READ. -/

namespace Sys2Proof.Machine

section
variable {s t u : State}

/-! ### The arbiter (R137) -/

theorem portGrant_sets (s : State) : ∃ p, portGrant s = s.setPort p := by
  unfold portGrant
  dsimp only
  split
  · exact ⟨s.port, rfl⟩
  split
  · exact ⟨_, rfl⟩
  split
  · exact ⟨_, rfl⟩
  split
  · exact ⟨_, rfl⟩
  split
  · exact ⟨_, rfl⟩
  · exact ⟨s.port, rfl⟩

theorem portGrant_eq (s : State) : portGrant s = s.setPort (portGrant s).port := by
  obtain ⟨p, eq⟩ := portGrant_sets s
  rw [eq]
  rfl

theorem portGrant_granted (s : State) : Granted s s.port (portGrant s).port := by
  unfold portGrant
  dsimp only
  split
  · next busy => simp only [Granted, busy, if_true]
  next free =>
  split
  · next read => simp only [Granted, free, read, Bool.false_eq_true, if_false, if_true]; rfl
  next noRead =>
  split
  · next write => simp only [Granted, free, noRead, write, Bool.false_eq_true, if_false, if_true]; rfl
  next noWrite =>
  split
  · next hours => simp only [Granted, free, noRead, noWrite, hours, Bool.false_eq_true, if_false, if_true]; rfl
  next noHours =>
  split
  · next status => simp only [Granted, free, noRead, noWrite, noHours, status, Bool.false_eq_true, if_false, if_true]; rfl
  · next noStatus => simp only [Granted, free, noRead, noWrite, noHours, noStatus, Bool.false_eq_true, if_false]

theorem Granted.of_same {p q : Port} (h : Granted u p q) (setpoint : u.stepper.setpoint = s.stepper.setpoint)
    (hours : u.load.hours = s.load.hours) : Granted s p q := by
  unfold Granted at h ⊢
  rw [← setpoint, ← hours]
  exact h

/-- What the arbiter leaves once the port is set, seen from the state before. -/
theorem portGrant_setPort (s : State) (p : Port) :
    portGrant (s.setPort p) = s.setPort (portGrant (s.setPort p)).port ∧ Granted s p (portGrant (s.setPort p)).port :=
  ⟨portGrant_eq _, (portGrant_granted (s.setPort p)).of_same rfl rfl⟩

/-! ### The completions and timers (R135 to R141) -/

theorem after_configReadCompletion {n : Nat} (flies : s.port.inFlight = some (.configRead n)) (bytes : List Byte) :
    s.after (.configReadCompletion bytes) = portGrant (((s.setPort { s.port with inFlight := none, buffer := eightBytes bytes }).setLoad
      { s.load with
        image := placeBlock n (eightBytes bytes) s.load.image, progress := s.load.progress.received })) := by
  simp only [State.after, exec, execConfigReadCompletion, flies]
  rfl

theorem after_setpointWriteCompletion (flies : s.port.inFlight = some .setpointWrite) :
    s.after .setpointWriteCompletion = portGrant (s.setPort { s.port with
      inFlight := none
      refresh := if s.stepper.setpoint = none then s.port.refresh else .running 1000 }) := by
  simp only [State.after, exec, execSetpointWriteCompletion]
  rw [if_pos flies]
  cases stands : s.stepper.setpoint <;> rfl

theorem after_hoursWriteCompletion (flies : s.port.inFlight = some .hoursWrite) :
    s.after .hoursWriteCompletion = portGrant (s.setPort { s.port with inFlight := none }) := if_pos flies

theorem after_setpointRefreshExpiry (running : s.port.refresh.isRunning = true) :
    s.after .setpointRefreshExpiry
      = portGrant (s.setPort { s.port with refresh := .expired, pendSetpointWrite := true }) := if_pos running

theorem after_governorStatusTimerExpiry (running : s.port.statusTimer.isRunning = true) :
    s.after .governorStatusTimerExpiry
      = portGrant (s.setPort { s.port with statusTimer := .running 200, pendStatusRead := true }) := if_pos running

end

/-- Settles O31: each completion and each timer sets the port and lets the arbiter go on. -/
theorem portCompletionsAndTimersDriveTheArbiter : Obligations.PortCompletionsAndTimersDriveTheArbiter := by
  intro s n k b1 b2 b3 b4 b5 b6 b7 b8
  refine ⟨fun flies reading => ⟨_, exec_eq_after _ _, ?_⟩, fun flies => ⟨_, exec_eq_after _ _, ?_⟩,
    fun flies => ⟨_, exec_eq_after _ _, ?_⟩, fun running => ⟨_, exec_eq_after _ _, ?_⟩, fun running => ⟨_, exec_eq_after _ _, ?_⟩⟩
  · rw [after_configReadCompletion flies, reading]
    generalize handed : (s.setPort { s.port with
      inFlight := none, buffer := eightBytes [b1, b2, b3, b4, b5, b6, b7, b8] }).setLoad _ = u
    have granted := portGrant_granted u
    rw [portGrant_eq u]
    subst handed
    exact ⟨rfl, granted.of_same rfl rfl⟩
  · rw [after_setpointWriteCompletion flies]
    exact portGrant_setPort s _
  · rw [after_hoursWriteCompletion flies]
    exact portGrant_setPort s _
  · rw [after_setpointRefreshExpiry running]
    exact portGrant_setPort s _
  · rw [after_governorStatusTimerExpiry running]
    exact portGrant_setPort s _

end Sys2Proof.Machine
end


section
/-! What a joining and a leaving of the condition set hand on, written out (R158 to R163), where neither derate nor a need flag is touched. -/

namespace Sys2Proof.Machine

section
variable {s t u : State}

/-! ### Handing on (R162) -/

/-- Steps 4 to 6 of R162, written out, by the mark and the trigger of a station with the same link and Allocator. -/
theorem handChange_eq (cls : CondClass) (differs : Bool) (link : t.link = s.link) (alloc : t.alloc = s.alloc) :
    handChange cls differs t = { t with
      link := (s.withMarkIf differs).link, alloc := (s.withTriggerIf cls.triggers).alloc
      out := { t.out with alarm := !t.mon.conditions.isEmpty } } := by
  have told : passTriggerIf cls.triggers t = t.setAlloc (s.withTriggerIf cls.triggers).alloc := by
    rw [← withTriggerIf_alloc_congr _ alloc]
    exact (passTriggerIf_eq_withTriggerIf _ t).trans (withTriggerIf_eq_alloc _ t)
  have marked (u : State) (same : u.link = s.link) : markStatusIf differs u = u.setLink (s.withMarkIf differs).link := by
    rw [← withMarkIf_link_congr differs same]
    exact (markStatusIf_eq_withMarkIf differs u).trans (withMarkIf_eq_link differs u)
  unfold handChange
  rw [told, marked (t.setAlloc (s.withTriggerIf cls.triggers).alloc) link]
  rfl

theorem withMarkIf_link (c : Bool) (s : State) :
    (s.withMarkIf c).link = { s.link with statusMarked := (s.withMarkIf c).link.statusMarked } := by
  cases c <;> rfl

/-- A code that is neither of class DERATE nor a fault of a sensor that a need flag uses. -/
structure Plain (s : State) (code : Nat) : Prop where
  cls : s.classOf code ≠ .derate
  coolant : code ≠ codeCoolantSensor
  battery : code ≠ codeBatterySensor

theorem handDerate_of_plain {code : Nat} {cls : CondClass} (notDerate : cls ≠ .derate) (coolant : code ≠ codeCoolantSensor)
    (s : State) : handDerate code cls s = s := if_neg (by simp [notDerate, coolant])

theorem handSensorFault_of_plain {code : Nat} (coolant : code ≠ codeCoolantSensor) (battery : code ≠ codeBatterySensor)
    (s : State) : handSensorFault code s = s := by
  unfold handSensorFault
  rw [if_neg coolant, if_neg battery]

/-- The member that a joining brings (R157, R158). -/
def State.newMember (s : State) (code : Nat) : Member := ⟨code, s.classOf code, s.latchedOf code, true, 0⟩

theorem newMember_mem (s : State) (code : Nat) : s.newMember code ∈ (s.withMember code).mon.conditions :=
  mem_insertMember.2 (.inl rfl)

theorem newMember_of_fixed {code : Nat} (fixed : 12 < code) (s : State) :
    s.newMember code = ⟨code, fixedClass code, fixedLatched code, true, 0⟩ := by
  have outside : inputIndex code = none := dif_neg (by omega)
  simp [State.newMember, State.classOf, State.latchedOf, outside]

theorem withMember_nonempty (s : State) (code : Nat) : (s.withMember code).mon.conditions.isEmpty = false := by
  rw [List.isEmpty_eq_false_iff]
  exact List.ne_nil_of_mem (newMember_mem s code)

/-- A plain code joins: the Sequencer reacts, then trigger, mark and ALARM. -/
theorem joinCondition_of_plain {code : Nat} (plain : Plain s code) (react : State → State) :
    joinCondition code react s = handChange (s.classOf code) (reportDiffers s (s.withMember code)) (react (s.withMember code)) := by
  unfold joinCondition
  dsimp only
  rw [handDerate_of_plain plain.cls plain.coolant, handSensorFault_of_plain plain.coolant plain.battery]

theorem reportPresent_of_new {code : Nat} (new : hasCode s.mon.conditions code = false) :
    reportPresent code s = joinCondition code (joiningAppears code (s.classOf code)) s := by
  unfold reportPresent reportPresentWith
  rw [if_neg (by simp [new])]

theorem reportPresent_of_member {code : Nat} (member : hasCode s.mon.conditions code = true) :
    reportPresent code s = s.setConditions (setCause code true s.mon.conditions) := if_pos member

/-- A station that a plain code has joined without a transition of the engine. -/
def State.joinedBy (s : State) (code : Nat) : State :=
  { s.withMember code with
    link := (s.withMarkIf (reportDiffers s (s.withMember code))).link
    alloc := (s.withTriggerIf (s.classOf code).triggers).alloc
    out := { s.out with alarm := true } }

theorem handChange_withMember (cls : CondClass) (differs : Bool) (code : Nat) (s : State) :
    handChange cls differs (s.withMember code) = { s.withMember code with
      link := (s.withMarkIf differs).link, alloc := (s.withTriggerIf cls.triggers).alloc
      out := { s.out with alarm := true } } := by
  rw [handChange_eq (s := s) (t := s.withMember code) cls differs rfl rfl, withMember_nonempty]
  rfl

theorem reportPresent_unmoved {code : Nat} (plain : Plain s code) (new : hasCode s.mon.conditions code = false)
    (unmoved : joiningAppears code (s.classOf code) (s.withMember code) = s.withMember code) :
    reportPresent code s = s.joinedBy code := by
  rw [reportPresent_of_new new, joinCondition_of_plain plain, unmoved]
  exact handChange_withMember _ _ code s

/-- What the joining of a plain code changes while the engine stands. -/
theorem joinedBy_eq (s : State) (code : Nat) : s.joinedBy code = { s with
    link := { s.link with statusMarked := (s.joinedBy code).link.statusMarked }
    alloc := (s.withTriggerIf (s.classOf code).triggers).alloc
    mon := { s.mon with conditions := (s.joinedBy code).mon.conditions }, out := { s.out with alarm := true } } := by
  unfold State.joinedBy
  cases reportDiffers s (s.withMember code) <;> rfl

theorem joinedBy_member (s : State) (code : Nat) : s.newMember code ∈ (s.joinedBy code).mon.conditions := newMember_mem s code

theorem joinedBy_conditionsBut (s : State) (code : Nat) : ConditionsBut [code] s (s.joinedBy code) :=
  conditionsBut_withMember (List.mem_singleton_self code) s

/-! ### Leaving (R159) -/

theorem findMember_of_hasCode {code : Nat} {l : List Member} (member : hasCode l code = true) :
    ∃ m ∈ l, m.code = code ∧ findMember code l = some m := by
  cases found : findMember code l with
  | none =>
    obtain ⟨m, hm, same⟩ := List.any_eq_true.1 member
    exact absurd same (by simpa using List.find?_eq_none.1 found m hm)
  | some m => exact ⟨m, (mem_of_findMember found).1, (mem_of_findMember found).2, rfl⟩

theorem reportGone_of_absent {code : Nat} (absent : hasCode s.mon.conditions code = false) : reportGone code s = s := by
  have found : findMember code s.mon.conditions = none :=
    List.find?_eq_none.2 fun m hm => by simpa using (hasCode_eq_false_iff _ _).1 absent m hm
  simp only [reportGone, found]

theorem hasCode_removeCode_same (code : Nat) (l : List Member) : hasCode (removeCode code l) code = false :=
  (hasCode_eq_false_iff _ _).2 fun m hm => by simpa using (List.mem_filter.1 hm).2

/-- A station that a code has left, without a change of F and C. -/
def State.leftBy (s : State) (code : Nat) (cls : CondClass) : State :=
  let left := s.setConditions (removeCode code s.mon.conditions)
  { left with
    link := (s.withMarkIf (reportDiffers s left)).link, alloc := (s.withTriggerIf cls.triggers).alloc
    out := { s.out with alarm := !(removeCode code s.mon.conditions).isEmpty } }

theorem leaveCondition_of_plain {m : Member} (notDerate : m.cls ≠ .derate) (coolant : m.code ≠ codeCoolantSensor) :
    leaveCondition m s = s.leftBy m.code m.cls := by
  unfold leaveCondition
  dsimp only
  rw [handDerate_of_plain notDerate coolant, handChange_eq (s := s) (t := s.setConditions (removeCode m.code s.mon.conditions)) _ _ rfl rfl]
  rfl

/-- The cause of an unlatched member is reported gone: it leaves. -/
theorem reportGone_of_unlatched {code : Nat} {cls : CondClass} (member : hasCode s.mon.conditions code = true)
    (unlatched : ∀ m ∈ s.mon.conditions, m.code = code → m.latched = false ∧ m.cls = cls) (notDerate : cls ≠ .derate)
    (coolant : code ≠ codeCoolantSensor) : reportGone code s = s.leftBy code cls := by
  obtain ⟨m, hm, same, found⟩ := findMember_of_hasCode member
  obtain ⟨free, cls_eq⟩ := unlatched m hm same
  simp only [reportGone, found, free, Bool.false_eq_true, if_false]
  rw [leaveCondition_of_plain (cls_eq ▸ notDerate) (same ▸ coolant), same, cls_eq]

/-- The cause of a code is reported gone, and the member with it is latched or there is none: only its cause flag goes. -/
theorem reportGone_of_latched {code : Nat} (latched : ∀ m ∈ s.mon.conditions, m.code = code → m.latched = true) :
    reportGone code s = s.setConditions (setCause code false s.mon.conditions) := by
  unfold reportGone
  split
  · next absent =>
    have same : setCause code false s.mon.conditions = s.mon.conditions := by
      refine (List.map_congr_left fun m hm => if_neg ?_).trans (List.map_id' _)
      simpa using List.find?_eq_none.1 absent m hm
    rw [same]
    rfl
  · next m found =>
    rw [if_pos (latched m (mem_of_findMember found).1 (mem_of_findMember found).2)]

/-- What the leaving of a member changes. -/
theorem leftBy_eq (s : State) (code : Nat) (cls : CondClass) : s.leftBy code cls = { s with
    link := { s.link with statusMarked := (s.leftBy code cls).link.statusMarked }
    alloc := (s.withTriggerIf cls.triggers).alloc
    mon := { s.mon with conditions := (s.leftBy code cls).mon.conditions }
    out := { s.out with alarm := !(s.leftBy code cls).mon.conditions.isEmpty } } := by
  unfold State.leftBy
  dsimp only
  cases reportDiffers s (s.setConditions (removeCode code s.mon.conditions)) <;> rfl

theorem leftBy_absent (s : State) (code : Nat) (cls : CondClass) : hasCode (s.leftBy code cls).mon.conditions code = false :=
  hasCode_removeCode_same code s.mon.conditions

theorem leftBy_conditionsBut (s : State) (code : Nat) (cls : CondClass) : ConditionsBut [code] s (s.leftBy code cls) := by
  constructor
  · intro m hm outside
    exact List.mem_filter.2 ⟨hm, by simpa using outside⟩
  · exact fun m hm _ => (List.mem_filter.1 hm).1

end

/-! ### The governor's judgement (R142, R143) -/

section
variable {s : State}

/-- The port when the select is released after a STATUS_READ (R135, R142), before the judgement. -/
def Port.reported (p : Port) (r : GovernorReport) : Port :=
  { p with
    inFlight := none, report := r
    buffer := fillBuffer p.buffer [r.signature, r.state, r.faultCode, r.fuelDemand] }

theorem judge_freed (p : Port) (good : Bool) : { p.judge good with inFlight := none } = Port.judge { p with inFlight := none } good := by
  unfold Port.judge
  dsimp only
  cases p.governorFault <;> cases good
  · dsimp only; split <;> rfl
  · rfl
  · rfl
  · dsimp only; split <;> rfl

theorem good_eq (signature state fault fuel : Byte) :
    GovernorReport.good ⟨signature, state, fault, fuel⟩ = (signature == 0xA5 && state == 0) := by
  unfold GovernorReport.good
  congr 1
  rw [Bool.eq_iff_iff, beq_iff_eq, beq_iff_eq, ← BitVec.toNat_inj]
  rfl

/-- A STATUS_READ is kept and judged, and a change of the fault state is reported (R142, R143). -/
theorem after_statusRead (flies : s.port.inFlight = some .statusRead) (r : GovernorReport) :
    s.after (.statusReadCompletion r.signature r.state r.faultCode r.fuelDemand) =
      (let freed := portGrant (s.setPort ((s.port.reported r).judge r.good))
      if ((s.port.reported r).judge r.good).governorFault = s.port.governorFault then freed
      else reportCause codeGovernorFault ((s.port.reported r).judge r.good).governorFault freed) := by
  have judged : (s.port.reported r).judge r.good = { s.port.judged r with inFlight := none } :=
    (judge_freed { s.port with
      report := r, buffer := fillBuffer s.port.buffer [r.signature, r.state, r.faultCode, r.fuelDemand] } r.good).symm
  rw [judged]
  exact if_pos flies

/-- A STATUS_READ that leaves the fault state as it was goes to the port alone. -/
theorem after_statusRead_same (flies : s.port.inFlight = some .statusRead) {r : GovernorReport}
    (same : ((s.port.reported r).judge r.good).governorFault = s.port.governorFault) :
    s.after (.statusReadCompletion r.signature r.state r.faultCode r.fuelDemand)
        = s.setPort (s.after (.statusReadCompletion r.signature r.state r.faultCode r.fuelDemand)).port
      ∧ Granted s ((s.port.reported r).judge r.good)
        (s.after (.statusReadCompletion r.signature r.state r.faultCode r.fuelDemand)).port := by
  rw [after_statusRead flies]
  dsimp only
  rw [if_pos same]
  exact portGrant_setPort s _

theorem plain_governorFault (s : State) : Plain s codeGovernorFault := ⟨nofun, nofun, nofun⟩

end

/-- Settles O32: the six rows of R143's table, by fault state, judgement and count. -/
theorem governorReadsAreJudged : Obligations.GovernorReadsAreJudged := by
  intro s signature state fault fuel flies report good kept
  have isGood : report.good = good := good_eq signature state fault fuel
  have reported : s.port.reported report = kept := rfl
  refine ⟨fun fine sound => ⟨_, exec_eq_after _ _, ?_⟩, fun fine bad below => ⟨_, exec_eq_after _ _, ?_⟩,
    fun fine bad third absent => ⟨_, exec_eq_after _ _, ?_⟩, fun faulty bad => ⟨_, exec_eq_after _ _, ?_⟩,
    fun faulty sound below => ⟨_, exec_eq_after _ _, ?_⟩, fun faulty sound third member unlatched => ⟨_, exec_eq_after _ _, ?_⟩⟩
  · have judged : kept.judge report.good = { kept with badReads := 0 } := by
      simp only [Port.judge, isGood, sound, show kept.governorFault = false from fine]
    rw [← judged]
    exact after_statusRead_same flies (r := report) (by rw [reported, judged])
  · have judged : kept.judge report.good = { kept with badReads := s.port.badReads + 1 } := by
      simp only [Port.judge, isGood, bad, show kept.governorFault = false from fine, show kept.badReads < 2 from below, if_true]
      rfl
    rw [← judged]
    exact after_statusRead_same flies (r := report) (by rw [reported, judged])
  · have judged : kept.judge report.good = { kept with governorFault := true, badReads := 0, goodReads := 0 } := by
      simp only [Port.judge, isGood, bad, show kept.governorFault = false from fine, show ¬ kept.badReads < 2 from Nat.not_lt.2 third, if_false]
    obtain ⟨eq, granted⟩ := portGrant_setPort s { kept with governorFault := true, badReads := 0, goodReads := 0 }
    rw [after_statusRead flies report, reported, judged]
    dsimp only
    rw [if_neg (by simp [fine])]
    generalize (portGrant (s.setPort { kept with governorFault := true, badReads := 0, goodReads := 0 })) = u at *
    generalize port : u.port = p at *
    rw [eq]
    have joined : reportCause codeGovernorFault true (s.setPort p) = (s.setPort p).joinedBy codeGovernorFault :=
      reportPresent_unmoved (plain_governorFault _) absent rfl
    rw [joined]
    exact ⟨granted, joinedBy_member (s.setPort p) codeGovernorFault, joinedBy_conditionsBut (s.setPort p) codeGovernorFault,
      joinedBy_eq (s.setPort p) codeGovernorFault⟩
  · have judged : kept.judge report.good = { kept with goodReads := 0 } := by
      simp only [Port.judge, isGood, bad, show kept.governorFault = true from faulty]
    rw [← judged]
    exact after_statusRead_same flies (r := report) (by rw [reported, judged])
  · have judged : kept.judge report.good = { kept with goodReads := s.port.goodReads + 1 } := by
      simp only [Port.judge, isGood, sound, show kept.governorFault = true from faulty, show kept.goodReads < 2 from below, if_true]
      rfl
    rw [← judged]
    exact after_statusRead_same flies (r := report) (by rw [reported, judged])
  · have judged : kept.judge report.good = { kept with governorFault := false, badReads := 0, goodReads := 0 } := by
      simp only [Port.judge, isGood, sound, show kept.governorFault = true from faulty, show ¬ kept.goodReads < 2 from Nat.not_lt.2 third, if_false]
    obtain ⟨eq, granted⟩ := portGrant_setPort s { kept with governorFault := false, badReads := 0, goodReads := 0 }
    rw [after_statusRead flies report, reported, judged]
    dsimp only
    rw [if_neg (by simp [faulty])]
    generalize (portGrant (s.setPort { kept with governorFault := false, badReads := 0, goodReads := 0 })) = u at *
    generalize port : u.port = p at *
    rw [eq]
    have left : reportCause codeGovernorFault false (s.setPort p) = (s.setPort p).leftBy codeGovernorFault .unload :=
      reportGone_of_unlatched member unlatched nofun nofun
    rw [left]
    exact ⟨granted, leftBy_absent (s.setPort p) codeGovernorFault _, leftBy_conditionsBut (s.setPort p) codeGovernorFault _,
      leftBy_eq (s.setPort p) codeGovernorFault _⟩

end Sys2Proof.Machine
end


section
/-! Sampled inputs (R29, R34): a sample restarts timers; an expiry that finds nothing new; requests (R184 to R186). -/

namespace Sys2Proof.Machine

section
variable {s : State}

theorem sample_sampled (stable : Nat) (level : Bool) (q : QualifiedInput) : Sampled stable level q (q.sample stable level) := by
  unfold QualifiedInput.sample
  constructor
  · rintro ⟨yet, same⟩
    rw [if_pos (by simp [yet, same])]
  · intro changed
    refine if_neg ?_
    obtain first | other := changed
    · simp [first]
    · simp [other]

theorem sampleCode_eq (code : Nat) (c : CabUnit) : c.sampleCode code = { c with
    sampledCode := code, codeSampledYet := true
    codeStability := if c.codeSampledYet = true ∧ c.sampledCode = code then c.codeStability else .running 100 } := by
  unfold CabUnit.sampleCode
  by_cases same : c.codeSampledYet = true ∧ c.sampledCode = code
  · rw [if_pos (by simp [same.1, same.2]), if_pos same]
    obtain ⟨yet, rfl⟩ := same
    rw [← yet]
  · rw [if_neg (by simpa using same), if_neg same]
    rfl

theorem throttleCode_eq (l : CabLevels) : throttleCode l = bit l.t1 + 2 * bit l.t2 + 4 * bit l.t3 + 8 * bit l.t4 := by
  unfold throttleCode
  omega

theorem after_cabLineSample (l : CabLevels) : s.after (.cabLineSample l) = s.setCab (({ s.cab with
    run := s.cab.run.sample 50 (l.level .run), estop := s.cab.estop.sample 50 (l.level .estop)
    faultReset := s.cab.faultReset.sample 50 (l.level .faultReset)
    isolate := s.cab.isolate.sample 50 (l.level .isolate) }).sampleCode (throttleCode l)) := rfl

/-- An expiry that finds the level of a qualified line qualified already. -/
theorem after_lineQualification_old {line : CabLine} (running : (s.cab.line line).stability.isRunning = true)
    (yet : (s.cab.line line).qualifiedYet = true) (same : (s.cab.line line).sampled = (s.cab.line line).qualified) :
    s.after (.cabLineQualification line)
      = s.setCab (s.cab.setLine line { s.cab.line line with stability := .expired }) := by
  have old : ¬ (s.cab.line line).qualifies = true := by simp [qualifies_iff, yet, same]
  have settled : (s.cab.line line).settled = { s.cab.line line with stability := .expired } := by
    rw [QualifiedInput.settled, ← yet]
    dsimp only
    rw [← same]
  simp only [State.after, exec, execCabLineQualification, running, if_true, if_neg old, settled]

end

/-- Settles O35: line by line, and the code by its own timer. -/
theorem cabSamplesRestartTheirTimers : Obligations.CabSamplesRestartTheirTimers := by
  intro s l line
  refine ⟨⟨_, exec_eq_after _ _, ?_⟩, fun running yet same => ⟨_, exec_eq_after _ _, after_lineQualification_old running yet same⟩⟩
  rw [after_cabLineSample, sampleCode_eq, throttleCode_eq]
  refine ⟨rfl, fun x => ?_, rfl, rfl⟩
  cases x <;> exact sample_sampled 50 _ _

/-! ### Requests (R184 to R186) -/

section
variable {s : State} {q : Request}

theorem request_answered (station : s.load.station ≠ 0) (enabled : s.link.txEnabled = true) (free : s.mailbox = none)
    (slot : s.link.replySlot = none) :
    request q s = { s with link := { s.link with replySlot := some (s.replyTo q) } } := by
  have takes : s.takesRequest = true := by simp [State.takesRequest, station, enabled, free]
  have serves : (s.link.replySlot.isNone && s.link.txEnabled) = true := by simp [slot, enabled]
  unfold request
  rw [if_pos takes]
  refine (if_pos serves).trans ?_
  rw [← free]
  rfl

theorem request_waits (station : s.load.station ≠ 0) (enabled : s.link.txEnabled = true) (free : s.mailbox = none)
    (slot : s.link.replySlot ≠ none) : request q s = { s with mailbox := some q } := by
  have takes : s.takesRequest = true := by simp [State.takesRequest, station, enabled, free]
  have busy : ¬ (s.link.replySlot.isNone && s.link.txEnabled) = true := by simp [slot]
  unfold request
  rw [if_pos takes]
  exact if_neg busy

theorem request_discarded (refused : s.load.station = 0 ∨ s.link.txEnabled = false ∨ s.mailbox ≠ none) : request q s = s := by
  refine if_neg ?_
  simp only [State.takesRequest, Bool.and_eq_true, bne_iff_ne, ne_eq, Option.isNone_iff_eq_none]
  rintro ⟨⟨station, enabled⟩, free⟩
  obtain zero | disabled | full := refused
  · exact station zero
  · simp [disabled] at enabled
  · exact full free

/-- The frame processor applies the head of the post list. -/
theorem after_frameApplication {b : Fin 8} {rest : List (Fin 8)} (due : s.frameDue = true)
    (post : s.link.postList = b :: rest) :
    s.after .frameApplication = applyFrame s.link.buffers[b] (s.taking b rest) := by
  simp only [State.after, exec, execFrameApplication, due, if_true, post]
  rfl

/-- The requests as commands, each with its code (R186; log 18). -/
theorem after_of_request {argument code : Byte} {c : Instr}
    (listed : (c, q) ∈ [(.readSelf argument, ⟨1, argument⟩), (.readPeer argument, ⟨2, argument⟩),
        (.readConditions argument, ⟨3, argument⟩), (.readFaultRecord argument, ⟨4, argument⟩),
        (.readHours argument, ⟨5, argument⟩), (.readInputs argument, ⟨6, argument⟩),
        (.badCode code argument, (⟨code, argument⟩ : Request))]) : s.after c = request q s := by
  simp only [List.mem_cons, Prod.mk.injEq, List.not_mem_nil, or_false] at listed
  obtain ⟨rfl, rfl⟩ | ⟨rfl, rfl⟩ | ⟨rfl, rfl⟩ | ⟨rfl, rfl⟩ | ⟨rfl, rfl⟩ | ⟨rfl, rfl⟩ | ⟨rfl, rfl⟩ := listed <;> rfl

/-- A REQUEST frame that names this station is a request to it; another is none (R184). -/
theorem applyFrame_request {f : RawFrame} (source : f.source = 0) (s : State) : applyFrame f s = requestFrame f.data s :=
  if_pos (by rw [source]; rfl)

end

/-- Settles O45: the mailbox's test, then the responder's. -/
theorem requestsAreTakenOrDiscarded : Obligations.RequestsAreTakenOrDiscarded := by
  intro s argument code c q listed
  have asked : s.after c = request q s := after_of_request listed
  refine ⟨fun station enabled free slot => ⟨_, exec_eq_after _ _, asked.trans (request_answered station enabled free slot)⟩,
    fun station enabled free slot => ⟨_, exec_eq_after _ _, asked.trans (request_waits station enabled free slot)⟩,
    fun refused => ⟨_, exec_eq_after _ _, asked.trans (request_discarded refused)⟩, ?_⟩
  intro b rest due post source length data l
  have applied : s.after .frameApplication = requestFrame data (s.taking b rest) :=
    (after_frameApplication due post).trans (applyFrame_request source _)
  refine ⟨fun target station enabled free slot => ⟨_, exec_eq_after _ _, ?_⟩, fun other => ⟨_, exec_eq_after _ _, ?_⟩⟩
  · rw [applied]
    refine (if_pos target).trans ?_
    exact request_answered (s := s.taking b rest) station enabled free slot
  · rw [applied]
    exact if_neg other

end Sys2Proof.Machine
end


section
/-! The line and its runs of bits (R44), the start of a frame by priority (R53), the pool (R63 to R66). -/

namespace Sys2Proof.Machine

section
variable {l : LinkUnit} {n : Nat} {s : State}

/-! ### The line (R44) -/

theorem frameOnLine_iff (l : LinkUnit) : l.frameOnLine = true ↔ l.carriesFrame := by
  unfold LinkUnit.frameOnLine LinkUnit.notReceiving LinkUnit.carriesFrame
  cases l.sending <;> cases l.filling <;> cases l.intoNothing <;> simp

theorem frameOnLine_eq_false (free : ¬ l.carriesFrame) : l.frameOnLine = false :=
  Bool.eq_false_iff.2 fun carries => free ((frameOnLine_iff l).1 carries)

theorem readReleased_free (line : l.line = .settling) (free : ¬ l.carriesFrame) : l.readReleased n =
    if 9 ≤ l.releasedBits + n then { l with line := .idle, releasedBits := 9 }
    else { l with releasedBits := l.releasedBits + n } := by
  unfold LinkUnit.readReleased
  simp only [line, frameOnLine_eq_false free, if_true, LinkUnit.settle]
  rw [← line]
  rfl

theorem readReleased_endField (line : l.line = .settling) (carries : l.carriesFrame) : l.readReleased n =
    if l.releasedBits + n ≤ 7 then { l with releasedBits := l.releasedBits + n } else l := by
  unfold LinkUnit.readReleased
  simp only [line, (frameOnLine_iff l).2 carries, if_true, LinkUnit.settle]
  rw [← line]
  rfl

theorem readReleased_firstEndBit (line : l.line = .inFrame) (carries : l.carriesFrame) (short : n ≤ 7) :
    l.readReleased n = { l with line := .settling, releasedBits := n } := by
  unfold LinkUnit.readReleased
  simp only [line, (frameOnLine_iff l).2 carries, reduceCtorEq, if_false]
  exact if_pos short

theorem readReleased_none (out : l.line = .idle ∨ l.line = .inFrame ∧ (¬ l.carriesFrame ∨ 7 < n)) : l.readReleased n = l := by
  unfold LinkUnit.readReleased
  obtain line | ⟨line, free | long⟩ := out
  · simp only [line]
  · simp only [line, frameOnLine_eq_false free]
  · simp only [line, reduceCtorEq, if_false]
    cases l.frameOnLine
    · rfl
    · exact if_neg (Nat.not_le.2 long)

theorem after_lineIdle (s : State) (n : Nat) : s.after (.lineIdle n) = { s with link := s.link.readReleased n } := rfl

theorem after_startBitRead (s : State) : s.after .startBitRead = { s with link := s.link.readDriven } := rfl

/-! ### The start of a frame (R53) -/

theorem takeBuffer_eq_receiving (l : LinkUnit) : l.takeBuffer = l.receiving := by
  unfold LinkUnit.takeBuffer LinkUnit.receiving LinkUnit.notReceiving
  cases l.filling <;> cases l.intoNothing <;> cases l.freeList <;> rfl

theorem after_endOfPriorityField (line : s.link.line = .inFrame) (silent : s.link.sending = none) :
    s.after .endOfPriorityField = { s with link := s.link.receiving } := by
  rw [← takeBuffer_eq_receiving]
  exact if_pos (by simp [line, silent])

/-- FRAME_START at an IDLE line with nothing in transmission. -/
theorem after_frameStart_idle (line : s.link.line = .idle) (silent : s.link.sending = none) {kind : TxKind}
    (candidate : s.link.candidate = some kind) : s.after .frameStart = { s with link := s.linkAtStart kind } := by
  rw [after_frameStart, if_pos ((startDue_iff s).2 ⟨line, silent, by simp [candidate]⟩), candidate]
  rfl

theorem after_frameStart_none (candidate : s.link.candidate = none) : s.after .frameStart = s := by
  rw [after_frameStart, if_neg (by simp [startDue_iff, candidate])]

/-- An attempt is allowed (R52, R56): the transmitter is enabled, and in LINK_FAULT an attempt is granted. -/
structure LinkUnit.Attempts (l : LinkUnit) : Prop where
  enabled : l.txEnabled = true
  granted : l.linkFault = false ∨ l.granted = true

theorem LinkUnit.Attempts.candidate (h : l.Attempts) : l.candidate =
    match l.claimSlot with
    | .claimPending _ => some .claim
    | .releasePending _ => some .release
    | _ => if l.statusReady then some .status else if l.replySlot.isSome then some .reply else none := by
  refine if_neg ?_
  obtain fine | granted := h.granted
  · simp [h.enabled, fine]
  · simp [h.enabled, granted]

/-- With no CLAIM or RELEASE waiting, STATUS comes before REPLY (R53). -/
theorem LinkUnit.Attempts.candidate_of_free (h : l.Attempts) (free : l.claimSlot.isPending = false) : l.candidate =
    if l.statusReady then some .status else if l.replySlot.isSome then some .reply else none := by
  rw [h.candidate]
  cases slot : l.claimSlot <;> simp_all [ClaimSlot.isPending]

theorem isExpired_iff (t : Timer) : t.isExpired = true ↔ t = .expired := by
  cases t <;> simp [Timer.isExpired]

theorem statusReady_eq_false (out : l.statusMarked = false ∨ l.spacing ≠ .expired ∨ l.firstHeartbeat = false) :
    l.statusReady = false := by
  rw [Bool.eq_false_iff, ne_eq, statusReady_iff, isExpired_iff]
  rintro ⟨marked, expired, first⟩
  obtain h | h | h := out
  · simp [h] at marked
  · exact h expired
  · simp [h] at first

theorem linkAtStart_claim {c : ClaimFields} (slot : s.link.claimSlot = .claimPending c) : s.linkAtStart .claim =
    { s.link.starting .claim (s.ownFrame .claim [byteOf c.crankLimit, byteOf c.attempt]) with
      claimSlot := .claimSending c none false } := by
  simp only [State.linkAtStart, State.frameFor, LinkUnit.slotsAtStart, slot]
  rfl

theorem linkAtStart_release {o : ReleaseOutcome} (slot : s.link.claimSlot = .releasePending o) : s.linkAtStart .release =
    { s.link.starting .release (s.ownFrame .release [byteOf o.code]) with claimSlot := .releaseSending o } := by
  simp only [State.linkAtStart, State.frameFor, LinkUnit.slotsAtStart, slot]
  rfl

theorem linkAtStart_reply {q : Reply} (slot : s.link.replySlot = some q) : s.linkAtStart .reply =
    s.link.starting .reply (s.ownFrame .reply (q.code :: q.result :: q.data)) := by
  have frame : s.frameFor .reply = s.ownFrame .reply (q.code :: q.result :: q.data) := by
    simp only [State.frameFor, slot]
    rfl
  rw [State.linkAtStart, frame]
  rfl

end

/-- The clauses of the line in O41. -/
theorem lineReads (s : State) (n : Nat) :
    (s.link.line = .settling → ¬ s.link.carriesFrame →
      (s.link.releasedBits + n < 9 →
          ∃ t, exec (.lineIdle n) s = .next t ∧ t = { s with link := { s.link with releasedBits := s.link.releasedBits + n } })
        ∧ (9 ≤ s.link.releasedBits + n →
            ∃ t, exec (.lineIdle n) s = .next t ∧ t = { s with link := { s.link with line := .idle, releasedBits := 9 } }))
    ∧ (s.link.line = .settling → s.link.carriesFrame →
        (s.link.releasedBits + n ≤ 7 →
            ∃ t, exec (.lineIdle n) s = .next t ∧ t = { s with link := { s.link with releasedBits := s.link.releasedBits + n } })
          ∧ (7 < s.link.releasedBits + n → ∃ t, exec (.lineIdle n) s = .next t ∧ t = s))
    ∧ (s.link.line = .inFrame → s.link.carriesFrame → n ≤ 7 →
        ∃ t, exec (.lineIdle n) s = .next t ∧ t = { s with link := { s.link with line := .settling, releasedBits := n } })
    ∧ (s.link.line = .idle ∨ s.link.line = .inFrame ∧ (¬ s.link.carriesFrame ∨ 7 < n) →
        ∃ t, exec (.lineIdle n) s = .next t ∧ t = s) := by
  refine ⟨fun line free => ⟨fun below => ⟨_, exec_eq_after _ _, ?_⟩, fun nine => ⟨_, exec_eq_after _ _, ?_⟩⟩,
    fun line carries => ⟨fun below => ⟨_, exec_eq_after _ _, ?_⟩, fun long => ⟨_, exec_eq_after _ _, ?_⟩⟩,
    fun line carries short => ⟨_, exec_eq_after _ _, ?_⟩, fun out => ⟨_, exec_eq_after _ _, ?_⟩⟩
  · rw [after_lineIdle, readReleased_free line free, if_neg (Nat.not_le.2 below)]
  · rw [after_lineIdle, readReleased_free line free, if_pos nine]
  · rw [after_lineIdle, readReleased_endField line carries, if_pos below]
  · rw [after_lineIdle, readReleased_endField line carries, if_neg (Nat.not_le.2 long)]
  · rw [after_lineIdle, readReleased_firstEndBit line carries short]
  · rw [after_lineIdle, readReleased_none out]

/-- Settles O41: the line by its three states, the start by the candidate of lowest kind code. -/
theorem framesAreStartedByPriority : Obligations.FramesAreStartedByPriority := by
  intro s
  refine ⟨lineReads s, fun line => ⟨_, exec_eq_after _ _, ?_⟩, fun line => ⟨_, exec_eq_after _ _, ?_⟩,
    fun line => ⟨_, exec_eq_after _ _, ?_⟩, fun line silent => ⟨_, exec_eq_after _ _, after_endOfPriorityField line silent⟩, ?_⟩
  · rw [after_startBitRead]
    simp only [LinkUnit.readDriven, line]
  · rw [after_startBitRead]
    simp only [LinkUnit.readDriven, line, LinkUnit.settle]
  · rw [after_startBitRead]
    simp only [LinkUnit.readDriven, line]
  · intro line silent enabled granted
    have allowed : s.link.Attempts := ⟨enabled, granted⟩
    refine ⟨fun c slot => ⟨_, exec_eq_after _ _, ?_⟩, fun o slot => ⟨_, exec_eq_after _ _, ?_⟩,
      fun free marked spaced first => ⟨_, exec_eq_after _ _, ?_⟩,
      fun free out => ⟨fun q slot => ⟨_, exec_eq_after _ _, ?_⟩, fun slot => ⟨_, exec_eq_after _ _, ?_⟩⟩⟩
    · rw [after_frameStart_idle line silent (kind := .claim) (by rw [allowed.candidate, slot]), linkAtStart_claim slot]
    · rw [after_frameStart_idle line silent (kind := .release) (by rw [allowed.candidate, slot]), linkAtStart_release slot]
    · have ready := (statusReady_iff s.link).2 ⟨marked, (isExpired_iff _).2 spaced, first⟩
      exact after_frameStart_idle line silent (kind := .status) (by rw [allowed.candidate_of_free free, if_pos ready])
    · have unready := statusReady_eq_false out
      rw [after_frameStart_idle line silent (kind := .reply)
        (by rw [allowed.candidate_of_free free, if_neg (by simp [unready]), slot]; rfl), linkAtStart_reply slot]
    · have unready := statusReady_eq_false out
      exact after_frameStart_none (by rw [allowed.candidate_of_free free, if_neg (by simp [unready]), slot]; rfl)

end Sys2Proof.Machine
end


section
/-! Frames through the pool (R48, R63 to R66) and the link's two timers (R60, R61). -/

namespace Sys2Proof.Machine

section
variable {s t : State} {b : Fin 8} {f : RawFrame}

/-! ### Taking a frame up (R65, R86) -/

/-- The frame processor takes the head of a post list that is not empty, if no frame is being applied and no pass is due. -/
theorem frameDue_eq (post : s.link.postList ≠ []) :
    s.frameDue = (s.link.applying.isNone && s.takesUp s.link.draining) := by
  have waits : s.link.postList.isEmpty = false := List.isEmpty_eq_false_iff.2 post
  unfold State.frameDue State.passDue State.takesUp
  rw [waits]
  cases s.link.applying.isNone <;> cases s.alloc.phase <;> simp

theorem frameDue_of_empty (post : s.link.postList = []) : s.frameDue = false := by simp [State.frameDue, post]

theorem takeUpFrame_of_post (post : s.link.postList ≠ []) : takeUpFrame s = s.setLink { s.link with
    headTaken := s.link.applying.isNone && s.takesUp s.link.draining } := by
  rw [takeUpFrame, frameDue_eq post]

/-! ### Arrival (R48, R58, R118) -/

theorem isForeignClaim_iff (s : State) (f : RawFrame) :
    s.isForeignClaim f = true ↔ f.kind = 0 ∧ f.source.toNat ≠ s.load.station := by
  unfold State.isForeignClaim
  rw [Bool.and_eq_true, beq_iff_eq, bne_iff_ne, ← BitVec.toNat_inj]
  rfl

theorem foreignClaim_of_notPending (slot : ∀ c, s.link.claimSlot ≠ .claimPending c) : foreignClaim s = s := by
  unfold foreignClaim
  split
  · next c pending => exact absurd pending (slot c)
  · rfl

theorem foreignClaim_of_offered {c : ClaimFields} (slot : s.link.claimSlot = .claimPending c) (offered : s.claim.phase = .offered) :
    foreignClaim s = { s with
      link := { s.link with claimSlot := .empty }, claim := { s.claim with phase := .wanted, foreignMark := true } } := by
  simp only [foreignClaim, slot, offered, if_true]
  rfl

/-- A good frame that withdraws no own CLAIM. -/
theorem told_of_untouched (untouched : f.kind ≠ 0 ∨ f.source.toNat = s.load.station ∨ ∀ c, s.link.claimSlot ≠ .claimPending c) :
    s.told f (s.received b f) = s.received b f := by
  unfold State.told
  split
  · next foreign =>
    obtain ⟨claim, other⟩ := (isForeignClaim_iff s f).1 foreign
    obtain kind | own | slot := untouched
    · exact absurd claim kind
    · exact absurd own other
    · exact foreignClaim_of_notPending slot
  · rfl

theorem after_frameArrival_bad (filling : s.link.filling = some b) (bad : goodFrame f = false) :
    s.after (.frameArrival f) = (s.received b f).freed b := by
  rw [after_frameArrival_filling f filling, bad]
  rfl

theorem after_frameArrival_good (filling : s.link.filling = some b) (good : goodFrame f = true) :
    s.after (.frameArrival f) = takeUpFrame ((s.told f (s.received b f)).posted b) := by
  rw [after_frameArrival_filling f filling, good]
  rfl

theorem posted_ne_nil (s : State) (b : Fin 8) : (s.posted b).link.postList ≠ [] := by
  show s.link.postList ++ [b] ≠ []
  simp

/-- A frame with its end field released ends on seven released bits (R44, R48). -/
theorem trailingReleased_of_good (good : goodFrame f = true) : trailingReleased f.endField = 7 := by
  rw [((goodFrame_iff f).1 good).2.2.1]
  decide

/-! ### Timers and the end of an application -/

theorem after_heartbeatExpiry (running : s.link.heartbeat.isRunning = true) : s.after .heartbeatExpiry =
    { s with link := { s.withMark.link with heartbeat := .expired, firstHeartbeat := true } } := by
  refine (if_pos running).trans ?_
  rw [markStatus_eq_withMark]
  rfl

theorem after_applicationEnd (applies : s.link.applying = some b) :
    s.after .applicationEnd = takeUpFrame (s.setLink { s.link with
      applying := none, freeList := s.link.freeList ++ [b]
      draining := s.link.draining && s.link.drainLeft != 0 }) := by
  simp only [State.after, exec, execApplicationEnd, applies]

theorem takeUpFrame_eq (free : s.link.applying = none) : takeUpFrame s = s.setLink { s.link with
    headTaken := !s.link.postList.isEmpty && s.takesUp s.link.draining } := by
  rw [takeUpFrame]
  by_cases post : s.link.postList = []
  · rw [frameDue_of_empty post, post]
    rfl
  · rw [frameDue_eq post, free, List.isEmpty_eq_false_iff.2 post]
    rfl

theorem after_passStart_of_taken (taken : s.link.headTaken = true) : s.after .passStart = s :=
  if_neg (by simp [State.passDue, taken])

/-- A frame taken up is applied next (R65). -/
theorem after_frameApplication_taken (law : TakenLaw s) (taken : s.link.headTaken = true) : ∃ p ps, s.link.postList = p :: ps
    ∧ (s.after .frameApplication).link.applying = some p ∧ (s.after .frameApplication).link.postList = ps
    ∧ (s.after .frameApplication).link.headTaken = false := by
  obtain ⟨free, notEmpty, notInPass⟩ := law taken
  have due : s.frameDue = true := by
    rw [frameDue_eq notEmpty]
    simp [State.takesUp, free, notInPass, taken]
  obtain ⟨p, ps, post⟩ := List.exists_cons_of_ne_nil notEmpty
  rw [after_frameApplication due post]
  have deeds := deeds_applyFrame (s.taking p ps) s.link.buffers[p]
  exact ⟨p, ps, post, deeds.read (p := .applying) (by simp) (by simp [deedParts]) nofun,
    deeds.read (p := .postList) (by simp) (by simp [deedParts]) nofun, headTaken_deeds deeds (by simp)⟩

end

/-- Settles O44: arrival good and bad, the timers, the end of an application, and what precedes a pass. -/
theorem framesGoThroughThePool : Obligations.FramesGoThroughThePool := by
  intro s f b l
  refine ⟨fun filling bad => ⟨_, exec_eq_after _ _, after_frameArrival_bad filling bad⟩,
    fun filling good untouched => ⟨_, exec_eq_after _ _, ?_⟩,
    fun c filling good kind other slot offered => ⟨_, exec_eq_after _ _, ?_⟩,
    fun filling nothing => ⟨_, exec_eq_after _ _, ?_⟩, trailingReleased_of_good,
    fun running => ⟨_, exec_eq_after _ _, after_heartbeatExpiry running⟩,
    fun running => ⟨_, exec_eq_after _ _, if_pos running⟩, fun applies => ⟨_, exec_eq_after _ _, ?_⟩,
    fun taken => ⟨⟨_, exec_eq_after _ _, after_passStart_of_taken taken⟩, fun law => ?_⟩⟩
  · rw [after_frameArrival_good filling good, told_of_untouched untouched, takeUpFrame_of_post (posted_ne_nil _ b)]
    rfl
  · have foreign := (isForeignClaim_iff s f).2 ⟨kind, other⟩
    have told : s.told f (s.received b f) = { s.received b f with
        link := { (s.received b f).link with claimSlot := .empty }
        claim := { s.claim with phase := .wanted, foreignMark := true } } :=
      (if_pos foreign).trans (foreignClaim_of_offered slot offered)
    rw [after_frameArrival_good filling good, told, takeUpFrame_of_post (posted_ne_nil _ b)]
    rfl
  · rw [after_frameArrival_nothing f filling, if_pos nothing]
    rfl
  · rw [after_applicationEnd applies, takeUpFrame_eq rfl]
    rfl
  · obtain ⟨p, ps, post, applying, left, flag⟩ := after_frameApplication_taken law taken
    exact ⟨p, ps, post, _, exec_eq_after _ _, applying, left, flag⟩

end Sys2Proof.Machine
end


section
/-! What an entry to an engine state leaves and keeps: the own claim, marks and calls for a pass once made, the members of the condition
set but for causes that are gone (R1, R2, R155, R169). -/

namespace Sys2Proof.Machine

/-- Nothing happens to the own claim and its slot, a mark, a call for a pass and a stopped stop-delay timer stand, and the condition
set loses at most members that are not latched: another member is as it was but for its cause. -/
structure Calm (s t : State) : Prop where
  claim : t.claim = s.claim
  slot : t.link.claimSlot = s.link.claimSlot
  enabled : t.link.txEnabled = s.link.txEnabled
  phase : t.alloc.phase = s.alloc.phase
  cab : t.cab = s.cab
  marked : s.link.statusMarked = true → t.link.statusMarked = true
  again : s.alloc.reEvaluate = true → t.alloc.reEvaluate = true
  delay : s.alloc.stopDelay = .stopped → t.alloc.stopDelay = .stopped
  member : ∀ m ∈ t.mon.conditions, ∃ x ∈ s.mon.conditions, ∃ b, m = { x with cause := b }
  latched : ∀ x ∈ s.mon.conditions, (∀ y ∈ s.mon.conditions, y.code = x.code → y.latched = true) →
    ∃ b, { x with cause := b } ∈ t.mon.conditions

section
variable {s t u : State}

theorem Calm.refl (s : State) : Calm s s :=
  ⟨rfl, rfl, rfl, rfl, rfl, id, id, id, fun m hm => ⟨m, hm, m.cause, rfl⟩, fun x hx _ => ⟨x.cause, hx⟩⟩

/-- All members with a code are latched, also later on. -/
theorem Calm.allLatched (h : Calm s t) {code : Nat} (all : ∀ y ∈ s.mon.conditions, y.code = code → y.latched = true) :
    ∀ y ∈ t.mon.conditions, y.code = code → y.latched = true := by
  intro y hy same
  obtain ⟨x, hx, b, rfl⟩ := h.member y hy
  exact all x hx same

theorem Calm.trans (h : Calm s t) (k : Calm t u) : Calm s u where
  claim := k.claim.trans h.claim
  slot := k.slot.trans h.slot
  enabled := k.enabled.trans h.enabled
  phase := k.phase.trans h.phase
  cab := k.cab.trans h.cab
  marked m := k.marked (h.marked m)
  again m := k.again (h.again m)
  delay m := k.delay (h.delay m)
  member m hm := by
    obtain ⟨y, hy, c, rfl⟩ := k.member m hm
    obtain ⟨x, hx, b, rfl⟩ := h.member y hy
    exact ⟨x, hx, c, rfl⟩
  latched x hx all := by
    obtain ⟨b, hy⟩ := h.latched x hx all
    obtain ⟨c, hz⟩ := k.latched _ hy (h.allLatched (code := x.code) all)
    exact ⟨c, hz⟩

theorem Calm.ite {c : Prop} [Decidable c] (ht : Calm s t) (hu : Calm s u) : Calm s (if c then t else u) := by
  split
  · exact ht
  · exact hu

/-- A change outside the link, the Allocator, the Claim Unit, the cab and the condition set. -/
theorem Calm.of_same (cab : t.cab = s.cab) (link : t.link = s.link) (alloc : t.alloc = s.alloc) (claim : t.claim = s.claim)
    (conditions : t.mon.conditions = s.mon.conditions) : Calm s t := by
  refine ⟨claim, by rw [link], by rw [link], by rw [alloc], cab, by rw [link]; exact id, by rw [alloc]; exact id,
    by rw [alloc]; exact id, ?_, ?_⟩
  · rw [conditions]; exact (Calm.refl s).member
  · rw [conditions]; exact (Calm.refl s).latched

theorem Calm.setSeq (h : Calm s t) (x : Sequencer) : Calm s (t.setSeq x) := h.trans (Calm.of_same rfl rfl rfl rfl rfl)

theorem Calm.setRet (h : Calm s t) (x : RetainedStore) : Calm s (t.setRet x) := h.trans (Calm.of_same rfl rfl rfl rfl rfl)

theorem Calm.markStatusIf (h : Calm s t) (c : Bool) : Calm s (Machine.markStatusIf c t) := by
  refine h.trans ?_
  rw [markStatusIf_eq]
  exact ⟨rfl, rfl, rfl, rfl, rfl, fun m => by simp [State.setLink, m], id, id, (Calm.refl t).member, (Calm.refl t).latched⟩

theorem Calm.passTriggerIf (h : Calm s t) (c : Bool) : Calm s (Machine.passTriggerIf c t) := by
  refine h.trans ?_
  rw [passTriggerIf_eq]
  exact ⟨rfl, rfl, rfl, rfl, rfl, id, fun m => by simp [State.setAlloc, m], id, (Calm.refl t).member, (Calm.refl t).latched⟩

theorem Calm.markStatus (h : Calm s t) : Calm s (Machine.markStatus t) := h.markStatusIf true

theorem Calm.passTrigger (h : Calm s t) : Calm s (Machine.passTrigger t) := h.passTriggerIf true

theorem Calm.handChange (h : Calm s t) (cls : CondClass) (differs : Bool) : Calm s (Machine.handChange cls differs t) :=
  ((h.passTriggerIf _).markStatusIf _).trans (Calm.of_same rfl rfl rfl rfl rfl)

theorem Calm.computeDerate (h : Calm s t) : Calm s (Machine.computeDerate t) := by
  unfold Machine.computeDerate
  refine Calm.ite (Calm.markStatusIf (Calm.passTriggerIf (h.trans ?_) _) _) h
  exact Calm.of_same rfl rfl rfl rfl rfl

theorem Calm.handDerate (h : Calm s t) (code : Nat) (cls : CondClass) : Calm s (Machine.handDerate code cls t) :=
  Calm.ite h.computeDerate h

/-! ### Conditions -/

theorem calm_setCause (s : State) (code : Nat) (b : Bool) : Calm s (s.setConditions (setCause code b s.mon.conditions)) := by
  refine ⟨rfl, rfl, rfl, rfl, rfl, id, id, id, fun m hm => ?_, fun x hx _ => ?_⟩
  · obtain ⟨x, hx, rfl⟩ := List.mem_map.1 hm
    split
    · exact ⟨x, hx, b, rfl⟩
    · exact ⟨x, hx, x.cause, rfl⟩
  · by_cases same : x.code = code
    · exact ⟨b, List.mem_map.2 ⟨x, hx, if_pos same⟩⟩
    · exact ⟨x.cause, List.mem_map.2 ⟨x, hx, if_neg same⟩⟩

theorem calm_leaveCondition {m : Member} (there : m ∈ s.mon.conditions) (free : m.latched = false) : Calm s (leaveCondition m s) := by
  have left : Calm s (s.setConditions (removeCode m.code s.mon.conditions)) := by
    refine ⟨rfl, rfl, rfl, rfl, rfl, id, id, id, fun x hx => ⟨x, (List.mem_filter.1 hx).1, x.cause, rfl⟩, fun x hx all => ⟨x.cause, ?_⟩⟩
    refine List.mem_filter.2 ⟨hx, ?_⟩
    simp only [bne_iff_ne]
    intro same
    exact absurd (all m there same.symm) (by simp [free])
  exact (left.handDerate _ _).handChange _ _

theorem Calm.reportGone (h : Calm s t) (code : Nat) : Calm s (Machine.reportGone code t) := by
  refine h.trans ?_
  unfold Machine.reportGone
  split
  · exact Calm.refl t
  · next m found =>
    split
    · exact calm_setCause t code false
    · next free => exact calm_leaveCondition (mem_of_findMember found).1 (Bool.eq_false_iff.2 free)

theorem Calm.foldl {α : Type} {f : State → α → State} (hf : ∀ t a, Calm s t → Calm s (f t a)) (as : List α) (h : Calm s t) :
    Calm s (as.foldl f t) := by
  induction as generalizing t with
  | nil => exact h
  | cons a as ih => exact ih (hf t a h)

/-! ### The blocks at an entry -/

theorem Calm.stepped (h : Calm s t) (k : Stepped t u) (marked : t.link.statusMarked = true → u.link.statusMarked = true) :
    Calm s u := by
  refine h.trans ⟨k.claim, by rw [k.link], by rw [k.link], by rw [k.alloc], k.cab, marked, by rw [k.alloc]; exact id,
    by rw [k.alloc]; exact id, ?_, ?_⟩
  · rw [k.mon]; exact (Calm.refl t).member
  · rw [k.mon]; exact (Calm.refl t).latched

theorem Calm.deriveSetpoint (h : Calm s t) : Calm s (Machine.deriveSetpoint t) := by
  refine h.trans (Calm.of_same ?_ ?_ ?_ ?_ ?_)
  · exact ((Stepped.refl t).deriveSetpoint).cab
  · unfold Machine.deriveSetpoint
    dsimp only
    split
    · rfl
    split
    · rw [portMark, portGrant_eq]; rfl
    · rfl
  · exact ((Stepped.refl t).deriveSetpoint).alloc
  · exact ((Stepped.refl t).deriveSetpoint).claim
  · rw [((Stepped.refl t).deriveSetpoint).mon]

theorem Calm.setStepper (h : Calm s t) (x : Stepper) : Calm s (t.setStepper x) := h.trans (Calm.of_same rfl rfl rfl rfl rfl)

theorem Calm.setNotch (h : Calm s t) (n : Nat) : Calm s (Machine.setNotch n t) :=
  Calm.ite h ((h.setStepper _).deriveSetpoint.markStatusIf true)

theorem Calm.stepNotch (h : Calm s t) (n : Nat) : Calm s (Machine.stepNotch n t) := (h.setStepper _).setNotch n

theorem Calm.examineStep (h : Calm s t) : Calm s (Machine.examineStep t) :=
  Calm.ite (Calm.ite (Calm.ite (h.stepNotch _) h) (Calm.ite (Calm.ite (h.stepNotch _) h) h)) h

theorem Calm.stepperEntry (h : Calm s t) (st : EngineState) : Calm s (Machine.stepperEntry st t) := by
  unfold Machine.stepperEntry
  exact (Calm.deriveSetpoint (Calm.ite ((h.setStepper _).setNotch 0) (h.setStepper _))).examineStep

theorem Calm.commandSet (h : Calm s t) (c : CommandSet) : Calm s (Machine.commandSet c t) :=
  commandSet_keeps (P := fun u => Calm s u) h (fun _ _ k => k.trans (Calm.of_same rfl rfl rfl rfl rfl))
    (fun _ o _ k => k.trans (by cases o <;> exact Calm.of_same rfl rfl rfl rfl rfl)) (fun _ code _ k => k.reportGone code)

theorem Calm.maskInput (h : Calm s t) (k : Fin 12) : Calm s (Machine.maskInput k t) := by
  unfold Machine.maskInput
  dsimp only
  refine Calm.ite (Calm.reportGone (h.trans ?_) _) (h.trans ?_) <;> exact Calm.of_same rfl rfl rfl rfl rfl

theorem Calm.maskStartMasked (h : Calm s t) : Calm s (Machine.maskStartMasked t) :=
  Calm.foldl (fun _ k h => Calm.ite (h.maskInput k) h) _ h

theorem Calm.monitorEntry (h : Calm s t) (st : EngineState) : Calm s (Machine.monitorEntry st t) := by
  have halted : Calm s (if st.stalls then t else t.setMon { t.mon with stall := .stopped }) :=
    Calm.ite h (h.trans (Calm.of_same rfl rfl rfl rfl rfl))
  unfold Machine.monitorEntry
  dsimp only
  generalize (if st.stalls then t else t.setMon { t.mon with stall := .stopped }) = u at halted
  have phased : Calm s (u.setMon { u.mon with runPhase := .notRun, grace := .stopped }) :=
    halted.trans (Calm.of_same rfl rfl rfl rfl rfl)
  exact Calm.ite halted (phased.reportGone _).maskStartMasked

theorem Calm.entryTold (h : Calm s t) (st : EngineState) : Calm s (Machine.entryTold st t) := by
  unfold Machine.entryTold
  dsimp only
  have told : Calm s (Machine.passTrigger (Machine.markStatus
      (t.setSeq { t.seq with state := st, stateTimer := 0, fireConfirm := .stopped }))) :=
    ((h.setSeq _).markStatus).passTrigger
  generalize Machine.passTrigger (Machine.markStatus _) = u at told ⊢
  have stopped : Calm u (u.setAlloc { u.alloc with stopDelay := .stopped }) :=
    ⟨rfl, rfl, rfl, rfl, rfl, id, id, fun _ => rfl, (Calm.refl u).member, (Calm.refl u).latched⟩
  exact Calm.ite told (told.trans stopped)

theorem Calm.entryBase (h : Calm s t) (st : EngineState) : Calm s (Machine.entryBase st t) := by
  rw [entryBase_eq]
  exact (((h.entryTold st).stepperEntry st).commandSet _).monitorEntry st

/-! ### Stop causes (R23) -/

theorem stopCause_iff (m : Member) : m.stopCause = true ↔ m.latched = true ∧ (m.cls = .shutdown ∨ m.cls = .stop) := by
  simp [Member.stopCause]

/-- Codes are unique under R157. -/
theorem member_unique (law : ConditionLaw s) {x y : Member} (hx : x ∈ s.mon.conditions) (hy : y ∈ s.mon.conditions)
    (same : y.code = x.code) : y = x :=
  List.inj_on_of_nodup_map (law.1.imp Nat.ne_of_lt) hy hx same

theorem Calm.stopLatched (h : Calm s t) (law : ConditionLaw s) : t.stopLatched = s.stopLatched := by
  rw [Bool.eq_iff_iff]
  unfold State.stopLatched
  rw [List.any_eq_true, List.any_eq_true]
  constructor
  · rintro ⟨m, hm, cause⟩
    obtain ⟨x, hx, b, rfl⟩ := h.member m hm
    exact ⟨x, hx, cause⟩
  · rintro ⟨x, hx, cause⟩
    obtain ⟨b, hm⟩ := h.latched x hx fun y hy same => member_unique law hx hy same ▸ ((stopCause_iff x).1 cause).1
    exact ⟨_, hm, cause⟩

/-- A latched stop cause whose code no unlatched member has stands. -/
theorem Calm.stopLatched_of_member (h : Calm s t) {x : Member} (hx : x ∈ s.mon.conditions) (cause : x.stopCause = true)
    (all : ∀ y ∈ s.mon.conditions, y.code = x.code → y.latched = true) : t.stopLatched = true := by
  obtain ⟨b, hm⟩ := h.latched x hx all
  exact List.any_eq_true.2 ⟨_, hm, cause⟩

/-- No class comes into the condition set (R155, R169). -/
theorem Calm.hasClass (h : Calm s t) {c : CondClass} (absent : ∀ m ∈ s.mon.conditions, m.cls ≠ c) :
    Machine.hasClass t.mon.conditions c = false := by
  refine (hasClass_eq_false_iff _ _).2 fun m hm => ?_
  obtain ⟨x, hx, b, rfl⟩ := h.member m hm
  exact absent x hx

/-- No hard cause comes (R22). -/
theorem Calm.hardCause (h : Calm s t) (estop : s.cab.estop.qualified = false)
    (shutdown : ∀ m ∈ s.mon.conditions, m.cls ≠ .shutdown) : t.hardCause = false := by
  rw [State.hardCause, State.estopActive, h.cab, estop, h.hasClass shutdown]
  rfl

theorem Calm.noStandingCause (h : Calm s t) (clear : NoStandingCause s) : NoStandingCause t := by
  obtain ⟨estop, isolate, classes⟩ := clear
  rw [NoStandingCause, h.cab]
  refine ⟨estop, isolate, fun m hm => ?_⟩
  obtain ⟨x, hx, b, rfl⟩ := h.member m hm
  exact classes x hx

theorem hardCause_of_clear (clear : NoStandingCause s) : s.hardCause = false :=
  (Calm.refl s).hardCause clear.1 fun m hm => (clear.2.2 m hm).1

theorem cancelCause_of_clear (clear : NoStandingCause s) : s.cancelCause = false := by
  obtain ⟨-, isolate, classes⟩ := clear
  have stop := (hasClass_eq_false_iff _ _).2 fun m hm => (classes m hm).2.1
  have inhibit := (hasClass_eq_false_iff _ _).2 fun m hm => (classes m hm).2.2
  rw [State.cancelCause, State.isolateActive, isolate, stop, inhibit]
  rfl

end

end Sys2Proof.Machine
end


section
/-! An entry to an engine state, record by record (R1, R2, R12, R127 to R133), and the frame of a transition. -/

namespace Sys2Proof.Machine

section
variable {s t u : State} {st : EngineState}

/-! ### The Monitor and the command set touch neither Sequencer nor Stepper -/

/-- What holds of changes of the Monitor and of causes gone, holds after the Monitor's part of an entry. -/
theorem monitorEntry_keeps {P : State → Prop} (hs : P s) (mon : ∀ t x, P t → P (t.setMon x))
    (gone : ∀ t code, P t → P (reportGone code t)) (st : EngineState) : P (monitorEntry st s) := by
  have halted : P (if st.stalls then s else s.setMon { s.mon with stall := .stopped }) := by
    split
    · exact hs
    · exact mon _ _ hs
  have mask (t : State) (k : Fin 12) (h : P t) : P (maskInput k t) := by
    unfold maskInput
    dsimp only
    split
    · exact gone _ _ (mon _ _ h)
    · exact mon _ _ h
  have masks (l : List (Fin 12)) (t : State) (h : P t) : P (l.foldl
      (fun t k => if t.mon.routing[k].enable && t.mon.routing[k].startMask then maskInput k t else t) t) := by
    induction l generalizing t with
    | nil => exact h
    | cons k l ih =>
      refine ih _ ?_
      dsimp only
      split
      · exact mask _ _ h
      · exact h
  unfold monitorEntry
  dsimp only
  generalize (if st.stalls then s else s.setMon { s.mon with stall := .stopped }) = u at halted
  split
  · exact halted
  · exact masks _ _ (gone _ _ (mon _ _ halted))

theorem monitorEntry_records (st : EngineState) (s : State) : (monitorEntry st s).seq = s.seq
    ∧ (monitorEntry st s).stepper = s.stepper ∧ (monitorEntry st s).ret = s.ret
    ∧ (monitorEntry st s).standingCommands = s.standingCommands :=
  monitorEntry_keeps (P := fun t => t.seq = s.seq ∧ t.stepper = s.stepper ∧ t.ret = s.ret
    ∧ t.standingCommands = s.standingCommands) ⟨rfl, rfl, rfl, rfl⟩ (fun _ _ h => h)
    (fun t code h => by
      have quiet := (Quiet.refl t).reportGone code
      obtain ⟨seq, stepper, ret, commands⟩ := h
      refine ⟨quiet.seq.trans seq, quiet.stepper.trans stepper, quiet.ret.trans ret, Eq.trans ?_ commands⟩
      unfold State.standingCommands
      rw [quiet.ret, quiet.out]) st

theorem commandSet_records (c : CommandSet) (s : State) : (commandSet c s).stepper = s.stepper
    ∧ (commandSet c s).ret = { s.ret with fuelLatch := c.fuel } ∧ (commandSet c s).standingCommands = c := by
  have prove (o a b) (t : State) (h : t.stepper = s.stepper ∧ t.ret = { s.ret with fuelLatch := c.fuel } ∧ t.standingCommands = c) :
      (proveCommand o a b t).stepper = s.stepper ∧ (proveCommand o a b t).ret = { s.ret with fuelLatch := c.fuel }
        ∧ (proveCommand o a b t).standingCommands = c := by
    obtain ⟨p, quiet⟩ := proveCommand_frame o a b t
    obtain ⟨stepper, ret, commands⟩ := h
    refine ⟨quiet.stepper.trans (Eq.trans rfl stepper), quiet.ret.trans (Eq.trans rfl ret), Eq.trans ?_ commands⟩
    unfold State.standingCommands
    rw [quiet.ret, quiet.out]
    cases o <;> rfl
  rw [commandSet_eq]
  exact prove _ _ _ _ (prove _ _ _ _ (prove _ _ _ _ ⟨rfl, rfl, rfl⟩))

/-! ### The Stepper at an entry -/

/-- The setpoint derived afresh (R133). -/
theorem deriveSetpoint_stepper (s : State) : (deriveSetpoint s).stepper =
    { s.stepper with setpoint := setpointOf s.params s.stepper.notch s.seq.state } := by
  unfold deriveSetpoint
  dsimp only
  split
  · next same => rw [same]
  split
  · next some =>
    rw [portMark, portGrant_stepper, some]
    rfl
  · next none => rw [none]; rfl

/-- A notch set that is another one (R127). -/
theorem setNotch_stepper {n : Nat} (other : n ≠ s.stepper.notch) : (setNotch n s).stepper =
    { s.stepper with notch := n, setpoint := setpointOf s.params n s.seq.state } := by
  unfold setNotch
  rw [if_neg other, markStatus_eq]
  exact deriveSetpoint_stepper _

/-- The notch is set and the setpoint derived afresh. -/
theorem deriveSetpoint_setNotch_stepper (n : Nat) (s : State) : (deriveSetpoint (setNotch n s)).stepper =
    { s.stepper with notch := n, setpoint := setpointOf s.params n s.seq.state } := by
  rw [deriveSetpoint_stepper, ((Stepped.refl s).setNotch n).params, ((Stepped.refl s).setNotch n).seq]
  by_cases same : n = s.stepper.notch
  · rw [setNotch, if_pos same, same]
  · rw [setNotch_stepper same]

/-- A fresh dwell count reaches no dwell time but 0 (R129, R130). -/
theorem examineStep_fresh (dwell : s.stepper.dwell.count = 0) (up : s.stepper.notch < s.effectiveTarget → s.params.dwellUp ≠ 0)
    (down : s.effectiveTarget < s.stepper.notch → s.params.dwellDown ≠ 0) : examineStep s = s := by
  unfold examineStep
  split
  · split
    · next above => exact if_neg (by rw [dwell]; have := up above; omega)
    split
    · next below => exact if_neg (by rw [dwell]; have := down below; omega)
    · rfl
  · rfl

theorem examineStep_of_steady (steady : s.seq.state.steps = false) : examineStep s = s := if_neg (by simp [steady])

/-- The notch with which a state is entered (R132). -/
def EngineState.entryNotch (st : EngineState) (n : Nat) : Nat := if st = .stopping then 0 else n

/-- The Stepper at an entry before the examination (R129, R132, R133). -/
def State.stepperAt (s : State) (st : EngineState) : Stepper :=
  ⟨st.entryNotch s.stepper.notch, if st.steps then .restarted else .halted, setpointOf s.params (st.entryNotch s.stepper.notch) st⟩

/-- Before the examination the Stepper stands as the state entered has it. -/
theorem stepperEntry_eq (st : EngineState) (s : State) (state : s.seq.state = st) : ∃ u, stepperEntry st s = examineStep u
    ∧ Stepped s u ∧ u.stepper = s.stepperAt st := by
  unfold stepperEntry
  dsimp only
  generalize hd : (if st.steps then Dwell.restarted else Dwell.halted) = d
  refine ⟨_, rfl, ?_, ?_⟩
  · exact Stepped.deriveSetpoint (Stepped.ite (((Stepped.refl s).setStepper _).setNotch 0) ((Stepped.refl s).setStepper _))
  · unfold State.stepperAt EngineState.entryNotch
    rw [hd]
    split
    · next stopping =>
      rw [deriveSetpoint_setNotch_stepper, ← state]
      rfl
    · rw [deriveSetpoint_stepper, ← state]
      rfl

theorem stepperEntry_of_steady (steady : st.steps = false) (state : s.seq.state = st) : (stepperEntry st s).stepper = s.stepperAt st := by
  obtain ⟨u, eq, stepped, stepper⟩ := stepperEntry_eq st s state
  rw [eq, examineStep_of_steady (by rw [stepped.seq, state, steady]), stepper]

/-- With dwell times that are not 0 no step is taken at the entry (R129; log 11). -/
theorem stepperEntry_of_slow (slow : st.steps = true) (state : s.seq.state = st) (down : s.stepper.notch ≠ 0 → s.params.dwellDown ≠ 0)
    (up : st = .online → s.params.dwellUp ≠ 0) : (stepperEntry st s).stepper = s.stepperAt st := by
  obtain ⟨u, eq, stepped, stepper⟩ := stepperEntry_eq st s state
  have notStopping : st ≠ .stopping := by rintro rfl; cases slow
  have notch : u.stepper.notch = s.stepper.notch := by rw [stepper]; exact if_neg notStopping
  have dwell : u.stepper.dwell.count = 0 := by
    rw [stepper]
    show (if st.steps then Dwell.restarted else Dwell.halted).count = 0
    rw [slow]
    rfl
  have state' : u.seq.state = st := by rw [stepped.seq, state]
  rw [eq, examineStep_fresh dwell ?_ ?_, stepper]
  · intro above
    rw [stepped.params]
    refine up ?_
    by_contra other
    rw [State.effectiveTarget, state', if_neg other] at above
    exact Nat.not_lt_zero _ above
  · intro below
    rw [stepped.params]
    exact down (by rw [← notch]; omega)

/-! ### The records after an entry -/

theorem entryBase_seq (st : EngineState) (s : State) :
    (entryBase st s).seq = { s.seq with state := st, stateTimer := 0, fireConfirm := .stopped } := by
  rw [entryBase_eq, (monitorEntry_records st _).1, commandSet_seq, (entered_seq st s).1]

theorem entryBase_ret (st : EngineState) (s : State) :
    (entryBase st s).ret = { s.ret with fuelLatch := (st.commands s.ret.fuelLatch).fuel } := by
  rw [entryBase_eq, (monitorEntry_records st _).2.2.1, (commandSet_records _ _).2.1, (entered_keeps st s).2.2.2.1]

theorem entryBase_commands (st : EngineState) (s : State) :
    (entryBase st s).standingCommands = st.commands s.ret.fuelLatch := by
  rw [entryBase_eq, (monitorEntry_records st _).2.2.2, (commandSet_records _ _).2.2, (entered_keeps st s).2.2.2.1]

theorem entryBase_stepper (st : EngineState) (s : State) :
    (entryBase st s).stepper = (stepperEntry st (entryTold st s)).stepper := by
  rw [entryBase_eq, (monitorEntry_records st _).2.1, (commandSet_records _ _).1]

theorem entryTold_stepperAt (st : EngineState) (s : State) : (entryTold st s).stepperAt st = s.stepperAt st := by
  obtain ⟨-, -, -, -, stepper, -, -, -, -, -, params, -⟩ := entryTold_keeps st s
  unfold State.stepperAt
  rw [stepper, params]

theorem entryBase_stepper_steady (steady : st.steps = false) (s : State) : (entryBase st s).stepper = s.stepperAt st := by
  rw [entryBase_stepper, stepperEntry_of_steady steady (by rw [(entryTold_keeps st s).1]), entryTold_stepperAt]

theorem entryBase_stepper_slow (slow : st.steps = true) (down : s.stepper.notch ≠ 0 → s.params.dwellDown ≠ 0)
    (up : st = .online → s.params.dwellUp ≠ 0) : (entryBase st s).stepper = s.stepperAt st := by
  obtain ⟨seq, -, -, -, stepper, -, -, -, -, -, params, -⟩ := entryTold_keeps st s
  rw [entryBase_stepper, stepperEntry_of_slow slow (by rw [seq]) (by rw [stepper, params]; exact down) (by rw [params]; exact up),
    entryTold_stepperAt]

theorem monitorEntry_only (st : EngineState) (s : State) : Only deedParts s (monitorEntry st s) := by
  have halted : Only deedParts s (if st.stalls then s else s.setMon { s.mon with stall := .stopped }) := by
    refine Only.ite (Only.refl s) fun p outside => ?_
    cases p <;> simp [deedParts] at outside <;> rfl
  have mask (t : State) (k : Fin 12) : Only deedParts t (maskInput k t) := by
    unfold maskInput
    dsimp only
    have masked : Only deedParts t (t.setMon { t.mon with
        inputs := t.mon.inputs.set k { t.mon.inputs[k] with stability := .stopped, active := false } }) := by
      intro p outside
      cases p <;> simp [deedParts] at outside <;> rfl
    exact Only.ite (masked.trans ((Quiet.refl _).reportGone _).deed) masked
  unfold monitorEntry
  dsimp only
  generalize (if st.stalls then s else s.setMon { s.mon with stall := .stopped }) = u at halted
  have phased : Only deedParts u (u.setMon { u.mon with runPhase := .notRun, grace := .stopped }) := by
    intro p outside
    cases p <;> simp [deedParts] at outside <;> rfl
  refine Only.ite halted ((halted.trans phased).trans (((Quiet.refl _).reportGone codeLowOil).deed.trans ?_))
  exact Only.foldl (fun t k h => Only.ite (h.trans (mask t k)) h) _ (Only.refl _)

theorem entryBase_only (st : EngineState) (s : State) : Only deedParts s (entryBase st s) := by
  rw [entryBase_eq]
  exact (((entryTold_only st s).trans ((Stepped.refl _).stepperEntry st).deed).trans (commandSet_only _ _)).trans (monitorEntry_only st _)

/-! ### What every entry does (R1, R2, R12, R105) -/

theorem calm_entryTold_on (st : EngineState) (s : State) : Calm (entryTold st s) (entryBase st s) := by
  rw [entryBase_eq]
  exact (((Calm.refl _).stepperEntry st).commandSet _).monitorEntry st

theorem entered_entryBase (st : EngineState) (s : State) : Entered st s (entryBase st s) := by
  have calm := calm_entryTold_on st s
  refine ⟨by rw [entryBase_seq], by rw [entryBase_seq], by rw [entryBase_seq], entryBase_commands st s,
    fun enabled => calm.marked ?_, fun calls => calm.again ?_, fun outside => calm.delay ?_⟩
  · unfold entryTold
    dsimp only
    rw [passTrigger_eq, markStatus_eq]
    split <;> simp [State.setLink, State.setSeq, State.setAlloc, enabled]
  · unfold entryTold
    dsimp only
    rw [passTrigger_eq, markStatus_eq]
    obtain phase | phase := calls <;> split <;> simp [State.setLink, State.setSeq, State.setAlloc, phase]
  · unfold entryTold
    dsimp only
    rw [if_neg outside]
    rfl

/-- An entry is one from an earlier station too, when it has the same transmitter and phase. -/
theorem Entered.back (h : Entered st u t) (enabled : u.link.txEnabled = s.link.txEnabled) (phase : u.alloc.phase = s.alloc.phase)
    (notInit : st ≠ .init) : Entered st s t := by
  obtain ⟨state, timer, confirm, commands, marked, again, delay⟩ := h
  rw [enabled] at marked
  rw [phase] at again
  refine ⟨state, timer, confirm, commands.trans ?_, marked, again, delay⟩
  cases st <;> first | rfl | exact absurd rfl notInit

/-- An entry stands under changes that keep the Sequencer, the commands, marks and calls. -/
theorem Entered.onward (h : Entered st s t) (calm : Calm t u) (seq : u.seq.state = t.seq.state ∧ u.seq.stateTimer = t.seq.stateTimer
    ∧ u.seq.fireConfirm = t.seq.fireConfirm) (commands : u.standingCommands = t.standingCommands) : Entered st s u := by
  obtain ⟨state, timer, confirm, driven, marked, again, delay⟩ := h
  exact ⟨seq.1.trans state, seq.2.1.trans timer, seq.2.2.trans confirm, commands.trans driven, fun e => calm.marked (marked e),
    fun c => calm.again (again c), fun o => calm.delay (delay o)⟩

end

/-! ### The frame of a transition -/

/-- The parts that R1 to R27 hand on to, and the two timers and the need flags that single events may change. -/
abbrev handedParts : List Part := .rest :: .minRun :: .needs :: deedParts

section
variable {r : Scope} {s t : State}

theorem viewKept (o : Only handedParts s t) : t.view = s.view := by
  have peers : t.view.peers = s.view.peers := o .peers (by simp [deedParts])
  have seen : t.view.everSeen = s.view.everSeen := o .everSeen (by simp [deedParts])
  have alone : t.view.alone = s.view.alone := o .alone (by simp [deedParts])
  have frozen : t.view.sFrozen = s.view.sFrozen := o .sFrozen (by simp [deedParts])
  have tally : t.view.tally = s.view.tally := o .tally (by simp [deedParts])
  show (⟨t.view.peers, t.view.everSeen, t.view.alone, t.view.sFrozen, t.view.tally⟩ : ConsistView) = s.view
  rw [peers, seen, alone, frozen, tally]

theorem loadKept (o : Only handedParts s t) : t.load = s.load := by
  have straps : (t.load.station, t.load.linkRate, t.load.resetKind) = (s.load.station, s.load.linkRate, s.load.resetKind) :=
    o .straps (by simp [deedParts])
  have windows : (t.load.runningWindows, t.ret.minutes) = (s.load.runningWindows, s.ret.minutes) := o .windows (by simp [deedParts])
  have hours : (t.load.hours, t.ret.shadow) = (s.load.hours, s.ret.shadow) := o .hours (by simp [deedParts])
  have config : (t.params, t.mon.routing, t.alloc.powerSteps, t.load.markerFault)
    = (s.params, s.mon.routing, s.alloc.powerSteps, s.load.markerFault) := o .config (by simp [deedParts])
  have record : t.load.startRecord = s.load.startRecord := o .startRecord (by simp [deedParts])
  have progress : t.load.progress = s.load.progress := o .progress (by simp [deedParts])
  have image : t.load.image = s.load.image := o .image (by simp [deedParts])
  simp only [Prod.mk.injEq] at straps windows hours config
  cases ht : t.load
  cases hs : s.load
  simp_all

theorem linkKept (o : Only handedParts s t) :
    t.link = { s.link with claimSlot := t.link.claimSlot, statusMarked := t.link.statusMarked } := by
  have line : (t.link.line, t.link.releasedBits) = (s.link.line, s.link.releasedBits) := o .line (by simp [deedParts])
  have sending : t.link.sending = s.link.sending := o .sending (by simp [deedParts])
  have enabled : t.link.txEnabled = s.link.txEnabled := o .txEnabled (by simp [deedParts])
  have disable : t.link.disablePending = s.link.disablePending := o .disablePending (by simp [deedParts])
  have errors : (t.link.bitErrors, t.link.linkFault) = (s.link.bitErrors, s.link.linkFault) := o .bitErrors (by simp [deedParts])
  have holdOff : (t.link.granted, t.link.holdOff) = (s.link.granted, s.link.holdOff) := o .holdOff (by simp [deedParts])
  have heartbeat : t.link.heartbeat = s.link.heartbeat := o .heartbeat (by simp [deedParts])
  have first : t.link.firstHeartbeat = s.link.firstHeartbeat := o .firstHeartbeat (by simp [deedParts])
  have spacing : t.link.spacing = s.link.spacing := o .spacing (by simp [deedParts])
  have reply : t.link.replySlot = s.link.replySlot := o .replySlot (by simp [deedParts])
  have buffers : t.link.buffers = s.link.buffers := o .buffers (by simp [deedParts])
  have filling : (t.link.filling, t.link.intoNothing) = (s.link.filling, s.link.intoNothing) := o .filling (by simp [deedParts])
  have free : t.link.freeList = s.link.freeList := o .freeList (by simp [deedParts])
  have post : t.link.postList = s.link.postList := o .postList (by simp [deedParts])
  have applying : t.link.applying = s.link.applying := o .applying (by simp [deedParts])
  have draining : t.link.draining = s.link.draining := o .draining (by simp [deedParts])
  have left : t.link.drainLeft = s.link.drainLeft := o .drainLeft (by simp [deedParts])
  have taken : t.link.headTaken = s.link.headTaken := o .headTaken (by simp [deedParts])
  simp only [Prod.mk.injEq] at line errors holdOff filling
  dsimp only
  rw [← line.1, ← line.2, ← sending, ← enabled, ← disable, ← errors.1, ← errors.2, ← holdOff.1, ← holdOff.2, ← heartbeat,
    ← first, ← spacing, ← reply, ← buffers, ← filling.1, ← filling.2, ← free, ← post, ← applying, ← draining, ← left, ← taken]

theorem allocKept (o : Only handedParts s t) :
    t.alloc = { s.alloc with reEvaluate := t.alloc.reEvaluate, stopDelay := t.alloc.stopDelay } := by
  have phase : t.alloc.phase = s.alloc.phase := o .phase (by simp [deedParts])
  have listen : t.alloc.listen = s.alloc.listen := o .listen (by simp [deedParts])
  have evaluation : t.alloc.evaluation = s.alloc.evaluation := o .evaluation (by simp [deedParts])
  have results : t.alloc.results = s.alloc.results := o .results (by simp [deedParts])
  have snapshot : t.alloc.snapshot = s.alloc.snapshot := o .snapshot (by simp [deedParts])
  have config : (t.params, t.mon.routing, t.alloc.powerSteps, t.load.markerFault)
    = (s.params, s.mon.routing, s.alloc.powerSteps, s.load.markerFault) := o .config (by simp [deedParts])
  simp only [Prod.mk.injEq] at config
  dsimp only
  rw [← phase, ← listen, ← evaluation, ← results, ← snapshot, ← config.2.2.1]

theorem claimKept (o : Only handedParts s t) : t.claim = { s.claim with
    holder := t.claim.holder, recovery := t.claim.recovery, phase := t.claim.phase, attempt := t.claim.attempt
    settle := t.claim.settle, clock := t.claim.clock, needStands := t.claim.needStands } := by
  have lease : t.claim.lease = s.claim.lease := o .lease (by simp [deedParts])
  have mark : t.claim.foreignMark = s.claim.foreignMark := o .foreignMark (by simp [deedParts])
  have heat : (t.claim.heat, t.claim.heatTimer) = (s.claim.heat, s.claim.heatTimer) := o .heat (by simp [deedParts])
  simp only [Prod.mk.injEq] at heat
  dsimp only
  rw [← lease, ← mark, ← heat.1, ← heat.2]

theorem portKept (o : Only handedParts s t) : t.port = { s.port with
    pendConfigRead := t.port.pendConfigRead, pendSetpointWrite := t.port.pendSetpointWrite
    pendHoursWrite := t.port.pendHoursWrite, pendStatusRead := t.port.pendStatusRead
    nextConfigRead := t.port.nextConfigRead, inFlight := t.port.inFlight, buffer := t.port.buffer, refresh := t.port.refresh } := by
  have report : (t.port.report, t.port.governorFault, t.port.badReads, t.port.goodReads)
    = (s.port.report, s.port.governorFault, s.port.badReads, s.port.goodReads) := o .report (by simp [deedParts])
  have timer : t.port.statusTimer = s.port.statusTimer := o .statusTimer (by simp [deedParts])
  simp only [Prod.mk.injEq] at report
  dsimp only
  rw [← report.1, ← report.2.1, ← report.2.2.1, ← report.2.2.2, ← timer]

theorem monKept (o : Only handedParts s t) : t.mon = { s.mon with
    runPhase := t.mon.runPhase, grace := t.mon.grace, stall := t.mon.stall, derate := t.mon.derate
    capacity := t.mon.capacity, inputs := t.mon.inputs, conditions := t.mon.conditions } := by
  have coolant : t.mon.coolant = s.mon.coolant := o .coolant (by simp [deedParts])
  have oil : t.mon.oil = s.mon.oil := o .oil (by simp [deedParts])
  have battery : t.mon.battery = s.mon.battery := o .battery (by simp [deedParts])
  have speed : (t.mon.speed, t.mon.speedYet) = (s.mon.speed, s.mon.speedYet) := o .speed (by simp [deedParts])
  have config : (t.params, t.mon.routing, t.alloc.powerSteps, t.load.markerFault)
    = (s.params, s.mon.routing, s.alloc.powerSteps, s.load.markerFault) := o .config (by simp [deedParts])
  simp only [Prod.mk.injEq] at speed config
  dsimp only
  rw [← coolant, ← oil, ← battery, ← speed.1, ← speed.2, ← config.2.1]

theorem retKept (o : Only handedParts s t) : t.ret = { s.ret with
    fuelLatch := t.ret.fuelLatch, record := t.ret.record, wasRunning := t.ret.wasRunning } := by
  have windows : (t.load.runningWindows, t.ret.minutes) = (s.load.runningWindows, s.ret.minutes) := o .windows (by simp [deedParts])
  have hours : (t.load.hours, t.ret.shadow) = (s.load.hours, s.ret.shadow) := o .hours (by simp [deedParts])
  simp only [Prod.mk.injEq] at windows hours
  dsimp only
  rw [← windows.2, ← hours.2]

theorem feedbackKept (o : Only handedParts s t) : FeedbackKept s t := by
  have feedback : (t.out.crankProving.feedback, t.out.fuelProving.feedback, t.out.prelubeProving.feedback)
    = (s.out.crankProving.feedback, s.out.fuelProving.feedback, s.out.prelubeProving.feedback) := o .feedback (by simp [deedParts])
  simpa only [Prod.mk.injEq] using feedback

theorem paramsKept (o : Only handedParts s t) : t.params = s.params := by
  have config : (t.params, t.mon.routing, t.alloc.powerSteps, t.load.markerFault)
    = (s.params, s.mon.routing, s.alloc.powerSteps, s.load.markerFault) := o .config (by simp [deedParts])
  exact (Prod.mk.inj config).1

/-- What R1 to R27 leave alone, block by block. -/
theorem blocksKept_of_only (o : Only handedParts s t) : BlocksKept s t :=
  ⟨viewKept o, loadKept o, paramsKept o, o .mailbox (by simp [deedParts]), o .queue (by simp [deedParts]), linkKept o, allocKept o,
    claimKept o, portKept o, monKept o, feedbackKept o, retKept o⟩

/-- The Cab Line Unit is left alone, but for the need flags. -/
theorem cabKept (o : Only (.rest :: .minRun :: deedParts) s t) : t.cab = s.cab := by
  have lines : (t.cab.run, t.cab.estop, t.cab.faultReset, t.cab.isolate)
    = (s.cab.run, s.cab.estop, s.cab.faultReset, s.cab.isolate) := o .lines (by simp [deedParts])
  have sampled : (t.cab.sampledCode, t.cab.codeSampledYet) = (s.cab.sampledCode, s.cab.codeSampledYet) := o .sampledCode (by simp [deedParts])
  have stability : t.cab.codeStability = s.cab.codeStability := o .codeStability (by simp [deedParts])
  have qualified : (t.cab.qualifiedCode, t.cab.lastValid) = (s.cab.qualifiedCode, s.cab.lastValid) := o .qualifiedCode (by simp [deedParts])
  have decoder : (t.cab.decoder, t.cab.invalidCode) = (s.cab.decoder, s.cab.invalidCode) := o .decoder (by simp [deedParts])
  have demand : (t.cab.demand, t.cab.source) = (s.cab.demand, s.cab.source) := o .demand (by simp [deedParts])
  have mode : t.cab.mode = s.cab.mode := o .mode (by simp [deedParts])
  have check : t.cab.layoverCheck = s.cab.layoverCheck := o .layoverCheck (by simp [deedParts])
  have needs : (t.cab.coldRun, t.cab.batteryNeed) = (s.cab.coldRun, s.cab.batteryNeed) := o .needs (by simp [deedParts])
  simp only [Prod.mk.injEq] at lines sampled qualified decoder demand needs
  cases ht : t.cab
  cases hs : s.cab
  simp_all

/-- What a chain of deeds leaves alone when it starts no rest or minimum-run timer. -/
theorem Deeds.handed (d : Deeds r s t) (parts : r.parts ⊆ [.rest, .minRun]) : Only handedParts s t := by
  intro p outside
  simp only [List.mem_cons, not_or] at outside
  obtain ⟨rest, minRun, needs, deed⟩ := outside
  refine d.read (fun mem => ?_) deed fun same => absurd same needs
  obtain same | same := List.mem_pair.1 (parts mem)
  · exact rest same
  · exact minRun same

/-- Where no need flag may be cleared the Cab Line Unit is left alone. -/
theorem Deeds.cab (d : Deeds r s t) (parts : r.parts ⊆ [.rest, .minRun]) (plain : ¬ r.clears) : t.cab = s.cab := by
  refine cabKept fun p outside => ?_
  simp only [List.mem_cons, not_or] at outside
  obtain ⟨rest, minRun, deed⟩ := outside
  refine d.read (fun mem => ?_) deed fun _ => plain
  obtain same | same := List.mem_pair.1 (parts mem)
  · exact rest same
  · exact minRun same

/-- The frame of a transition, from its chain of deeds. -/
theorem Deeds.frame (d : Deeds r s t) (parts : r.parts ⊆ [.rest, .minRun]) (plain : ¬ r.clears) : TransitionFrame r.raised s t :=
  ⟨d.cab parts plain, blocksKept_of_only (d.handed parts), d.conditionsBut fun mem => by simpa using parts mem⟩

end

end Sys2Proof.Machine
end


section
/-! The stop path (R6, R18 to R24): the entries to STOPPED, FAULTED, STOPPING, COOLDOWN and UNLOADING, each by what it leaves. -/

namespace Sys2Proof.Machine

section
variable {s t u : State} {left : EngineState} {latched : Bool}

/-! ### STOPPED and FAULTED (R6, R24) -/

/-- The state in which a transition to STOPPED ends (R6). -/
def State.stoppedOrIsolated (s : State) : EngineState := if s.cab.isolate.qualified then .isolated else .stopped

theorem enterStopped_eq (s : State) : enterStopped s
    = entryBase s.stoppedOrIsolated (s.setSeq { s.seq with attempts := 0, stopReason := .none }) := rfl

theorem stoppedOrIsolated_steady (s : State) : s.stoppedOrIsolated.steps = false := by
  unfold State.stoppedOrIsolated
  split <;> rfl

theorem stoppedOrIsolated_dead (s : State) : s.stoppedOrIsolated ≠ .init ∧ s.stoppedOrIsolated ≠ .stopping
    ∧ (s.stoppedOrIsolated.commands s.ret.fuelLatch).fuel = false ∧ ∀ p n, setpointOf p n s.stoppedOrIsolated = none := by
  unfold State.stoppedOrIsolated
  split <;> exact ⟨nofun, nofun, rfl, fun _ _ => rfl⟩

theorem enterStopped_seq (s : State) : (enterStopped s).seq = { s.seq with
    state := s.stoppedOrIsolated, stateTimer := 0, fireConfirm := .stopped, attempts := 0, stopReason := .none } := by
  rw [enterStopped_eq, entryBase_seq]
  rfl

theorem enterStopped_ret (s : State) : (enterStopped s).ret = { s.ret with fuelLatch := false } := by
  rw [enterStopped_eq, entryBase_ret]
  have dead := (stoppedOrIsolated_dead s).2.2.1
  show ({ s.ret with fuelLatch := (s.stoppedOrIsolated.commands s.ret.fuelLatch).fuel } : RetainedStore) = _
  rw [dead]

theorem enterStopped_stepper (s : State) : (enterStopped s).stepper = ⟨s.stepper.notch, .halted, none⟩ := by
  obtain ⟨-, moving, -, setpoint⟩ := stoppedOrIsolated_dead s
  rw [enterStopped_eq, entryBase_stepper_steady (stoppedOrIsolated_steady s), State.stepperAt, setpoint, stoppedOrIsolated_steady,
    EngineState.entryNotch, if_neg moving]
  rfl

theorem calm_enterStopped (s : State) : Calm s (enterStopped s) := ((Calm.refl s).setSeq _).entryBase _

theorem entered_enterStopped (s : State) : Entered s.stoppedOrIsolated s (enterStopped s) :=
  (entered_entryBase _ _).back (s := s) rfl rfl (stoppedOrIsolated_dead s).1

/-- The fault record as FAULTED takes it (R24, R165). -/
def State.faultRecord (s : State) : FaultRecord :=
  ⟨recordCause s.mon.conditions, s.seq.snapshot.state, s.seq.snapshot.speed, s.seq.snapshot.notch, s.load.hours⟩

theorem enterFaulted_eq (s : State) : enterFaulted s = (entryBase .faulted (setStopReason .none s)).setRet
    { (entryBase .faulted (setStopReason .none s)).ret with record := some (entryBase .faulted (setStopReason .none s)).faultRecord } := rfl

theorem enterFaulted_seq (s : State) : (enterFaulted s).seq = { s.seq with
    state := .faulted, stateTimer := 0, fireConfirm := .stopped, stopReason := .none } := by
  rw [enterFaulted_eq, setRet_seq, entryBase_seq]
  rfl

theorem entryBase_load (st : EngineState) (s : State) : (entryBase st s).load = s.load :=
  loadKept fun p outside => entryBase_only st s p fun mem => outside (by simp [mem])

theorem entryBase_params (st : EngineState) (s : State) : (entryBase st s).params = s.params :=
  paramsKept fun p outside => entryBase_only st s p fun mem => outside (by simp [mem])

theorem entryBase_speed (st : EngineState) (s : State) : (entryBase st s).mon.speed = s.mon.speed :=
  congrArg (fun p : Part.speed.Value => p.1) (entryBase_only st s .speed (by simp [deedParts]))

theorem enterFaulted_ret (s : State) : (enterFaulted s).ret = { s.ret with
    fuelLatch := false
    record := some ⟨recordCause (enterFaulted s).mon.conditions, s.seq.snapshot.state, s.seq.snapshot.speed,
      s.seq.snapshot.notch, s.load.hours⟩ } := by
  rw [enterFaulted_eq, setRet_ret, setRet_mon, State.faultRecord, entryBase_ret, entryBase_seq, entryBase_load]
  rfl

theorem enterFaulted_stepper (s : State) : (enterFaulted s).stepper = ⟨s.stepper.notch, .halted, none⟩ := by
  rw [enterFaulted_eq, setRet_stepper, entryBase_stepper_steady rfl]
  rfl

theorem calm_enterFaulted (s : State) : Calm s (enterFaulted s) := by
  rw [enterFaulted_eq]
  exact (((Calm.refl s).setSeq _).entryBase _).setRet _

/-- An entry stands when record and was-running flag are written after it. -/
theorem Entered.setRet {st : EngineState} (h : Entered st s t) (x : RetainedStore) (latch : x.fuelLatch = t.ret.fuelLatch) :
    Entered st s (t.setRet x) := by
  refine h.onward ((Calm.refl t).setRet x) ⟨rfl, rfl, rfl⟩ ?_
  unfold State.standingCommands
  rw [setRet_ret, setRet_out, latch]

theorem entered_enterFaulted (s : State) : Entered .faulted s (enterFaulted s) := by
  rw [enterFaulted_eq]
  have entered := (entered_entryBase .faulted (setStopReason .none s)).back (s := s) rfl rfl nofun
  generalize entryBase .faulted (setStopReason .none s) = u at entered ⊢
  exact entered.setRet _ rfl

/-! ### STOPPING (R22, R23) -/

/-- The station on entry to STOPPING, before its exit is examined. -/
def State.stoppingEntered (s : State) : State :=
  (entryBase .stopping ((takeSnapshot s).setSeq { (takeSnapshot s).seq with resumed := false })).setRet
    { (entryBase .stopping ((takeSnapshot s).setSeq { (takeSnapshot s).seq with resumed := false })).ret with wasRunning := false }

theorem enterStopping_eq (s : State) : enterStopping s = stoppingExit s.stoppingEntered := rfl

theorem stoppingEntered_seq (s : State) : s.stoppingEntered.seq = { s.seq with
    state := .stopping, stateTimer := 0, fireConfirm := .stopped, resumed := false
    snapshot := ⟨s.seq.state, s.mon.speed, s.stepper.notch⟩ } := by
  rw [State.stoppingEntered, setRet_seq, entryBase_seq]
  rfl

theorem stoppingEntered_ret (s : State) : s.stoppingEntered.ret = { s.ret with fuelLatch := false, wasRunning := false } := by
  rw [State.stoppingEntered, setRet_ret, entryBase_ret]
  rfl

theorem stoppingEntered_stepper (s : State) : s.stoppingEntered.stepper = ⟨0, .halted, none⟩ := by
  rw [State.stoppingEntered, setRet_stepper, entryBase_stepper_steady rfl]
  rfl

theorem stoppingEntered_load (s : State) : s.stoppingEntered.load = s.load := by
  rw [State.stoppingEntered, setRet_load, entryBase_load]
  rfl

theorem stoppingEntered_speed (s : State) : s.stoppingEntered.mon.speed = s.mon.speed := by
  rw [State.stoppingEntered, setRet_mon, entryBase_speed]
  rfl

theorem calm_stoppingEntered (s : State) : Calm s s.stoppingEntered := by
  unfold State.stoppingEntered takeSnapshot
  exact ((((Calm.refl s).setSeq _).setSeq _).entryBase _).setRet _

theorem entered_stoppingEntered (s : State) : Entered .stopping s s.stoppingEntered := by
  unfold State.stoppingEntered
  have entered := (entered_entryBase .stopping ((takeSnapshot s).setSeq { (takeSnapshot s).seq with resumed := false })).back
    (s := s) rfl rfl nofun
  generalize entryBase .stopping _ = u at entered ⊢
  exact entered.setRet _ rfl

theorem calm_stoppingExit (s : State) : Calm s (stoppingExit s) :=
  Calm.ite (Calm.ite (calm_enterFaulted s) (calm_enterStopped s)) (Calm.refl s)

theorem calm_enterStopping (s : State) : Calm s (enterStopping s) := (calm_stoppingEntered s).trans (calm_stoppingExit _)

/-- Every entry to STOPPING, by whether a latched stop cause stands at its end (R22 to R24). -/
theorem stopped_enterStopping (s : State) (decides : s.stoppingEntered.stopLatched = latched) :
    Stopped s.seq.state latched s (enterStopping s) := by
  have seq := stoppingEntered_seq s
  have ret := stoppingEntered_ret s
  have stepper := stoppingEntered_stepper s
  have speed := stoppingEntered_speed s
  have calm := calm_stoppingEntered s
  have entered := entered_stoppingEntered s
  have load := stoppingEntered_load s
  rw [enterStopping_eq]
  generalize s.stoppingEntered = v at *
  have decides' : v.mon.conditions.any Member.stopCause = latched := decides
  unfold stoppingExit
  rw [speed, decides']
  by_cases slow : s.mon.speed < Config.stoppedRpm
  · rw [if_pos slow]
    cases latched with
    | true =>
      rw [if_pos rfl]
      have leads : stoppingLeads true s = .faulted := by simp [stoppingLeads, slow]
      rw [Stopped, leads, enterFaulted_seq, enterFaulted_ret, enterFaulted_stepper, seq, ret, stepper, load]
      refine ⟨?_, rfl, rfl, rfl, rfl, rfl, rfl, fun _ => ⟨rfl, rfl⟩, nofun, by simp⟩
      exact (entered_enterFaulted v).back calm.enabled calm.phase nofun
    | false =>
      rw [if_neg nofun]
      have leads : stoppingLeads false s = s.stoppedOrIsolated := by simp [stoppingLeads, slow, State.stoppedOrIsolated]
      have same : v.stoppedOrIsolated = s.stoppedOrIsolated := by rw [State.stoppedOrIsolated, calm.cab]; rfl
      rw [Stopped, leads, enterStopped_seq, enterStopped_ret, enterStopped_stepper, seq, ret, stepper]
      refine ⟨?_, rfl, rfl, rfl, rfl, rfl, rfl, fun faulted => ?_, fun stopping => ?_, fun _ => ⟨rfl, rfl, rfl⟩⟩
      · exact same ▸ (entered_enterStopped v).back calm.enabled calm.phase (stoppedOrIsolated_dead v).1
      · unfold State.stoppedOrIsolated at faulted
        split at faulted <;> cases faulted
      · exact absurd stopping (stoppedOrIsolated_dead s).2.1
  · rw [if_neg slow]
    have leads : stoppingLeads latched s = .stopping := by simp [stoppingLeads, slow]
    rw [Stopped, leads, seq, ret, stepper]
    exact ⟨entered, rfl, rfl, rfl, rfl, rfl, rfl, nofun, fun _ => rfl, by simp⟩

/-- What an entry to STOPPING reads of the station: two stations in which it finds the same. -/
structure SameStop (s u : State) : Prop where
  enabled : u.link.txEnabled = s.link.txEnabled
  phase : u.alloc.phase = s.alloc.phase
  speed : u.mon.speed = s.mon.speed
  notch : u.stepper.notch = s.stepper.notch
  minRun : u.seq.minRun = s.seq.minRun
  hours : u.load.hours = s.load.hours
  record : u.ret.record = s.ret.record
  isolate : u.cab.isolate.qualified = s.cab.isolate.qualified

theorem stoppingLeads_not_init (latched : Bool) (s : State) : stoppingLeads latched s ≠ .init := by
  unfold stoppingLeads
  split
  · split
    · nofun
    · split <;> nofun
  · nofun

theorem Stopped.back (h : Stopped left latched u t) (same : SameStop s u) : Stopped left latched s t := by
  obtain ⟨enabled, phase, speed, notch, minRun, hours, record, isolate⟩ := same
  have leads : stoppingLeads latched u = stoppingLeads latched s := by rw [stoppingLeads, stoppingLeads, speed, isolate]
  obtain ⟨entered, rest⟩ := h
  rw [leads] at entered rest
  rw [speed, notch, minRun, hours, record] at rest
  exact ⟨entered.back enabled phase (stoppingLeads_not_init _ _), rest⟩

/-- What stays after an entry to STOPPING: the Sequencer, the Stepper, the Retained Store, the commands and what names the record's cause. -/
theorem Stopped.onward (h : Stopped left latched s t) (calm : Calm t u) (seq : u.seq = t.seq) (stepper : u.stepper = t.stepper)
    (ret : u.ret = t.ret) (commands : u.standingCommands = t.standingCommands)
    (cause : recordCause u.mon.conditions = recordCause t.mon.conditions) : Stopped left latched s u := by
  obtain ⟨entered, rest⟩ := h
  rw [Stopped, seq, stepper, ret, cause]
  exact ⟨entered.onward calm ⟨by rw [seq], by rw [seq], by rw [seq]⟩ commands, rest⟩

theorem standingCommands_of_quiet (quiet : Quiet t u) : u.standingCommands = t.standingCommands := by
  unfold State.standingCommands
  rw [quiet.ret, quiet.out]

/-- Marks, triggers and ALARM after an entry to STOPPING. -/
theorem Stopped.quiet (h : Stopped left latched s t) (calm : Calm t u) (quiet : Quiet t u)
    (cause : recordCause u.mon.conditions = recordCause t.mon.conditions) : Stopped left latched s u :=
  h.onward calm quiet.seq quiet.stepper quiet.ret (standingCommands_of_quiet quiet) cause

end

end Sys2Proof.Machine
end


section
/-! The own claim at a release and a withdrawal (R118, R122); COOLDOWN and UNLOADING (R18 to R20). -/

namespace Sys2Proof.Machine

section
variable {s t u : State} {st left : EngineState} {latched : Bool}

/-! ### The own claim -/

/-- The stations that differ in the own claim, its slot and the STATUS mark alone. -/
def ClaimOnly (s t : State) : Prop := ∃ claim slot mark,
  t = { s with claim := claim, link := { s.link with claimSlot := slot, statusMarked := mark } }

theorem slotReleasing_eq (s : State) (o : ReleaseOutcome) : offerRelease o s = s.setLink { s.link with
    claimSlot := s.slotReleasing o } := by
  unfold offerRelease State.slotReleasing
  split
  · cases slot : s.link.claimSlot <;> simp only [ClaimSlot.offerRelease, ClaimSlot.releasing]
    rw [← slot]
    rfl
  · rfl

/-- The own claim is given up and a RELEASE takes the slot, with a mark (R122). -/
theorem claimRelease_eq (held : s.claim.phase = .settling ∨ s.claim.phase = .cranking) (o : ReleaseOutcome) :
    claimRelease o s = { s with
      claim := s.claim.givenUp s.params, link := { s.withMark.link with claimSlot := s.slotReleasing o } } := by
  unfold claimRelease
  rw [if_pos (by simpa using held)]
  dsimp only
  rw [slotReleasing_eq, markStatus_eq_withMark]
  rfl

theorem claimRelease_of_free (free : s.claim.phase ≠ .settling ∧ s.claim.phase ≠ .cranking) (o : ReleaseOutcome) :
    claimRelease o s = s := if_neg (by simpa using free)

theorem claimRelease_claimOnly (o : ReleaseOutcome) (s : State) : ClaimOnly s (claimRelease o s) := by
  by_cases held : s.claim.phase = .settling ∨ s.claim.phase = .cranking
  · rw [claimRelease_eq held]
    exact ⟨_, _, _, rfl⟩
  · rw [claimRelease_of_free (not_or.1 held)]
    exact ⟨s.claim, s.link.claimSlot, s.link.statusMarked, rfl⟩

theorem withdrawOffer_eq (stands : Bool) (back : ClaimPhase) (s : State) : withdrawOffer stands back s = { s with
    link := { s.link with claimSlot := s.link.claimSlot.withdraw }
    claim := if s.link.claimSlot.claimIsSending then { s.claim with phase := .lapsed, needStands := stands }
      else { s.claim with phase := back } } := by
  unfold withdrawOffer
  dsimp only
  split <;> rfl

theorem claimWithdrawNeed_claimOnly (s : State) : ClaimOnly s (claimWithdrawNeed s) := by
  unfold claimWithdrawNeed
  split
  · exact ⟨_, s.link.claimSlot, s.link.statusMarked, rfl⟩
  · rw [withdrawOffer_eq]
    exact ⟨_, _, s.link.statusMarked, rfl⟩
  · exact ⟨_, s.link.claimSlot, s.link.statusMarked, rfl⟩
  all_goals exact ⟨s.claim, s.link.claimSlot, s.link.statusMarked, rfl⟩

theorem dropClaim_claimOnly (s : State) : ClaimOnly s (dropClaim s) := by
  unfold dropClaim
  split
  · exact claimWithdrawNeed_claimOnly s
  · exact claimRelease_claimOnly _ s
  · exact claimRelease_claimOnly _ s
  · exact ⟨s.claim, s.link.claimSlot, s.link.statusMarked, rfl⟩

theorem dropClaim_of_claimless (h : s.seq.state ≠ .claimWait ∧ s.seq.state ≠ .claimSettle ∧ s.seq.state ≠ .cranking) :
    dropClaim s = s := by
  unfold dropClaim
  split
  · next e => exact absurd e h.1
  · next e => exact absurd e h.2.1
  · next e => exact absurd e h.2.2
  · rfl

theorem dropClaim_of_held (state : s.seq.state = .claimSettle ∨ s.seq.state = .cranking)
    (held : s.claim.phase = .settling ∨ s.claim.phase = .cranking) : dropClaim s = { s with
      claim := s.claim.givenUp s.params, link := { s.withMark.link with claimSlot := s.slotReleasing .abandoned } } := by
  rw [← claimRelease_eq held]
  obtain e | e := state <;> simp only [dropClaim, e]

theorem dropClaim_of_wanted (state : s.seq.state = .claimWait) (wanted : s.claim.phase = .wanted) :
    dropClaim s = { s with claim := { s.claim with phase := .idle } } := by
  simp only [dropClaim, state, claimWithdrawNeed, wanted]
  rfl

theorem dropClaim_of_offered (state : s.seq.state = .claimWait) (offered : s.claim.phase = .offered) :
    dropClaim s = { s with
      link := { s.link with claimSlot := s.link.claimSlot.withdraw }
      claim := if s.link.claimSlot.claimIsSending then { s.claim with phase := .lapsed, needStands := false }
        else { s.claim with phase := .idle } } := by
  rw [← withdrawOffer_eq]
  simp only [dropClaim, state, claimWithdrawNeed, offered]

theorem ClaimOnly.sameStop (h : ClaimOnly s t) : SameStop s t := by
  obtain ⟨claim, slot, mark, rfl⟩ := h
  exact ⟨rfl, rfl, rfl, rfl, rfl, rfl, rfl, rfl⟩

theorem ClaimOnly.seq (h : ClaimOnly s t) : t.seq = s.seq := by
  obtain ⟨claim, slot, mark, rfl⟩ := h
  rfl

theorem ClaimOnly.mon (h : ClaimOnly s t) : t.mon = s.mon := by
  obtain ⟨claim, slot, mark, rfl⟩ := h
  rfl

theorem ClaimOnly.cab (h : ClaimOnly s t) : t.cab = s.cab := by
  obtain ⟨claim, slot, mark, rfl⟩ := h
  rfl

theorem ClaimOnly.ret (h : ClaimOnly s t) : t.ret = s.ret := by
  obtain ⟨claim, slot, mark, rfl⟩ := h
  rfl

/-! ### STOPPING with the claim given up (R22) -/

/-- The stop cause that decides at STOPPING is the one that stands now: by R157, or by a member that stays. -/
def StopDecided (s : State) (latched : Bool) : Prop := ∀ t, Calm s t → t.stopLatched = latched

theorem stopDecided_of_law (law : ConditionLaw s) : StopDecided s s.stopLatched := fun _ calm => calm.stopLatched law

theorem stopDecided_of_member {x : Member} (hx : x ∈ s.mon.conditions) (cause : x.stopCause = true)
    (all : ∀ y ∈ s.mon.conditions, y.code = x.code → y.latched = true) : StopDecided s true :=
  fun _ calm => calm.stopLatched_of_member hx cause all

theorem StopDecided.calm (h : StopDecided s latched) (calm : Calm s t) : StopDecided t latched := fun _ k => h _ (calm.trans k)

/-- What decides is read from the condition set alone. -/
theorem stopDecided_congr (h : StopDecided s latched) (conditions : t.mon.conditions = s.mon.conditions) : StopDecided t latched := by
  intro v calm
  have again : Calm s (s.setConditions v.mon.conditions) :=
    ⟨rfl, rfl, rfl, rfl, rfl, id, id, id, fun m hm => conditions ▸ calm.member m hm,
      fun x hx all => calm.latched x (conditions ▸ hx) (conditions ▸ all)⟩
  exact (h _ again : (s.setConditions v.mon.conditions).stopLatched = latched)

theorem stopped_of_decided (h : StopDecided s latched) : Stopped s.seq.state latched s (enterStopping s) :=
  stopped_enterStopping s (h _ (calm_stoppingEntered s))

theorem stopped_goStopping (h : StopDecided s latched) : Stopped s.seq.state latched s (goStopping s) := by
  have drop := dropClaim_claimOnly s
  unfold goStopping
  have stopped := stopped_of_decided (stopDecided_congr h (t := dropClaim s) (by rw [drop.mon]))
  rw [drop.seq] at stopped
  exact stopped.back drop.sameStop

/-- The own claim after STOPPING is what the giving up left of it. -/
theorem goStopping_claim (s : State) : (goStopping s).claim = (dropClaim s).claim
    ∧ (goStopping s).link.claimSlot = (dropClaim s).link.claimSlot := by
  unfold goStopping
  exact ⟨(calm_enterStopping _).claim, (calm_enterStopping _).slot⟩

/-! ### Stations on the stop path with no hard cause (R18 to R20) -/

/-- No hard cause stands, and the stop reason is no ALLOCATION that ISOLATE or a STOP condition replaces (R4, R18; log 13). -/
structure Unhurried (s : State) : Prop where
  estop : s.cab.estop.qualified = false
  shutdown : ∀ m ∈ s.mon.conditions, m.cls ≠ .shutdown
  reason : s.seq.stopReason ≠ .allocation ∨ NoStandingCause s

theorem Unhurried.calm (h : Unhurried s) (calm : Calm s t) (reason : t.seq.stopReason = s.seq.stopReason) : Unhurried t := by
  refine ⟨by rw [calm.cab]; exact h.estop, fun m hm => ?_, h.reason.imp (fun other => by rw [reason]; exact other) calm.noStandingCause⟩
  obtain ⟨x, hx, b, rfl⟩ := calm.member m hm
  exact h.shutdown x hx

theorem Unhurried.hardCause (h : Unhurried s) : s.hardCause = false := (Calm.refl s).hardCause h.estop h.shutdown

theorem Unhurried.replaceAllocationReason (h : Unhurried s) : replaceAllocationReason s = s := by
  unfold Machine.replaceAllocationReason
  split
  · next allocation =>
    obtain ⟨-, isolate, classes⟩ := h.reason.resolve_left (not_not.2 allocation)
    have stop := (hasClass_eq_false_iff _ _).2 fun m hm => (classes m hm).2.1
    rw [if_neg (by simp [State.isolateActive, isolate]), if_neg (by simp [stop])]
  · rfl

theorem entryBase_unhurried (h : Unhurried s) (st : EngineState) : Unhurried (entryBase st s) :=
  h.calm ((Calm.refl s).entryBase st) (by rw [entryBase_seq])

theorem sameStop_entryBase (s : State) (steady : st.steps = false) (moving : st ≠ .stopping) : SameStop s (entryBase st s) := by
  have calm := (Calm.refl s).entryBase st
  refine ⟨calm.enabled, calm.phase, entryBase_speed st s, ?_, by rw [entryBase_seq], by rw [entryBase_load], by rw [entryBase_ret],
    by rw [calm.cab]⟩
  rw [entryBase_stepper_steady steady]
  exact if_neg moving

/-- COOLDOWN with a cooldown time of its own (R20). -/
theorem enterCooldown_waits (h : Unhurried s) (time : s.params.cooldown ≠ 0) : enterCooldown s = entryBase .cooldown s := by
  have entered := entryBase_unhurried h .cooldown
  unfold enterCooldown
  dsimp only
  rw [if_neg (by simp [entered.hardCause]), entered.replaceAllocationReason, if_neg (by rw [entryBase_params]; exact time)]

/-- COOLDOWN with a cooldown time of 0 goes on to STOPPING (R20). -/
theorem enterCooldown_stops (h : Unhurried s) (time : s.params.cooldown = 0) :
    enterCooldown s = enterStopping (entryBase .cooldown s) := by
  have entered := entryBase_unhurried h .cooldown
  unfold enterCooldown
  dsimp only
  rw [if_neg (by simp [entered.hardCause]), entered.replaceAllocationReason, if_pos (by rw [entryBase_params]; exact time)]

theorem stopped_enterCooldown (h : Unhurried s) (time : s.params.cooldown = 0) (decided : StopDecided s latched) :
    Stopped .cooldown latched s (enterCooldown s) := by
  rw [enterCooldown_stops h time]
  have stopped := stopped_of_decided (decided.calm ((Calm.refl s).entryBase .cooldown))
  rw [show (entryBase .cooldown s).seq.state = .cooldown by rw [entryBase_seq]] at stopped
  exact stopped.back (sameStop_entryBase s rfl nofun)

theorem calm_enterCooldown (h : Unhurried s) : Calm s (enterCooldown s) := by
  by_cases time : s.params.cooldown = 0
  · rw [enterCooldown_stops h time]
    exact ((Calm.refl s).entryBase _).trans (calm_enterStopping _)
  · rw [enterCooldown_waits h time]
    exact (Calm.refl s).entryBase _

/-- UNLOADING with a notch to shed (R19): no step is taken at the entry itself (log 11). -/
theorem enterUnloading_sheds (h : Unhurried s) (notch : s.stepper.notch ≠ 0) (dwell : s.params.dwellDown ≠ 0) :
    enterUnloading s = entryBase .unloading s := by
  have entered := entryBase_unhurried h .unloading
  have stepper : (entryBase .unloading s).stepper = s.stepperAt .unloading := entryBase_stepper_slow rfl (fun _ => dwell) nofun
  unfold enterUnloading
  dsimp only
  rw [if_neg (by simp [entered.hardCause]), entered.replaceAllocationReason, if_neg (by rw [stepper]; exact notch)]

/-- UNLOADING with nothing to shed goes on to COOLDOWN (R19). -/
theorem enterUnloading_empty (h : Unhurried s) (notch : s.stepper.notch = 0) :
    enterUnloading s = enterCooldown (entryBase .unloading s) := by
  have entered := entryBase_unhurried h .unloading
  have stepper : (entryBase .unloading s).stepper = s.stepperAt .unloading :=
    entryBase_stepper_slow rfl (fun some => absurd notch some) nofun
  unfold enterUnloading
  dsimp only
  rw [if_neg (by simp [entered.hardCause]), entered.replaceAllocationReason, if_pos (by rw [stepper]; exact notch)]

end

end Sys2Proof.Machine
end


section
/-! The qualifications of ESTOP, ISOLATE and FAULT_RESET (R31 to R33) at the Sequencer. -/

namespace Sys2Proof.Machine

section
variable {s t u : State}

/-! ### The qualification of a line (R29) -/

/-- The station with the sampled level of a line qualified. -/
def State.withLine (s : State) (line : CabLine) : State := s.setCab (s.cab.setLine line (s.cab.line line).nowQualified)

theorem after_lineQualification {line : CabLine} (running : (s.cab.line line).stability.isRunning = true)
    (new : (s.cab.line line).qualifiedYet = false ∨ (s.cab.line line).sampled ≠ (s.cab.line line).qualified) :
    s.after (.cabLineQualification line) = lineQualified line (!(s.cab.line line).qualifiedYet) (s.withLine line) := by
  have qualifies := (qualifies_iff (s.cab.line line)).2 new
  simp only [State.after, exec, execCabLineQualification, running, qualifies, if_true]
  rfl

/-! ### A chain of entries from here -/

/-- The scope of a transition that no condition raises. -/
abbrev Scope.plain : Scope := ⟨[], true, []⟩

theorem Deeds.plain (s : State) : Deeds .plain s s := Deeds.refl s (.inl rfl)

theorem Scope.plain_clears : ¬ Scope.plain.clears := by
  unfold Scope.clears Scope.codes
  decide

theorem Deeds.plainFrame (d : Deeds .plain s t) : TransitionFrame [] s t := d.frame (List.nil_subset _) Scope.plain_clears

/-- A mark and a trigger after a transition hand it on as it is. -/
theorem quiet_told (s : State) : Quiet s (markStatus (passTrigger s)) := (Quiet.refl s).passTrigger.markStatus

theorem calm_told (s : State) : Calm s (markStatus (passTrigger s)) := (Calm.refl s).passTrigger.markStatus

theorem told_conditions (s : State) : (markStatus (passTrigger s)).mon.conditions = s.mon.conditions := by
  rw [markStatus_eq, passTrigger_eq]
  rfl

theorem markStatus_passTrigger (s : State) : markStatus (passTrigger s)
    = { s with link := s.withMark.link, alloc := s.withTrigger.alloc } := by
  rw [markStatus_eq_withMark, passTrigger_eq_withTrigger]
  rfl

/-! ### ESTOP (R31) -/

theorem estopQualified_stops (asserted : s.cab.estop.qualified = true) (active : s.seq.state.active = true) :
    estopQualified s = markStatus (passTrigger (goStopping s)) := by
  unfold estopQualified hardAppears
  rw [if_pos asserted, if_pos active]

theorem estopQualified_tells (still : s.cab.estop.qualified = false ∨ s.seq.state.active = false) :
    estopQualified s = markStatus (passTrigger s) := by
  unfold estopQualified hardAppears
  obtain released | inactive := still
  · rw [if_neg (by simp [released])]
  · rw [if_neg (c := s.seq.state.active = true) (by simp [inactive]), ite_self]

/-- The own claim after ESTOP in a state from PRELUBE to COOLDOWN (R14, R22, R118). -/
theorem told_goStopping_claim (s : State) : (markStatus (passTrigger (goStopping s))).claim = (dropClaim s).claim
    ∧ (markStatus (passTrigger (goStopping s))).link.claimSlot = (dropClaim s).link.claimSlot := by
  have calm := calm_told (goStopping s)
  rw [calm.claim, calm.slot]
  exact goStopping_claim s

theorem slotReleasing_congr (o : ReleaseOutcome) (link : t.link = s.link) : t.slotReleasing o = s.slotReleasing o := by
  rw [State.slotReleasing, State.slotReleasing, link]

end

/-- Settles O37: asserted in an active state ESTOP stops the engine with its claim given up; else it is a trigger and a mark. -/
theorem estopStopsTheEngine : Obligations.EstopStopsTheEngine := by
  intro s q r running new law
  have after : s.after (.cabLineQualification .estop) = lineQualified .estop (!q.qualifiedYet) r := after_lineQualification running new
  have sampled : r.cab.estop.qualified = q.sampled := rfl
  refine ⟨fun released first => ⟨_, exec_eq_after _ _, ?_⟩, fun told => ⟨_, exec_eq_after _ _, ?_⟩,
    fun asserted active => ⟨_, exec_eq_after _ _, ?_⟩⟩
  · rw [after]
    exact if_pos (by simp [first, sampled, released])
  · have still : r.cab.estop.qualified = false ∨ r.seq.state.active = false := by
      obtain ⟨released, -⟩ | ⟨-, state⟩ := told
      · exact .inl released
      · right
        have listed : s.seq.state ∈ [.init, .isolated, .stopped, .stopping, .faulted] := state
        show s.seq.state.active = false
        generalize s.seq.state = x at listed
        revert x
        decide
    have handed : ¬ (!q.qualifiedYet && !r.cab.estop.qualified) = true := by
      obtain ⟨-, yet⟩ | ⟨asserted, -⟩ := told
      · simp [yet]
      · simp [sampled, asserted]
    rw [after]
    refine (if_neg handed).trans ?_
    rw [estopQualified_tells still, markStatus_passTrigger]
    rfl
  · have stops : s.after (.cabLineQualification .estop) = markStatus (passTrigger (goStopping r)) := by
      rw [after]
      refine (if_neg (by simp [sampled, asserted])).trans (estopQualified_stops (sampled.trans asserted) active)
    rw [stops]
    have stopped : Stopped s.seq.state s.stopLatched r (goStopping r) :=
      stopped_goStopping (stopDecided_congr (stopDecided_of_law law) rfl)
    obtain ⟨claim, slot⟩ := told_goStopping_claim r
    refine ⟨stopped.quiet (calm_told _) (quiet_told _) (by rw [told_conditions]),
      (((Deeds.plain r).goStopping rfl).trigger.mark).plainFrame, fun other => ?_, fun state held => ?_, fun state wanted => ?_,
      fun state offered => ⟨fun c pending => ?_, fun c h w sending => ?_⟩⟩
    · rw [claim, slot, dropClaim_of_claimless (s := r) (by simpa using other)]
      exact ⟨rfl, rfl⟩
    · rw [claim, slot, dropClaim_of_held (s := r) state held]
      exact ⟨rfl, slotReleasing_congr _ rfl⟩
    · rw [claim, slot, dropClaim_of_wanted (s := r) state wanted]
      exact ⟨rfl, rfl⟩
    · rw [claim, slot, dropClaim_of_offered (s := r) state offered]
      have pending' : r.link.claimSlot = .claimPending c := pending
      simp only [pending', ClaimSlot.claimIsSending, ClaimSlot.withdraw, Bool.false_eq_true, if_false]
      exact ⟨rfl, trivial⟩
    · rw [claim, slot, dropClaim_of_offered (s := r) state offered]
      have sending' : r.link.claimSlot = .claimSending c h w := sending
      simp only [sending', ClaimSlot.claimIsSending, ClaimSlot.withdraw, if_true]
      exact ⟨rfl, trivial⟩

end Sys2Proof.Machine
end


section
/-! ISOLATE (R6, R9, R11, R14, R18 to R20, R33). -/

namespace Sys2Proof.Machine

section
variable {s t u : State} {latched : Bool}

/-! ### A start cancelled (R9, R11) -/

theorem cancelStart_seq (s : State) : (cancelStart s).seq = { s.seq with
    state := s.stoppedOrIsolated, stateTimer := 0, fireConfirm := .stopped, attempts := 0, stopReason := .none } := by
  have drop := dropClaim_claimOnly s
  rw [cancelStart, enterStopped_seq, drop.seq, State.stoppedOrIsolated, drop.cab]
  rfl

theorem cancelStart_ret (s : State) : (cancelStart s).ret = { s.ret with fuelLatch := false } := by
  rw [cancelStart, enterStopped_ret, (dropClaim_claimOnly s).ret]

theorem cancelStart_claim (s : State) : (cancelStart s).claim = (dropClaim s).claim
    ∧ (cancelStart s).link.claimSlot = (dropClaim s).link.claimSlot := by
  rw [cancelStart]
  exact ⟨(calm_enterStopped _).claim, (calm_enterStopped _).slot⟩

theorem entered_cancelStart (s : State) : Entered s.stoppedOrIsolated s (cancelStart s) := by
  have drop := dropClaim_claimOnly s
  have same : (dropClaim s).stoppedOrIsolated = s.stoppedOrIsolated := by rw [State.stoppedOrIsolated, drop.cab]; rfl
  have entered := entered_enterStopped (dropClaim s)
  rw [cancelStart]
  rw [same] at entered
  exact entered.back drop.sameStop.enabled drop.sameStop.phase (stoppedOrIsolated_dead s).1

/-- What every cancelled start leaves behind (R6, R9, R11). -/
structure Cancelled (s t : State) : Prop where
  entered : Entered s.stoppedOrIsolated s t
  frame : TransitionFrame [] s t
  record : t.ret.record = s.ret.record
  attempts : t.seq.attempts = 0
  reason : t.seq.stopReason = .none
  rest : t.seq.rest = s.seq.rest
  claim : t.claim = (dropClaim s).claim
  slot : t.link.claimSlot = (dropClaim s).link.claimSlot

theorem cancelled_cancelStart (s : State) : Cancelled s (cancelStart s) where
  entered := entered_cancelStart s
  frame := ((Deeds.plain s).cancelStart rfl).plainFrame
  record := by rw [cancelStart_ret]
  attempts := by rw [cancelStart_seq]
  reason := by rw [cancelStart_seq]
  rest := by rw [cancelStart_seq]
  claim := (cancelStart_claim s).1
  slot := (cancelStart_claim s).2

/-- STOPPED left by ISOLATE, which needs no claim given up (R6). -/
theorem cancelled_enterStopped (claimless : s.seq.state ≠ .claimWait ∧ s.seq.state ≠ .claimSettle ∧ s.seq.state ≠ .cranking) :
    Cancelled s (enterStopped s) := by
  have cancelled := cancelled_cancelStart s
  rwa [cancelStart, dropClaim_of_claimless claimless] at cancelled

/-! ### COOLDOWN and UNLOADING with a reason (R18 to R20) -/

theorem unhurried_of_reason {reason : StopReason} (estop : s.cab.estop.qualified = false)
    (shutdown : ∀ m ∈ s.mon.conditions, m.cls ≠ .shutdown) (other : reason ≠ .allocation ∨ NoStandingCause s) :
    Unhurried (setStopReason reason s) := ⟨estop, shutdown, other⟩

/-- COOLDOWN entered with its own time (R20). -/
structure Cooled (reason : StopReason) (s t : State) : Prop where
  entered : Entered .cooldown s t
  frame : TransitionFrame [] s t
  claim : ClaimKept s t
  records : RecordsKept { s with seq := { s.seq with stopReason := reason } } t
  record : t.ret.record = s.ret.record
  notch : t.stepper.notch = s.stepper.notch

theorem cooled_entryBase (reason : StopReason) (s : State) : Cooled reason s (entryBase .cooldown (setStopReason reason s)) where
  entered := (entered_entryBase .cooldown (setStopReason reason s)).back (s := s) rfl rfl nofun
  frame := ((Deeds.entryBase rfl ((Deeds.plain s).setStopReason reason) .cooldown)).plainFrame
  claim := ⟨((Calm.refl _).entryBase _).claim, ((Calm.refl _).entryBase _).slot⟩
  records := by rw [RecordsKept, entryBase_seq]; rfl
  record := by rw [entryBase_ret]; rfl
  notch := by rw [entryBase_stepper_steady rfl]; rfl

/-- COOLDOWN from RUNUP and WARMUP, with a cooldown time of its own. -/
theorem cooled_enterCooldown {reason : StopReason} (h : Unhurried (setStopReason reason s)) (time : s.params.cooldown ≠ 0) :
    Cooled reason s (enterCooldown (setStopReason reason s)) := by
  rw [enterCooldown_waits h time]
  exact cooled_entryBase reason s

theorem stopped_coolDown {reason : StopReason} (h : Unhurried (setStopReason reason s)) (time : s.params.cooldown = 0)
    (decided : StopDecided s latched) :
    Stopped .cooldown latched s (enterCooldown (setStopReason reason s)) ∧ TransitionFrame [] s (enterCooldown (setStopReason reason s))
      ∧ ClaimKept s (enterCooldown (setStopReason reason s)) := by
  have calm := calm_enterCooldown h
  refine ⟨?_, (((Deeds.plain s).setStopReason reason).enterCooldown rfl).plainFrame, calm.claim, calm.slot⟩
  exact (stopped_enterCooldown h time (stopDecided_congr decided rfl)).back ⟨rfl, rfl, rfl, rfl, rfl, rfl, rfl, rfl⟩

/-- UNLOADING entered with a notch to shed (R19). -/
structure Unloads (reason : StopReason) (s t : State) : Prop where
  entered : Entered .unloading s t
  frame : TransitionFrame [] s t
  claim : ClaimKept s t
  records : RecordsKept { s with seq := { s.seq with stopReason := reason } } t
  notch : t.stepper.notch = s.stepper.notch

theorem unloads_enterUnloading {reason : StopReason} (h : Unhurried (setStopReason reason s)) (notch : s.stepper.notch ≠ 0)
    (dwell : s.params.dwellDown ≠ 0) : Unloads reason s (enterUnloading (setStopReason reason s)) := by
  rw [enterUnloading_sheds h notch dwell]
  exact {
    entered := (entered_entryBase .unloading (setStopReason reason s)).back (s := s) rfl rfl nofun
    frame := (Deeds.entryBase rfl ((Deeds.plain s).setStopReason reason) .unloading).plainFrame
    claim := ⟨((Calm.refl _).entryBase _).claim, ((Calm.refl _).entryBase _).slot⟩
    records := by rw [RecordsKept, entryBase_seq]; rfl
    notch := by rw [entryBase_stepper_slow (s := setStopReason reason s) (st := .unloading) rfl (fun _ => dwell) nofun]; rfl }

/-- UNLOADING with nothing to shed is an entry to COOLDOWN after it. -/
theorem enterUnloading_cools {reason : StopReason} (h : Unhurried (setStopReason reason s)) (notch : s.stepper.notch = 0) :
    enterUnloading (setStopReason reason s) = enterCooldown (entryBase .unloading (setStopReason reason s)) :=
  enterUnloading_empty h notch

theorem entryBase_unloading_stepper {reason : StopReason} (notch : s.stepper.notch = 0) :
    (entryBase .unloading (setStopReason reason s)).stepper.notch = 0 := by
  rw [entryBase_stepper_slow (s := setStopReason reason s) (st := .unloading) rfl (fun some => absurd notch some) nofun]
  exact notch

theorem cooled_enterUnloading {reason : StopReason} (h : Unhurried (setStopReason reason s)) (notch : s.stepper.notch = 0)
    (time : s.params.cooldown ≠ 0) : Cooled reason s (enterUnloading (setStopReason reason s)) := by
  have frame := (((Deeds.plain s).setStopReason reason).enterUnloading rfl).plainFrame
  have entered := entryBase_unhurried h .unloading
  have stepper := entryBase_unloading_stepper (reason := reason) notch
  have calm := (Calm.refl (setStopReason reason s)).entryBase .unloading
  have seq := entryBase_seq .unloading (setStopReason reason s)
  have ret := entryBase_ret .unloading (setStopReason reason s)
  rw [enterUnloading_cools h notch, enterCooldown_waits entered (by rw [entryBase_params]; exact time)] at frame ⊢
  generalize entryBase .unloading (setStopReason reason s) = v at *
  have calm' := (Calm.refl v).entryBase .cooldown
  exact {
    entered := (entered_entryBase .cooldown v).back calm.enabled calm.phase nofun
    frame := frame
    claim := ⟨calm'.claim.trans calm.claim, calm'.slot.trans calm.slot⟩
    records := by rw [RecordsKept, entryBase_seq, seq]; rfl
    record := by rw [entryBase_ret, ret]; rfl
    notch := by rw [entryBase_stepper_steady rfl, notch]; exact stepper }

theorem stopped_enterUnloading {reason : StopReason} (h : Unhurried (setStopReason reason s)) (notch : s.stepper.notch = 0)
    (time : s.params.cooldown = 0) (decided : StopDecided s latched) :
    Stopped .cooldown latched s (enterUnloading (setStopReason reason s)) ∧ TransitionFrame [] s (enterUnloading (setStopReason reason s))
      ∧ ClaimKept s (enterUnloading (setStopReason reason s)) := by
  have frame := (((Deeds.plain s).setStopReason reason).enterUnloading rfl).plainFrame
  have entered := entryBase_unhurried h .unloading
  have stepper := entryBase_unloading_stepper (reason := reason) notch
  have calm := (Calm.refl (setStopReason reason s)).entryBase .unloading
  have seq := entryBase_seq .unloading (setStopReason reason s)
  have ret := entryBase_ret .unloading (setStopReason reason s)
  have load := entryBase_load .unloading (setStopReason reason s)
  have speed := entryBase_speed .unloading (setStopReason reason s)
  have params := entryBase_params .unloading (setStopReason reason s)
  rw [enterUnloading_cools h notch] at frame ⊢
  generalize entryBase .unloading (setStopReason reason s) = v at *
  have decided' : StopDecided v latched := StopDecided.calm (s := setStopReason reason s) (stopDecided_congr decided rfl) calm
  have calm' := calm_enterCooldown entered
  refine ⟨(stopped_enterCooldown entered (by rw [params]; exact time) decided').back ?_, frame, calm'.claim.trans calm.claim,
    calm'.slot.trans calm.slot⟩
  exact ⟨calm.enabled, calm.phase, speed, by rw [stepper, notch], by rw [seq]; rfl, by rw [load]; rfl, by rw [ret]; rfl,
    by rw [calm.cab]; rfl⟩

end

/-- Settles O38: by the state that ISOLATE finds, in either level. -/
theorem isolateLeadsOutOfService : Obligations.IsolateLeadsOutOfService := by
  intro s q r running new law
  have after : s.after (.cabLineQualification .isolate) = lineQualified .isolate (!q.qualifiedYet) r := after_lineQualification running new
  have sampled : r.cab.isolate.qualified = q.sampled := rfl
  have appears (active : q.sampled = true) : s.after (.cabLineQualification .isolate) = isolateAppears r := by
    rw [after]
    refine (if_neg (by simp [sampled, active])).trans (if_pos (sampled.trans active))
  have decided : StopDecided r s.stopLatched := stopDecided_congr (stopDecided_of_law law) rfl
  refine ⟨fun active state => ⟨_, exec_eq_after _ _, ?_⟩, fun active state => ⟨_, exec_eq_after _ _, ?_⟩,
    fun active state estop shutdown => ⟨fun time => ⟨_, exec_eq_after _ _, ?_⟩, fun time => ⟨_, exec_eq_after _ _, ?_⟩⟩,
    fun active state estop shutdown dwell => ⟨fun notch => ⟨_, exec_eq_after _ _, ?_⟩,
      fun notch time => ⟨_, exec_eq_after _ _, ?_⟩, fun notch time => ⟨_, exec_eq_after _ _, ?_⟩⟩,
    fun active state => ⟨_, exec_eq_after _ _, ?_⟩, fun active state => ⟨_, exec_eq_after _ _, ?_⟩,
    fun inactive yet state => ⟨_, exec_eq_after _ _, ?_⟩, fun inactive out => ⟨_, exec_eq_after _ _, ?_⟩⟩
  · have cancelled : Cancelled r (s.after (.cabLineQualification .isolate)) := by
      rw [appears active]
      have state' : r.seq.state ∈ [.stopped, .prelube, .claimWait, .claimSettle] := state
      simp only [List.mem_cons, List.not_mem_nil, or_false] at state'
      obtain e | e | e | e := state' <;> simp only [isolateAppears, e]
      · exact cancelled_enterStopped (by simp [e])
      all_goals exact cancelled_cancelStart r
    have isolated : r.stoppedOrIsolated = .isolated := if_pos (sampled.trans active)
    refine ⟨isolated ▸ cancelled.entered, cancelled.frame, cancelled.record, cancelled.attempts, cancelled.reason, cancelled.rest,
      fun other => ?_, fun waits wanted => ?_, fun c waits offered pending => ?_, fun settles settling => ?_⟩
    · have claimless : r.seq.state ≠ .claimWait ∧ r.seq.state ≠ .claimSettle ∧ r.seq.state ≠ .cranking := by
        show s.seq.state ≠ .claimWait ∧ s.seq.state ≠ .claimSettle ∧ s.seq.state ≠ .cranking
        obtain e | e := other <;> simp [e]
      rw [ClaimKept, cancelled.claim, cancelled.slot, dropClaim_of_claimless claimless]
      exact ⟨rfl, rfl⟩
    · rw [cancelled.claim, cancelled.slot, dropClaim_of_wanted (s := r) waits wanted]
      exact ⟨rfl, rfl⟩
    · have pending' : r.link.claimSlot = .claimPending c := pending
      rw [cancelled.claim, cancelled.slot, dropClaim_of_offered (s := r) waits offered]
      simp only [pending', ClaimSlot.claimIsSending, ClaimSlot.withdraw, Bool.false_eq_true, if_false]
      exact ⟨rfl, trivial⟩
    · rw [cancelled.claim, cancelled.slot, dropClaim_of_held (s := r) (.inl settles) (.inl settling)]
      exact ⟨rfl, slotReleasing_congr _ rfl⟩
  · have state' : r.seq.state = .cranking := state
    rw [appears active]
    simp only [isolateAppears, state']
    refine ⟨state' ▸ stopped_goStopping decided, ((Deeds.plain r).goStopping rfl).plainFrame, fun held => ?_⟩
    obtain ⟨claim, slot⟩ := goStopping_claim r
    rw [claim, slot, dropClaim_of_held (s := r) (.inr state) (.inr held)]
    exact ⟨rfl, slotReleasing_congr _ rfl⟩
  · have cooled := cooled_enterCooldown (s := r) (reason := .isolate) (unhurried_of_reason estop shutdown (.inl nofun)) time
    have cools : isolateAppears r = enterCooldown (setStopReason .isolate r) := by
      have state' : r.seq.state = .runup ∨ r.seq.state = .warmup := state
      obtain e | e := state' <;> simp only [isolateAppears, e]
    rw [appears active, cools]
    exact ⟨cooled.entered, cooled.frame, cooled.claim.1, cooled.records, cooled.record⟩
  · obtain ⟨stopped, frame, -⟩ := stopped_coolDown (s := r) (reason := .isolate) (unhurried_of_reason estop shutdown (.inl nofun)) time decided
    have cools : isolateAppears r = enterCooldown (setStopReason .isolate r) := by
      have state' : r.seq.state = .runup ∨ r.seq.state = .warmup := state
      obtain e | e := state' <;> simp only [isolateAppears, e]
    rw [appears active, cools]
    exact ⟨stopped, frame⟩
  · have state' : r.seq.state = .online := state
    have unloads := unloads_enterUnloading (s := r) (reason := .isolate) (unhurried_of_reason estop shutdown (.inl nofun)) notch dwell
    rw [appears active]
    simp only [isolateAppears, state']
    exact ⟨unloads.entered, unloads.frame, unloads.claim.1, unloads.records, unloads.notch⟩
  · have state' : r.seq.state = .online := state
    have cooled := cooled_enterUnloading (s := r) (reason := .isolate) (unhurried_of_reason estop shutdown (.inl nofun)) notch time
    rw [appears active]
    simp only [isolateAppears, state']
    exact ⟨cooled.entered, cooled.frame, cooled.claim.1, by rw [cooled.records], cooled.notch.trans notch⟩
  · have state' : r.seq.state = .online := state
    obtain ⟨stopped, frame, claim, -⟩ :=
      stopped_enterUnloading (s := r) (reason := .isolate) (unhurried_of_reason estop shutdown (.inl nofun)) notch time decided
    rw [appears active]
    simp only [isolateAppears, state']
    exact ⟨stopped, frame, claim⟩
  · rw [appears active]
    have state' : r.seq.state = .unloading ∨ r.seq.state = .cooldown := state
    obtain e | e := state' <;> simp only [isolateAppears, e] <;> rfl
  · rw [appears active]
    have state' : r.seq.state ∈ [.init, .isolated, .stopping, .faulted] := state
    simp only [List.mem_cons, List.not_mem_nil, or_false] at state'
    obtain e | e | e | e := state' <;> simp only [isolateAppears, e]
  · have ends : s.after (.cabLineQualification .isolate) = enterStopped r := by
      rw [after]
      refine (if_neg (by simp [yet])).trans ((if_neg (by simp [sampled, inactive])).trans (if_pos state))
    have state' : r.seq.state = .isolated := state
    have cancelled : Cancelled r (enterStopped r) := cancelled_enterStopped (by simp [state'])
    have stopped : r.stoppedOrIsolated = .stopped := if_neg (by simp [sampled, inactive])
    rw [ends]
    exact ⟨stopped ▸ cancelled.entered, cancelled.frame, cancelled.attempts, cancelled.reason, cancelled.rest⟩
  · rw [after]
    by_cases first : q.qualifiedYet = false
    · exact if_pos (by simp [first, sampled, inactive])
    · have elsewhere : s.seq.state ≠ .isolated := out.resolve_left first
      have yet : q.qualifiedYet = true := by simpa using first
      exact (if_neg (by simp [yet])).trans ((if_neg (by simp [sampled, inactive])).trans (if_neg elsewhere))

end Sys2Proof.Machine
end


section
/-! FAULT_RESET (R25, R32, R160): the resettable members leave one after the other; then FAULTED may end. -/

namespace Sys2Proof.Machine

section
variable {s t u : State}

/-- The members of a list leave one after the other (R160). -/
def State.without (s : State) (l : List Member) : State := l.foldl (fun t m => leaveCondition m t) s

theorem without_nil (s : State) : s.without [] = s := rfl

theorem without_concat (s : State) (l : List Member) (m : Member) : s.without (l ++ [m]) = leaveCondition m (s.without l) := by
  unfold State.without
  rw [List.foldl_append]
  rfl

theorem without_quiet (s : State) (l : List Member) : Quiet s (s.without l) :=
  Quiet.foldl (fun _ m h => h.leaveCondition m) l (Quiet.refl s)

theorem without_conditions (s : State) (l : List Member) :
    (s.without l).mon.conditions = s.mon.conditions.filter fun x => l.all fun m => x.code != m.code := by
  induction l using List.reverseRecOn with
  | nil => simp [without_nil]
  | append_singleton l m ih =>
    rw [without_concat, leaveCondition_conditions, ih, removeCode, List.filter_filter]
    congr 1
    funext x
    simp [Bool.and_comm]

/-- ALARM is that of the set that is left, unless nobody leaves (R163). -/
theorem without_alarm (s : State) (l : List Member) : (s.without l).out.alarm =
    if l = [] then s.out.alarm else !(s.without l).mon.conditions.isEmpty := by
  obtain rfl | ⟨k, m, rfl⟩ := List.eq_nil_or_concat l
  · rfl
  · rw [if_neg (by simp), List.concat_eq_append, without_concat]
    rfl

/-- The members that a fault reset leaves (R160). -/
def State.unreset (s : State) : List Member := s.mon.conditions.filter fun m => !m.resettable

theorem faultReset_conditions (law : ConditionLaw s) :
    (s.without (s.mon.conditions.filter Member.resettable)).mon.conditions = s.unreset := by
  rw [without_conditions]
  refine List.filter_congr fun x hx => ?_
  rw [Bool.eq_iff_iff, List.all_eq_true]
  constructor
  · intro out
    rw [Bool.not_eq_true', Bool.eq_false_iff]
    intro resets
    simpa using out x (List.mem_filter.2 ⟨hx, resets⟩)
  · intro stays m hm
    obtain ⟨there, resets⟩ := List.mem_filter.1 hm
    rw [bne_iff_ne]
    intro same
    rw [member_unique law there hx same, resets] at stays
    cases stays

theorem faultReset_alarm (law : ConditionLaw s) : (s.without (s.mon.conditions.filter Member.resettable)).out.alarm =
    if s.unreset = s.mon.conditions then s.out.alarm else !s.unreset.isEmpty := by
  have nobody : s.mon.conditions.filter Member.resettable = [] ↔ s.unreset = s.mon.conditions := by
    unfold State.unreset
    rw [List.filter_eq_nil_iff, List.filter_eq_self]
    simp
  rw [without_alarm, faultReset_conditions law]
  by_cases same : s.unreset = s.mon.conditions
  · rw [if_pos same, if_pos (nobody.2 same)]
  · rw [if_neg same, if_neg (mt nobody.1 same)]

/-- The FAULTED exit is barred (R25): by a stop cause, by one of the two codes that no reset removes, by the engine's turning. -/
def State.held (s : State) : Prop := s.seq.state ≠ .faulted ∨ 30 ≤ s.mon.speed
  ∨ s.mon.conditions.any (fun m => m.stopCause || m.code == 34 || m.code == 35) = true

theorem sequencerFaultReset_eq (s : State) [Decidable s.held] :
    sequencerFaultReset s = if s.held then s else enterStopped s := by
  have causes : s.mon.conditions.any (fun m => m.stopCause || m.code == 34 || m.code == 35)
      = (s.mon.conditions.any Member.stopCause || hasCode s.mon.conditions codeAddressConflict
        || hasCode s.mon.conditions codeConfigFault) := by
    unfold hasCode codeAddressConflict codeConfigFault
    induction s.mon.conditions with
    | nil => rfl
    | cons m l ih =>
      simp only [List.any_cons, ih]
      cases m.stopCause <;> cases (m.code == 34) <;> cases (m.code == 35) <;> simp
  unfold sequencerFaultReset
  by_cases held : s.held
  · rw [if_pos held, if_neg]
    rw [State.held, causes] at held
    simp only [Bool.and_eq_true, decide_eq_true_eq, Bool.not_eq_true']
    rintro ⟨⟨⟨⟨faulted, stop⟩, config⟩, conflict⟩, slow⟩
    obtain other | fast | some := held
    · exact other faulted
    · exact absurd slow (Nat.not_lt.2 fast)
    · simp [stop, config, conflict] at some
  · rw [if_neg held, if_pos]
    rw [State.held, causes] at held
    simp only [not_or, not_not, Bool.not_eq_true, Bool.or_eq_false_iff] at held
    obtain ⟨faulted, slow, ⟨stop, conflict⟩, config⟩ := held
    simp [faulted, stop, conflict, config, Config.stoppedRpm, Nat.not_le.1 slow]

/-- A quiet change, written out by its parts. -/
theorem Quiet.written (h : Quiet s t) : t = { s with
    mon := { s.mon with conditions := t.mon.conditions, derate := t.mon.derate, capacity := t.mon.capacity }
    out := { s.out with alarm := t.out.alarm }, link := { s.link with statusMarked := t.link.statusMarked }
    alloc := { s.alloc with reEvaluate := t.alloc.reEvaluate } } := by
  obtain ⟨mark, again, f, c, l, alarm, rfl⟩ := h.eq
  rfl

theorem enterStopped_handed (s : State) : Only (.rest :: .minRun :: deedParts) s (enterStopped s) := by
  rw [enterStopped_eq]
  have cleared : Only (.rest :: .minRun :: deedParts) s (s.setSeq { s.seq with attempts := 0, stopReason := .none }) := by
    intro p outside
    cases p <;> simp [deedParts] at outside <;> rfl
  exact cleared.trans ((entryBase_only _ _).mono (by simp))

end

/-- Settles O39: the reset members leave, then FAULTED ends when nothing bars its exit. -/
theorem faultResetClearsAndEndsFaulted : Obligations.FaultResetClearsAndEndsFaulted := by
  intro s q r stay running new law
  classical
  have after : s.after (.cabLineQualification .faultReset) = lineQualified .faultReset (!q.qualifiedYet) r :=
    after_lineQualification running new
  have stays : r.unreset = stay := by
    refine List.filter_congr fun m _ => ?_
    rfl
  have cleared := without_quiet r (r.mon.conditions.filter Member.resettable)
  have conditions : (r.without (r.mon.conditions.filter Member.resettable)).mon.conditions = stay :=
    (faultReset_conditions (s := r) law).trans stays
  have alarm : (r.without (r.mon.conditions.filter Member.resettable)).out.alarm
      = if stay = s.mon.conditions then s.out.alarm else !stay.isEmpty := by
    rw [faultReset_alarm (s := r) law, stays]
  have acts (asserted : q.sampled = true) : s.after (.cabLineQualification .faultReset)
      = sequencerFaultReset (r.without (r.mon.conditions.filter Member.resettable)) := by
    rw [after]
    exact if_pos asserted
  generalize r.without (r.mon.conditions.filter Member.resettable) = v at *
  have heldIff : v.held ↔ s.seq.state ≠ .faulted ∨ 30 ≤ s.mon.speed
      ∨ stay.any (fun m => m.stopCause || m.code == 34 || m.code == 35) = true := by
    rw [State.held, conditions, cleared.seq, cleared.mon]
  refine ⟨fun released => ⟨_, exec_eq_after _ _, ?_⟩, fun asserted held => ⟨_, exec_eq_after _ _, ?_⟩,
    fun asserted faulted slow free => ⟨_, exec_eq_after _ _, ?_⟩⟩
  · rw [after]
    exact if_neg (by rw [show r.cab.faultReset.qualified = q.sampled from rfl, released]; nofun)
  · rw [acts asserted, sequencerFaultReset_eq, if_pos (heldIff.2 held)]
    have written := cleared.written
    rw [conditions, alarm] at written
    exact ⟨conditions, written⟩
  · have free' : ¬ v.held := by
      rw [heldIff, not_or, not_or]
      exact ⟨not_not.2 faulted, Nat.not_le.2 slow, by simp [free]⟩
    rw [acts asserted, sequencerFaultReset_eq, if_neg free']
    have only : Only (.rest :: .minRun :: deedParts) r (enterStopped v) :=
      (cleared.deed.mono (by simp)).trans (enterStopped_handed v)
    have target : v.stoppedOrIsolated = if s.cab.isolate.qualified then .isolated else .stopped := by
      rw [State.stoppedOrIsolated, cleared.cab]
    have kept := ((Deeds.plain v).enterStopped rfl).plainFrame.2.2
    rw [ConditionsBut, conditions] at kept
    refine ⟨?_, cabKept only, blocksKept_of_only (only.mono (by simp [deedParts])), by rw [enterStopped_seq], by rw [enterStopped_seq],
      by rw [enterStopped_seq, cleared.seq], by rw [enterStopped_ret, cleared.ret], kept.1, kept.2⟩
    exact target ▸ (entered_enterStopped v).back (by rw [cleared.link]) (by rw [cleared.alloc]) (stoppedOrIsolated_dead v).1

end Sys2Proof.Machine
end


section
/-! The offer (R117), CLAIM_WAIT (R10) and the Claim Unit's timers (R114, R115, R125). -/

namespace Sys2Proof.Machine

section
variable {s t u : State}

/-! ### The offer (R117) -/

/-- The conditions under which an examination offers the CLAIM (R117). -/
def State.offers (s : State) : Prop :=
  s.claim.phase = .wanted ∧ s.claim.holder = .none ∧ s.claim.recovery = .expired
    ∧ s.seq.rest = .expired ∧ s.claim.heat ≤ s.params.heatOk ∧ s.view.alone = false
    ∧ s.claim.foreignMark = false ∧ s.link.txEnabled = true ∧ s.link.claimSlot.takesClaim = true

theorem mayOffer_iff (s : State) : s.mayOffer = true ↔ s.claim.holder = .none ∧ s.claim.recovery = .expired
    ∧ s.seq.rest = .expired ∧ s.claim.heat ≤ s.params.heatOk ∧ s.link.claimSlot.holdsRelease = false ∧ s.view.alone = false
    ∧ s.claim.foreignMark = false := by
  unfold State.mayOffer
  simp only [Bool.and_eq_true, beq_iff_eq, isExpired_iff, decide_eq_true_eq, Bool.not_eq_true', and_assoc]

theorem takesClaim_iff (slot : ClaimSlot) (c : ClaimFields) : slot.takesClaim = true ↔
    slot.holdsRelease = false ∧ slot.offerClaim c = some (.claimPending c) := by
  cases slot <;> simp [ClaimSlot.takesClaim, ClaimSlot.holdsRelease, ClaimSlot.offerClaim]

theorem offerClaim_none {slot : ClaimSlot} {c : ClaimFields} (free : slot.holdsRelease = false) (full : slot.takesClaim = false) :
    slot.offerClaim c = none := by
  cases slot <;> simp_all [ClaimSlot.takesClaim, ClaimSlot.holdsRelease, ClaimSlot.offerClaim]

theorem examineOffer_offers (offers : s.offers) : examineOffer s = { s with
    link := { s.link with claimSlot := .claimPending ⟨s.params.crankTime, s.claim.attempt⟩ }
    claim := { s.claim with phase := .offered } } := by
  obtain ⟨wanted, holder, recovery, rest, heat, alone, foreign, enabled, slot⟩ := offers
  obtain ⟨free, takes⟩ := (takesClaim_iff s.link.claimSlot s.ownClaim).1 slot
  have may := (mayOffer_iff s).2 ⟨holder, recovery, rest, heat, free, alone, foreign⟩
  unfold examineOffer
  rw [if_pos (by simp [wanted, may, enabled]), takes]
  rfl

theorem examineOffer_still (barred : ¬ s.offers) : examineOffer s = s := by
  unfold examineOffer
  split
  · next met =>
    simp only [Bool.and_eq_true, decide_eq_true_eq] at met
    obtain ⟨⟨wanted, may⟩, enabled⟩ := met
    obtain ⟨holder, recovery, rest, heat, free, alone, foreign⟩ := (mayOffer_iff s).1 may
    have full : s.link.claimSlot.takesClaim = false := by
      rw [Bool.eq_false_iff]
      exact fun slot => barred ⟨wanted, holder, recovery, rest, heat, alone, foreign, enabled, slot⟩
    rw [offerClaim_none free full]
  · rfl

theorem examined_examineOffer (s : State) : Examined s (examineOffer s) := by
  unfold Examined
  split
  · next offers => exact examineOffer_offers offers
  · next barred => exact examineOffer_still barred

/-- What an examination of the offer may change. -/
theorem examineOffer_changes (s : State) : ∃ slot phase, examineOffer s = { s with
    link := { s.link with claimSlot := slot }, claim := { s.claim with phase := phase } }
      ∧ (phase = s.claim.phase ∨ phase = .offered) := by
  by_cases offers : s.offers
  · exact ⟨_, _, examineOffer_offers offers, .inr rfl⟩
  · exact ⟨s.link.claimSlot, s.claim.phase, examineOffer_still offers, .inl rfl⟩

/-! ### The Claim Unit's timers -/

theorem examineOffer_of_recovering {left : Nat} (recovering : s.claim.recovery = .running left) : examineOffer s = s :=
  examineOffer_still fun offers => by
    have expired := offers.2.2.1
    rw [recovering] at expired
    cases expired

theorem after_leaseExpiry (running : s.claim.lease.isRunning = true) : s.after .leaseExpiry = { s with claim := { s.claim with
    holder := .none, lease := .stopped, recovery := .running (s.params.recoveryTime * 1000) } } :=
  (if_pos running).trans (examineOffer_of_recovering rfl)

theorem after_recoveryTimerExpiry (running : s.claim.recovery.isRunning = true) :
    s.after .recoveryTimerExpiry = examineOffer { s with claim := { s.claim with recovery := .expired } } := if_pos running

theorem after_restTimerExpiry (running : s.seq.rest.isRunning = true) :
    s.after .restTimerExpiry = examineOffer { s with seq := { s.seq with rest := .expired } } := if_pos running

/-- A heat update by the phase of the own claim (R13, R125). -/
theorem after_heatUpdate (running : s.claim.heatTimer.isRunning = true) : s.after .heatUpdate =
    if s.claim.phase = .wanted then examineOffer s.heated
    else if s.claim.phase = .cranking ∧ s.params.heatTrip ≤ s.heated.claim.heat ∧ s.seq.state = .cranking then failedAttempt s.heated
    else s.heated := by
  refine (if_pos running).trans ?_
  dsimp only
  have phase : (s.setClaim { s.claim with
      heat := heatAfter s.params s.claim.heat s.out.crank, heatTimer := .running Config.heatMs }).claim.phase = s.claim.phase := rfl
  split
  · next wanted => rw [if_pos (phase.symm.trans wanted)]; rfl
  · next cranking =>
    have cranks : s.claim.phase = .cranking := phase.symm.trans cranking
    rw [if_neg (c := s.claim.phase = .wanted) (by simp [cranks])]
    by_cases trips : s.params.heatTrip ≤ s.heated.claim.heat ∧ s.seq.state = .cranking
    · rw [if_pos (c := _ ∧ _) ⟨cranks, trips⟩]
      exact if_pos (by simp only [Bool.and_eq_true, decide_eq_true_eq]; exact trips)
    · rw [if_neg (c := _ ∧ _) fun h => trips h.2]
      exact if_neg (by simp only [Bool.and_eq_true, decide_eq_true_eq]; exact trips)
  all_goals
    next other =>
    have there : s.claim.phase = _ := phase.symm.trans other
    rw [if_neg (by simp [there]), if_neg (by simp [there])]
    rfl

end

/-- Settles O56: each expiry with the examination that it allows. -/
theorem claimTimersEndAndOffer : Obligations.ClaimTimersEndAndOffer := by
  intro s
  refine ⟨fun running => ⟨_, exec_eq_after _ _, after_leaseExpiry running⟩, fun running => ⟨_, exec_eq_after _ _, ?_⟩,
    fun running => ⟨_, exec_eq_after _ _, ?_⟩, fun running => ⟨fun wanted => ⟨_, exec_eq_after _ _, ?_⟩,
      fun other calm => ⟨_, exec_eq_after _ _, ?_⟩⟩⟩
  · rw [after_recoveryTimerExpiry running]
    exact examined_examineOffer _
  · rw [after_restTimerExpiry running]
    exact examined_examineOffer _
  · rw [after_heatUpdate running, if_pos wanted]
    exact examined_examineOffer s.heated
  · rw [after_heatUpdate running, if_neg other, if_neg]
    · rfl
    · rintro ⟨cranking, trips, state⟩
      obtain h | h | h := calm
      · exact h cranking
      · exact h state
      · exact absurd trips (Nat.not_le.2 h)

/-! ### CLAIM_WAIT (R10) -/

section
variable {s t u : State} {st : EngineState}

/-- CLAIM_WAIT entered while the own claim is IDLE: it is WANTED, and the offer is examined. -/
theorem enterClaimWait_eq (clear : NoStandingCause s) (idle : s.claim.phase = .idle) : enterClaimWait s =
    examineOffer ((entryBase .claimWait s).setClaim { s.claim with attempt := s.seq.attempts + 1, phase := .wanted }) := by
  have calm := (Calm.refl s).entryBase .claimWait
  have need : claimNeed ((entryBase .claimWait s).seq.attempts + 1) (entryBase .claimWait s) =
      examineOffer ((entryBase .claimWait s).setClaim { s.claim with attempt := s.seq.attempts + 1, phase := .wanted }) := by
    rw [entryBase_seq]
    unfold claimNeed
    dsimp only
    rw [calm.claim, idle]
  have clear' := calm.noStandingCause clear
  unfold enterClaimWait
  dsimp only
  rw [need]
  generalize entryBase .claimWait s = v at *
  obtain ⟨slot, phase, eq, -⟩ := examineOffer_changes
    (v.setClaim { s.claim with attempt := s.seq.attempts + 1, phase := .wanted })
  have clear'' : NoStandingCause (examineOffer (v.setClaim { s.claim with attempt := s.seq.attempts + 1, phase := .wanted })) := by
    rw [eq]
    exact clear'
  rw [if_neg (by rw [hardCause_of_clear clear'']; nofun), if_neg (by rw [cancelCause_of_clear clear'']; nofun)]

/-- What an entry to CLAIM_WAIT leaves behind, the own claim needed (R10). -/
structure Waits (s t : State) : Prop where
  entered : Entered .claimWait s t
  records : RecordsKept s t
  claim : t.claim = { s.claim with phase := t.claim.phase, attempt := s.seq.attempts + 1 }
  wants : t.claim.phase = .wanted ∨ t.claim.phase = .offered

theorem waits_enterClaimWait (clear : NoStandingCause s) (idle : s.claim.phase = .idle) : Waits s (enterClaimWait s) := by
  rw [enterClaimWait_eq clear idle]
  have entered := entered_entryBase .claimWait s
  have seq := entryBase_seq .claimWait s
  generalize entryBase .claimWait s = v at *
  obtain ⟨slot, phase, eq, wants⟩ := examineOffer_changes
    (v.setClaim { s.claim with attempt := s.seq.attempts + 1, phase := .wanted })
  rw [eq]
  exact ⟨entered, by rw [RecordsKept]; exact seq ▸ rfl, rfl, wants⟩

/-- While the record shows a holder or recovery runs, the start waits without an offer. -/
theorem enterClaimWait_barred (clear : NoStandingCause s) (idle : s.claim.phase = .idle)
    (barred : s.claim.holder ≠ .none ∨ s.claim.recovery ≠ .expired) : enterClaimWait s =
      (entryBase .claimWait s).setClaim { s.claim with attempt := s.seq.attempts + 1, phase := .wanted } := by
  rw [enterClaimWait_eq clear idle]
  refine examineOffer_still fun offers => ?_
  obtain ⟨-, holder, recovery, -⟩ := offers
  obtain h | h := barred
  · exact h holder
  · exact h recovery

end

end Sys2Proof.Machine
end


section
/-! A code raised by the Sequencer with its transition (R26, R162, R164), and a crank attempt that fails (R13). -/

namespace Sys2Proof.Machine

section
variable {s t u : State} {code : Nat}

/-! ### The cause of the fault record does not read cause flags (R165) -/

/-- A member with its cause flag set to `b` when it has the code. -/
def Member.caused (code : Nat) (b : Bool) (m : Member) : Member := if m.code = code then { m with cause := b } else m

theorem caused_fields (code : Nat) (b : Bool) (m : Member) : (m.caused code b).code = m.code ∧ (m.caused code b).cls = m.cls
    ∧ (m.caused code b).latched = m.latched ∧ (m.caused code b).activeMs = m.activeMs := by
  unfold Member.caused
  split <;> exact ⟨rfl, rfl, rfl, rfl⟩

theorem stopCause_caused (code : Nat) (b : Bool) (m : Member) : (m.caused code b).stopCause = m.stopCause := by
  obtain ⟨-, cls, latched, -⟩ := caused_fields code b m
  rw [Member.stopCause, Member.stopCause, cls, latched]

/-- An order by code, class and active time sorts the members with a cause flag set as it sorts them. -/
theorem sortBy_caused {le : Member → Member → Bool} (same : ∀ a b : Member, le (a.caused code c) (b.caused code c) = le a b)
    (l : List Member) : sortBy le (l.map (Member.caused code c)) = (sortBy le l).map (Member.caused code c) := by
  rw [sortBy_eq_insertionSort, sortBy_eq_insertionSort]
  exact (List.map_insertionSort _ _ _ _ fun a _ b _ => by rw [same]).symm

/-- The code of the first member of a list, `d` for the empty list. -/
def firstCode (d : Nat) (l : List Member) : Nat := (l.map (·.code)).headD d

theorem firstCode_caused (code : Nat) (b : Bool) (d : Nat) (l : List Member) :
    firstCode d (l.map (Member.caused code b)) = firstCode d l := by
  unfold firstCode
  rw [List.map_map]
  exact congrArg (·.headD d) (List.map_congr_left fun m _ => (caused_fields code b m).1)

theorem faultSummary_eq (l : List Member) : faultSummary l = firstCode 0 (sortBy strongerMember l) := by
  unfold faultSummary
  cases sortBy strongerMember l <;> rfl

theorem recordCause_eq (l : List Member) :
    recordCause l = firstCode (faultSummary l) (sortBy olderCause (l.filter Member.stopCause)) := by
  unfold recordCause
  cases sortBy olderCause (l.filter Member.stopCause) <;> rfl

theorem recordCause_setCause (code : Nat) (b : Bool) (l : List Member) : recordCause (setCause code b l) = recordCause l := by
  have stronger (x y : Member) : strongerMember (x.caused code b) (y.caused code b) = strongerMember x y := by
    obtain ⟨code_x, cls_x, -⟩ := caused_fields code b x
    obtain ⟨code_y, cls_y, -⟩ := caused_fields code b y
    rw [strongerMember, strongerMember, code_x, cls_x, code_y, cls_y]
  have older (x y : Member) : olderCause (x.caused code b) (y.caused code b) = olderCause x y := by
    rw [olderCause, olderCause, stronger, (caused_fields code b x).2.2.2, (caused_fields code b y).2.2.2]
  have causes : (setCause code b l).filter Member.stopCause = (l.filter Member.stopCause).map (Member.caused code b) := by
    show (l.map (Member.caused code b)).filter Member.stopCause = _
    rw [List.filter_map]
    exact congrArg _ (List.filter_congr fun m _ => stopCause_caused code b m)
  have summary : faultSummary (setCause code b l) = faultSummary l := by
    rw [faultSummary_eq, faultSummary_eq]
    exact (congrArg (firstCode 0) (sortBy_caused stronger l)).trans (firstCode_caused code b 0 _)
  rw [recordCause_eq, recordCause_eq, summary, causes, sortBy_caused older, firstCode_caused]

/-! ### A code raised with a transition (R26) -/

/-- What the handing on of a joining leaves of the station `v` that the transition left, and the report that the cause is absent,
where that is made (`cause` false). -/
structure Raises (code : Nat) (v t : State) : Prop where
  calm : Calm v t
  quiet : Quiet v t
  record : recordCause t.mon.conditions = recordCause v.mon.conditions
  alarm : t.out.alarm = true

theorem quiet_handChange (cls : CondClass) (differs : Bool) (s : State) : Quiet s (handChange cls differs s) :=
  (Quiet.refl s).handChange cls differs

theorem handChange_alarm {cls : CondClass} {differs : Bool} {m : Member} (there : m ∈ s.mon.conditions) :
    (handChange cls differs s).out.alarm = true := by
  rw [handChange_eq (s := s) (t := s) cls differs rfl rfl]
  show (!s.mon.conditions.isEmpty) = true
  rw [List.isEmpty_eq_false_iff.2 (List.ne_nil_of_mem there)]
  rfl

/-- A new code is the only member with it. -/
theorem withMember_alone (new : hasCode s.mon.conditions code = false) {y : Member} (hy : y ∈ (s.withMember code).mon.conditions)
    (same : y.code = code) : y = s.newMember code := by
  obtain rfl | old := mem_insertMember.1 hy
  · rfl
  · exact absurd same ((hasCode_eq_false_iff _ _).1 new y old)

/-- After a calm transition the new member stands, but for its cause. -/
theorem newMember_stays (new : hasCode s.mon.conditions code = false) (latched : s.latchedOf code = true)
    (calm : Calm (s.withMember code) u) : ∃ b, { s.newMember code with cause := b } ∈ u.mon.conditions := by
  refine calm.latched _ (newMember_mem s code) fun y hy same => ?_
  rw [withMember_alone new hy same]
  exact latched

theorem raiseBySequencer_eq (plain : Plain s code) (new : hasCode s.mon.conditions code = false) (f : State → State) :
    raiseBySequencer code f s
      = handChange (s.classOf code) (reportDiffers s (s.withMember code)) (f (s.withMember code)) := by
  unfold raiseBySequencer
  rw [if_neg (by simp [new]), joinCondition_of_plain plain]

theorem raises_bySequencer (plain : Plain s code) (new : hasCode s.mon.conditions code = false) (latched : s.latchedOf code = true)
    {f : State → State} (calm : Calm (s.withMember code) (f (s.withMember code))) :
    Raises code (f (s.withMember code)) (raiseBySequencer code f s) := by
  obtain ⟨b, stays⟩ := newMember_stays new latched calm
  rw [raiseBySequencer_eq plain new]
  exact ⟨(Calm.refl _).handChange _ _, quiet_handChange _ _ _, by rw [handChange_conditions], handChange_alarm stays⟩

theorem raiseMomentary_eq (plain : Plain s code) (new : hasCode s.mon.conditions code = false) (latched : s.latchedOf code = true)
    {f : State → State} (calm : Calm (s.withMember code) (f (s.withMember code))) : raiseMomentary code f s =
      (raiseBySequencer code f s).setConditions (setCause code false (raiseBySequencer code f s).mon.conditions) := by
  unfold raiseMomentary
  refine reportGone_of_latched fun m hm same => ?_
  refine (calm.trans (raises_bySequencer plain new latched calm).calm).allLatched (code := code) (fun y hy same => ?_) m hm same
  rw [withMember_alone new hy same]
  exact latched

theorem raises_momentary (plain : Plain s code) (new : hasCode s.mon.conditions code = false) (latched : s.latchedOf code = true)
    {f : State → State} (calm : Calm (s.withMember code) (f (s.withMember code))) :
    Raises code (f (s.withMember code)) (raiseMomentary code f s)
      ∧ { s.newMember code with cause := false } ∈ (raiseMomentary code f s).mon.conditions := by
  have raises := raises_bySequencer plain new latched calm
  obtain ⟨b, stays⟩ := newMember_stays new latched (calm.trans raises.calm)
  rw [raiseMomentary_eq plain new latched calm]
  generalize raiseBySequencer code f s = v at *
  refine ⟨⟨raises.calm.trans (calm_setCause v code false), raises.quiet.trans ?_, ?_, raises.alarm⟩, ?_⟩
  · exact ⟨rfl, rfl, rfl, rfl, rfl, rfl, rfl, rfl, rfl, rfl, rfl, rfl, rfl, rfl, rfl⟩
  · exact (recordCause_setCause code false v.mon.conditions).trans raises.record
  · exact List.mem_map.2 ⟨_, stays, if_pos rfl⟩

/-- A code joining leads to STOPPING with the new member as its latched stop cause. -/
theorem stopDecided_withMember (new : hasCode s.mon.conditions code = false) (cause : (s.newMember code).stopCause = true) :
    StopDecided (s.withMember code) true := by
  refine stopDecided_of_member (newMember_mem s code) cause fun y hy same => ?_
  rw [withMember_alone new hy same]
  exact ((stopCause_iff _).1 cause).1

theorem Stopped.raised {left : EngineState} {latched : Bool} (h : Stopped left latched s u) (raises : Raises code u t) :
    Stopped left latched s t := h.quiet raises.calm raises.quiet raises.record

theorem Entered.quiet {st : EngineState} (h : Entered st s u) (calm : Calm u t) (quiet : Quiet u t) : Entered st s t :=
  h.onward calm ⟨by rw [quiet.seq], by rw [quiet.seq], by rw [quiet.seq]⟩ (standingCommands_of_quiet quiet)

/-! ### Frames one after the other -/

theorem TransitionFrame.trans {raised : List Nat} (h : TransitionFrame raised s t) (k : TransitionFrame raised t u) :
    TransitionFrame raised s u := by
  obtain ⟨cab, ⟨view, load, params, mailbox, queue, link, alloc, claim, port, mon, ⟨crank, fuel, prelube⟩, ret⟩, conditions⟩ := h
  obtain ⟨cab', ⟨view', load', params', mailbox', queue', link', alloc', claim', port', mon', ⟨crank', fuel', prelube'⟩, ret'⟩,
    conditions'⟩ := k
  refine ⟨cab'.trans cab, ⟨view'.trans view, load'.trans load, params'.trans params, mailbox'.trans mailbox, queue'.trans queue,
    link'.trans ?_, alloc'.trans ?_, claim'.trans ?_, port'.trans ?_, mon'.trans ?_,
    ⟨crank'.trans crank, fuel'.trans fuel, prelube'.trans prelube⟩, ret'.trans ?_⟩, conditionsBut_trans conditions conditions'⟩
  · rw [link]
  · rw [alloc]
  · rw [claim]
  · rw [port]
  · rw [mon]
  · rw [ret]

end

end Sys2Proof.Machine
end


section
/-! A crank attempt fails (R13, R26, R27), at its time, at the heat trip and at a starter that is not proved. -/

namespace Sys2Proof.Machine

section
variable {s t u : State}

/-- The station with one more failed attempt and its claim given up (R13, R122). -/
def State.attemptGivenUp (s : State) : State := { s with
  seq := { s.seq with attempts := s.seq.attempts + 1 }
  claim := s.claim.givenUp s.params, link := { s.withMark.link with claimSlot := s.slotReleasing .failed } }

theorem failedAttempt_eq (held : s.claim.phase = .cranking) : failedAttempt s =
    if s.seq.attempts + 1 < s.params.maxAttempts then enterClaimWait (startRest s.attemptGivenUp)
    else raiseMomentary codeFailToStart enterStopping s.attemptGivenUp := by
  unfold failedAttempt
  dsimp only
  rw [claimRelease_eq (s := s.setSeq { s.seq with attempts := s.seq.attempts + 1 }) (.inr held)]
  rfl

/-- The frame of the next attempt. -/
theorem attemptAgain_frame (held : s.claim.phase = .cranking) (again : s.seq.attempts + 1 < s.params.maxAttempts) :
    TransitionFrame [] s (enterClaimWait (startRest s.attemptGivenUp)) := by
  have start : Deeds ⟨[], true, [.rest]⟩ s s := Deeds.refl s (.inl rfl)
  have released : Deeds ⟨[], true, [.rest]⟩ s s.attemptGivenUp := by
    have chain := Deeds.claimRelease (Deeds.setSeq start (x := { s.seq with attempts := s.seq.attempts + 1 }) rfl rfl rfl
      (.inr (.inr ⟨List.mem_singleton_self _, rfl⟩))) .failed
    rwa [claimRelease_eq (s := s.setSeq { s.seq with attempts := s.seq.attempts + 1 }) (.inr held)] at chain
  have rested : Deeds ⟨[], true, [.rest]⟩ s (startRest s.attemptGivenUp) :=
    released.records _ rfl (.inr (List.mem_singleton_self _)) (.inl rfl) (.inl rfl)
  refine (Deeds.enterClaimWait (e := rfl) rested (.inr (.inr again))).frame (by simp) ?_
  unfold Scope.clears Scope.codes
  decide

/-- STOPPING with a latched stop cause keeps the count and the rest timer. -/
theorem enterStopping_records (decided : StopDecided s true) : (enterStopping s).seq.attempts = s.seq.attempts
    ∧ (enterStopping s).seq.rest = s.seq.rest := by
  have cause : s.stoppingEntered.stopLatched = true := decided _ (calm_stoppingEntered s)
  have seq := stoppingEntered_seq s
  rw [enterStopping_eq]
  generalize s.stoppingEntered = v at *
  have latched : v.mon.conditions.any Member.stopCause = true := cause
  unfold stoppingExit
  rw [latched, if_pos rfl]
  split
  · rw [enterFaulted_seq, seq]; exact ⟨rfl, rfl⟩
  · rw [seq]; exact ⟨rfl, rfl⟩

theorem recordsKept_of_seq {st : EngineState} {timer : Nat} {confirm : Timer}
    (h : t.seq = { s.seq with state := st, stateTimer := timer, fireConfirm := confirm }) : RecordsKept s t := by rw [RecordsKept, h]

theorem plain_of_fixed {code : Nat} (fixed : 12 < code) (cls : fixedClass code ≠ .derate) (coolant : code ≠ codeCoolantSensor)
    (battery : code ≠ codeBatterySensor) (s : State) : Plain s code := by
  refine ⟨?_, coolant, battery⟩
  have member := newMember_of_fixed fixed s
  rw [show s.classOf code = fixedClass code from congrArg Member.cls member]
  exact cls

theorem latchedOf_fixed {code : Nat} (fixed : 12 < code) (s : State) : s.latchedOf code = fixedLatched code :=
  congrArg Member.latched (newMember_of_fixed fixed s)

/-- A crank attempt that fails, whatever ended it (R13). -/
theorem attemptFailed_failedAttempt (state : s.seq.state = .cranking) (held : s.claim.phase = .cranking) :
    AttemptFailed s (failedAttempt s) := by
  rw [failedAttempt_eq held]
  refine ⟨fun again clear => ?_, fun last new => ?_⟩
  · rw [if_pos again]
    have frame := attemptAgain_frame held again
    have clear' : NoStandingCause (startRest s.attemptGivenUp) := clear
    have barred := enterClaimWait_barred clear' rfl (.inr nofun)
    have entered := (entered_entryBase .claimWait (startRest s.attemptGivenUp)).back (s := s) rfl rfl nofun
    have seq := entryBase_seq .claimWait (startRest s.attemptGivenUp)
    have calm := (Calm.refl (startRest s.attemptGivenUp)).entryBase .claimWait
    rw [barred] at frame ⊢
    generalize entryBase .claimWait (startRest s.attemptGivenUp) = v at *
    exact ⟨entered, frame, recordsKept_of_seq seq, rfl, calm.slot⟩
  · rw [if_neg (Nat.not_lt.2 last)]
    have new' : hasCode s.attemptGivenUp.mon.conditions codeFailToStart = false := new
    have plain := plain_of_fixed (code := codeFailToStart) (by decide) (by decide) (by decide) (by decide) s.attemptGivenUp
    have latched := latchedOf_fixed (code := codeFailToStart) (by decide) s.attemptGivenUp
    have fixed := newMember_of_fixed (code := codeFailToStart) (by decide) s.attemptGivenUp
    have decided := stopDecided_withMember new' (by rw [fixed]; rfl)
    have calm := calm_enterStopping (s.attemptGivenUp.withMember codeFailToStart)
    obtain ⟨raises, member⟩ := raises_momentary plain new' latched calm
    have frame : TransitionFrame [24] s (raiseMomentary codeFailToStart enterStopping s.attemptGivenUp) := by
      have start : Deeds ⟨[24], true, [.rest]⟩ s s := Deeds.refl s (.inl rfl)
      have chain := start.failedAttempt rfl (List.mem_singleton_self _) (by simp [Scope.codes, codeFailToStart])
      rw [failedAttempt_eq held, if_neg (Nat.not_lt.2 last)] at chain
      refine chain.frame (by simp) ?_
      unfold Scope.clears Scope.codes
      decide
    have stopped : Stopped .cranking true s (enterStopping (s.attemptGivenUp.withMember codeFailToStart)) := by
      have there := stopped_of_decided decided
      rw [show (s.attemptGivenUp.withMember codeFailToStart).seq.state = .cranking from state] at there
      exact there.back ⟨rfl, rfl, rfl, rfl, rfl, rfl, rfl, rfl⟩
    obtain ⟨attempts, rest⟩ := enterStopping_records decided
    have claim := calm.claim
    have slot := calm.slot
    rw [fixed] at member
    generalize enterStopping (s.attemptGivenUp.withMember codeFailToStart) = v at *
    generalize raiseMomentary codeFailToStart enterStopping s.attemptGivenUp = w at *
    exact ⟨stopped.raised raises, frame, (congrArg Sequencer.attempts raises.quiet.seq).trans attempts,
      (congrArg Sequencer.rest raises.quiet.seq).trans rest, member, raises.alarm, raises.calm.claim.trans claim,
      raises.calm.slot.trans slot⟩

/-- Marks, triggers and ALARM after a failed attempt. -/
theorem AttemptFailed.quiet (h : AttemptFailed s t) (calm : Calm t u) (quiet : Quiet t u) (alarm : ∀ m ∈ t.mon.conditions, u.out.alarm = true)
    (same : u.mon.conditions = t.mon.conditions) (frame : ∀ raised, TransitionFrame raised t u) : AttemptFailed s u := by
  obtain ⟨again, last⟩ := h
  refine ⟨fun more clear => ?_, fun most new => ?_⟩
  · obtain ⟨entered, framed, records, claim, slot⟩ := again more clear
    exact ⟨entered.quiet calm quiet, framed.trans (frame _), by rw [RecordsKept, quiet.seq]; exact records, calm.claim.trans claim,
      calm.slot.trans slot⟩
  · obtain ⟨stopped, framed, attempts, rest, member, -, claim, slot⟩ := last most new
    exact ⟨stopped.quiet calm quiet (by rw [same]), framed.trans (frame _), by rw [quiet.seq]; exact attempts,
      by rw [quiet.seq]; exact rest, same ▸ member, alarm _ member, calm.claim.trans claim, calm.slot.trans slot⟩

theorem frame_of_quiet {raised : List Nat} (quiet : Quiet s t) (calm : Calm s t) (conditions : ConditionsBut (raised ++ entryCodes) s t) : TransitionFrame raised s t := by
  refine ⟨quiet.cab, ⟨quiet.view, quiet.load, quiet.params, quiet.mailbox, quiet.pending, ?_, ?_, ?_, ?_, ?_, ?_, ?_⟩, conditions⟩
  · rw [calm.slot]; exact quiet.link
  · refine quiet.alloc.trans ?_
    rw [quiet.alloc]
  · rw [quiet.claim]
  · rw [quiet.port]
  · refine quiet.mon.trans ?_
    rw [quiet.mon]
  · rw [FeedbackKept, quiet.out]; exact ⟨rfl, rfl, rfl⟩
  · rw [quiet.ret]

theorem hasCode_withMember_other {code c : Nat} (other : code ≠ c) (s : State) :
    hasCode (s.withMember code).mon.conditions c = hasCode s.mon.conditions c :=
  (hasCode_insertMember _ _ _).trans (by simp [other])

theorem noStandingCause_withMember {code : Nat} (clear : NoStandingCause s)
    (cls : s.classOf code ≠ .shutdown ∧ s.classOf code ≠ .stop ∧ s.classOf code ≠ .inhibitStart) :
    NoStandingCause (s.withMember code) := by
  obtain ⟨estop, isolate, classes⟩ := clear
  refine ⟨estop, isolate, fun m hm => ?_⟩
  obtain rfl | old := mem_insertMember.1 hm
  · exact cls
  · exact classes m old

theorem frame_withMember {code : Nat} {raised : List Nat} (mem : code ∈ raised ++ entryCodes) (s : State) :
    TransitionFrame raised s (s.withMember code) :=
  ⟨rfl, ⟨rfl, rfl, rfl, rfl, rfl, rfl, rfl, rfl, rfl, rfl, ⟨rfl, rfl, rfl⟩, rfl⟩, conditionsBut_withMember mem s⟩

/-- CRANK_OPEN joins in CRANKING (R13, R27): the attempt fails with the code in the set. -/
theorem attemptFailed_crankOpen (state : s.seq.state = .cranking) (held : s.claim.phase = .cranking)
    (new : hasCode s.mon.conditions codeCrankOpen = false) : AttemptFailed s (reportPresent codeCrankOpen s) := by
  have plain := plain_of_fixed (code := codeCrankOpen) (by decide) (by decide) (by decide) (by decide) s
  have cls : s.classOf codeCrankOpen = .alarm := congrArg Member.cls (newMember_of_fixed (code := codeCrankOpen) (by decide) s)
  have reacts : joiningAppears codeCrankOpen .alarm (s.withMember codeCrankOpen) = failedAttempt (s.withMember codeCrankOpen) := by
    show crankOpenAppears (s.withMember codeCrankOpen) = _
    exact if_pos state
  rw [reportPresent_of_new new, joinCondition_of_plain plain, cls, reacts]
  have failed : AttemptFailed (s.withMember codeCrankOpen) (failedAttempt (s.withMember codeCrankOpen)) :=
    attemptFailed_failedAttempt state held
  have failed' : AttemptFailed s (failedAttempt (s.withMember codeCrankOpen)) := by
    generalize failedAttempt (s.withMember codeCrankOpen) = v at failed ⊢
    obtain ⟨again, last⟩ := failed
    refine ⟨fun more clear => ?_, fun most none => ?_⟩
    · obtain ⟨entered, framed, records, claim, slot⟩ := again more (noStandingCause_withMember clear (by simp [cls]))
      exact ⟨entered.back rfl rfl nofun, (frame_withMember (by decide) s).trans framed, records, claim, slot⟩
    · have none' : hasCode (s.withMember codeCrankOpen).mon.conditions 24 = false := by
        rw [hasCode_withMember_other (by decide)]
        exact none
      obtain ⟨stopped, framed, rest⟩ := last most none'
      exact ⟨stopped.back ⟨rfl, rfl, rfl, rfl, rfl, rfl, rfl, rfl⟩, (frame_withMember (by decide) s).trans framed, rest⟩
  generalize failedAttempt (s.withMember codeCrankOpen) = v at failed' ⊢
  refine failed'.quiet ((Calm.refl _).handChange _ _) (quiet_handChange _ _ _) (fun m there => handChange_alarm there)
    (handChange_conditions _ _ _) fun raised => frame_of_quiet (quiet_handChange _ _ _) ((Calm.refl _).handChange _ _)
      (conditionsBut_of_eq (handChange_conditions _ _ _))

end

/-- Settles O53: the three ways into R13's failed attempt. -/
theorem crankAttemptsFailThreeWays : Obligations.CrankAttemptsFailThreeWays := by
  intro s state held
  refine ⟨⟨_, exec_eq_after _ _, ?_⟩, fun running trips => ⟨_, exec_eq_after _ _, ?_⟩,
    fun running command unproved new => ⟨_, exec_eq_after _ _, ?_⟩⟩
  · have failed : s.after .crankTimeExpiry = failedAttempt (stateTimerReaches s.params.crankLimit s) := if_pos state
    rw [failed]
    have attempt : AttemptFailed (stateTimerReaches s.params.crankLimit s) _ := attemptFailed_failedAttempt state held
    generalize failedAttempt (stateTimerReaches s.params.crankLimit s) = v at attempt ⊢
    exact attempt
  · have failed : s.after .heatUpdate = failedAttempt s.heated := by
      refine (after_heatUpdate running).trans ?_
      rw [held]
      exact (if_neg nofun).trans (if_pos ⟨rfl, trips, state⟩)
    rw [failed]
    exact attemptFailed_failedAttempt (s := s.heated) state held
  · have reported : s.after (.provingTimerExpiry .crank) = reportPresent codeCrankOpen
        (s.setProving .crank { s.out.crankProving with proof := .disagree, timer := .expired }) := by
      refine (if_pos running).trans ?_
      show reportPresent (mismatchCode .crank s.out.crank) _ = _
      rw [command]
      rfl
    rw [reported]
    exact attemptFailed_crankOpen (s := s.setProving .crank { s.out.crankProving with proof := .disagree, timer := .expired })
      state held new

end Sys2Proof.Machine
end


section
/-! The start sequence: prelube, settling, cranking, fire (R8, R10 to R12, R24, R120, R122, R147). -/

namespace Sys2Proof.Machine

section
variable {s t u : State}

/-! ### PRELUBE's end (R8) -/

theorem plain_prelubeFail (s : State) : Plain s codePrelubeFail :=
  plain_of_fixed (by decide) (by decide) (by decide) (by decide) s

/-- A code raised with FAULTED takes the record of the snapshot that `f` leaves (R24, R165). -/
theorem raised_record {code : Nat} {s' : State} (raises : Raises code (enterFaulted s') t) :
    t.ret.record = some ⟨recordCause t.mon.conditions, s'.seq.snapshot.state, s'.seq.snapshot.speed, s'.seq.snapshot.notch,
      s'.load.hours⟩ := by
  rw [raises.quiet.ret, enterFaulted_ret, raises.record]

theorem clears_prelubeFail : ¬ (⟨[codePrelubeFail], true, []⟩ : Scope).clears := by
  unfold Scope.clears Scope.codes
  decide

/-! ### The fire (R12) -/

/-- RUNUP without a standing cause (R15). -/
theorem enterRunup_eq (clear : NoStandingCause s) :
    enterRunup s = entryBase .runup (s.setRet { s.ret with wasRunning := true }) := by
  have calm : Calm s (entryBase .runup (s.setRet { s.ret with wasRunning := true })) := ((Calm.refl s).setRet _).entryBase .runup
  have clear' := calm.noStandingCause clear
  unfold enterRunup
  dsimp only
  generalize entryBase .runup (s.setRet { s.ret with wasRunning := true }) = v at *
  obtain ⟨-, isolate, classes⟩ := clear'
  have stop : hasClass v.mon.conditions .stop = false := (hasClass_eq_false_iff _ _).2 fun m hm => (classes m hm).2.1
  rw [hardCause_of_clear (calm.noStandingCause clear), if_neg nofun, coolOrElse, State.isolateActive, isolate, if_neg nofun, stop,
    if_neg nofun]
  rfl

/-- CRANKING without ESTOP, ISOLATE or a SHUTDOWN cause (R12, R14). -/
theorem enterCranking_eq (estop : s.cab.estop.qualified = false) (isolate : s.cab.isolate.qualified = false)
    (shutdown : ∀ m ∈ s.mon.conditions, m.cls ≠ .shutdown) : enterCranking s = entryBase .cranking s := by
  have calm := (Calm.refl s).entryBase .cranking
  have hard := calm.hardCause estop shutdown
  unfold enterCranking
  dsimp only
  rw [hard, State.isolateActive, calm.cab, isolate]
  exact if_neg nofun

/-- The station at the fire, before RUNUP is entered (R12, R122, R147). -/
def State.fired (s : State) : State := { s with
  seq := { s.seq with fireConfirm := .expired, attempts := 0, minRun := .running (s.params.minRun * 1000) }
  claim := s.claim.givenUp s.params, link := { s.withMark.link with claimSlot := s.slotReleasing .fired }
  mon := { s.mon with runPhase := .grace, grace := .running (s.params.oilGrace * 1000) } }

/-- In a state of a running engine the run phase and the grace timer stand at the entry (R147). -/
theorem entryBase_phase {st : EngineState} (runs : st.runs = true) (s : State) :
    (entryBase st s).mon.runPhase = s.mon.runPhase ∧ (entryBase st s).mon.grace = s.mon.grace := by
  have commanded (c : CommandSet) (t : State) : (commandSet c t).mon.runPhase = t.mon.runPhase ∧ (commandSet c t).mon.grace = t.mon.grace := by
    refine commandSet_keeps (P := fun u => u.mon.runPhase = t.mon.runPhase ∧ u.mon.grace = t.mon.grace) ⟨rfl, rfl⟩ (fun _ _ h => h)
      (fun u o p h => ?_) (fun u code _ h => ?_)
    · cases o <;> exact h
    · have quiet := (Quiet.refl u).reportGone code
      rw [quiet.mon]
      exact h
  have monitored (t : State) : (monitorEntry st t).mon.runPhase = t.mon.runPhase ∧ (monitorEntry st t).mon.grace = t.mon.grace := by
    unfold monitorEntry
    dsimp only
    rw [if_pos runs]
    split <;> exact ⟨rfl, rfl⟩
  have told : (stepperEntry st (entryTold st s)).mon = s.mon := by
    rw [((Stepped.refl (entryTold st s)).stepperEntry st).mon]
    obtain ⟨-, -, -, -, -, -, mon, -⟩ := entryTold_keeps st s
    exact mon
  rw [entryBase_eq, (monitored _).1, (monitored _).2, (commanded _ _).1, (commanded _ _).2, told]
  exact ⟨rfl, rfl⟩

end

/-- Settles O52: the four events in the order of the start. -/
theorem startSequenceMovesOn : Obligations.StartSequenceMovesOn := by
  intro s
  refine ⟨fun state off clear idle => ⟨_, exec_eq_after _ _, ?_⟩, fun state on new => ⟨_, exec_eq_after _ _, ?_⟩,
    fun running settling state estop isolate shutdown => ⟨_, exec_eq_after _ _, ?_⟩, fun not => ⟨_, exec_eq_after _ _, ?_⟩,
    fun state running cranking clear => ⟨_, exec_eq_after _ _, ?_⟩⟩
  · have moves : s.after .prelubeTimeExpiry = enterClaimWait (stateTimerReaches s.params.prelubeLimit s) :=
      (if_pos state).trans (if_neg (by simp [off]))
    rw [moves]
    have waits : Waits (stateTimerReaches s.params.prelubeLimit s) _ := waits_enterClaimWait clear idle
    have frame : TransitionFrame [] s _ := (Deeds.enterClaimWait rfl ((Deeds.plain s).stateTimerReaches s.params.prelubeLimit)
      (.inl (by show s.seq.state.starts = true; rw [state]; rfl))).plainFrame
    generalize enterClaimWait (stateTimerReaches s.params.prelubeLimit s) = v at waits frame ⊢
    exact ⟨waits.entered, frame, waits.records, waits.claim, waits.wants⟩
  · have moves : s.after .prelubeTimeExpiry = raiseMomentary codePrelubeFail (fun t => enterFaulted (takeSnapshot t))
        (stateTimerReaches s.params.prelubeLimit s) := (if_pos state).trans (if_pos (by simp [on]))
    have frame := (deeds_prelubeTimeExpiry (e := true) (s := s) (.inl rfl)).frame (List.nil_subset _) clears_prelubeFail
    have plain := plain_prelubeFail (stateTimerReaches s.params.prelubeLimit s)
    have fixed := newMember_of_fixed (code := codePrelubeFail) (by decide) (stateTimerReaches s.params.prelubeLimit s)
    have calm : Calm ((stateTimerReaches s.params.prelubeLimit s).withMember codePrelubeFail)
        (enterFaulted (takeSnapshot ((stateTimerReaches s.params.prelubeLimit s).withMember codePrelubeFail))) :=
      ((Calm.refl _).setSeq _).trans (calm_enterFaulted _)
    obtain ⟨raises, member⟩ := raises_momentary (f := fun t => enterFaulted (takeSnapshot t)) plain new
      (latchedOf_fixed (by decide) _) calm
    have entered := (entered_enterFaulted (takeSnapshot ((stateTimerReaches s.params.prelubeLimit s).withMember codePrelubeFail))).back
      (s := s) rfl rfl nofun
    have record := raised_record raises
    have seq := enterFaulted_seq (takeSnapshot ((stateTimerReaches s.params.prelubeLimit s).withMember codePrelubeFail))
    rw [fixed] at member
    rw [moves] at frame ⊢
    generalize raiseMomentary codePrelubeFail _ (stateTimerReaches s.params.prelubeLimit s) = w at *
    generalize enterFaulted (takeSnapshot ((stateTimerReaches s.params.prelubeLimit s).withMember codePrelubeFail)) = v at *
    have seq' := raises.quiet.seq.trans seq
    have snapshot : w.seq.snapshot = ⟨.prelube, s.mon.speed, s.stepper.notch⟩ := by
      rw [seq', ← state]
      rfl
    refine ⟨entered.quiet raises.calm raises.quiet, frame, ⟨raises.calm.claim.trans calm.claim, raises.calm.slot.trans calm.slot⟩,
      snapshot, by rw [seq']; rfl, by rw [seq'], ?_, member, raises.alarm⟩
    rw [← state]
    exact record
  · have moves : s.after .settleExpiry = enterCranking (s.setClaim { s.claim with settle := .expired, phase := .cranking }) :=
      (if_pos (by simp [running, settling])).trans (if_pos state)
    have frame := (deeds_settleExpiry (e := true) (s := s) (.inl rfl)).plainFrame
    have eq := enterCranking_eq (s := s.setClaim { s.claim with settle := .expired, phase := .cranking }) estop isolate shutdown
    have entered := (entered_entryBase .cranking (s.setClaim { s.claim with settle := .expired, phase := .cranking })).back (s := s)
      rfl rfl nofun
    have seq := entryBase_seq .cranking (s.setClaim { s.claim with settle := .expired, phase := .cranking })
    have calm := (Calm.refl (s.setClaim { s.claim with settle := .expired, phase := .cranking })).entryBase .cranking
    rw [moves, eq] at frame ⊢
    generalize entryBase .cranking (s.setClaim { s.claim with settle := .expired, phase := .cranking }) = v at *
    exact ⟨entered, frame, recordsKept_of_seq seq, calm.claim, calm.slot⟩
  · have none : s.after .settleExpiry = s := if_neg (by obtain h | h := not <;> simp [h])
    exact none
  · have moves : s.after .fireConfirmExpiry = enterRunup s.fired := by
      refine (if_pos (by simp [state, running])).trans ?_
      unfold fire
      dsimp only
      rw [claimRelease_eq (s := s.setSeq { s.seq with fireConfirm := .expired }) (.inr cranking)]
      rfl
    have chain := deeds_fireConfirmExpiry (e := true) (s := s) (.inl rfl)
    have frame : TransitionFrame [] s (s.after .fireConfirmExpiry) := chain.frame (by simp) Scope.plain_clears
    have eq := enterRunup_eq (s := s.fired) clear
    have entered := (entered_entryBase .runup (s.fired.setRet { s.fired.ret with wasRunning := true })).back (s := s) rfl rfl nofun
    have seq := entryBase_seq .runup (s.fired.setRet { s.fired.ret with wasRunning := true })
    have ret := entryBase_ret .runup (s.fired.setRet { s.fired.ret with wasRunning := true })
    have phase := entryBase_phase (st := .runup) rfl (s.fired.setRet { s.fired.ret with wasRunning := true })
    have calm := (Calm.refl (s.fired.setRet { s.fired.ret with wasRunning := true })).entryBase .runup
    rw [moves, eq] at frame ⊢
    generalize entryBase .runup (s.fired.setRet { s.fired.ret with wasRunning := true }) = v at *
    exact ⟨entered, frame, recordsKept_of_seq seq, calm.claim, calm.slot, phase.1, phase.2, by rw [ret]; rfl⟩

end Sys2Proof.Machine
end


section
/-! The limits of RUNUP, WARMUP, COOLDOWN and STOPPING (R15, R16, R20, R23), and the entry to ONLINE (R18). -/

namespace Sys2Proof.Machine

section
variable {s t u : State} {st : EngineState}

/-! ### ONLINE (R17, R18) -/

/-- In class 0 the stop-delay timer stands at an entry (R105). -/
theorem entryBase_stopDelay (cls : st.rankClass = some 0) (s : State) : (entryBase st s).alloc.stopDelay = s.alloc.stopDelay := by
  have told : (entryTold st s).alloc.stopDelay = s.alloc.stopDelay := by
    unfold entryTold
    dsimp only
    rw [if_pos cls, passTrigger_eq, markStatus_eq]
    rfl
  have stepped := (Stepped.refl (entryTold st s)).stepperEntry st
  have commanded (c : CommandSet) (t : State) : (commandSet c t).alloc.stopDelay = t.alloc.stopDelay := by
    refine commandSet_keeps (P := fun u => u.alloc.stopDelay = t.alloc.stopDelay) rfl (fun _ _ h => h)
      (fun u o p h => ?_) (fun u code _ h => ?_)
    · cases o <;> exact h
    · rw [((Quiet.refl u).reportGone code).alloc]
      exact h
  have monitored (t : State) : (monitorEntry st t).alloc.stopDelay = t.alloc.stopDelay := by
    refine monitorEntry_keeps (P := fun u => u.alloc.stopDelay = t.alloc.stopDelay) rfl (fun _ _ h => h) (fun u code h => ?_) st
    rw [((Quiet.refl u).reportGone code).alloc]
    exact h
  rw [entryBase_eq, monitored, commanded, stepped.alloc, told]

theorem entryBase_alone (st : EngineState) (s : State) : (entryBase st s).view = s.view :=
  viewKept fun p outside => entryBase_only st s p fun mem => outside (by simp [mem])

theorem entryBase_results (st : EngineState) (s : State) : (entryBase st s).alloc.results = s.alloc.results := by
  rw [allocKept fun p outside => entryBase_only st s p fun mem => outside (by simp [mem])]

/-- The allocation stop is decided by what an entry to ONLINE leaves alone (R17). -/
theorem entryBase_allocationStop (s : State) : (entryBase .online s).allocationStop = s.allocationStop := by
  have calm := (Calm.refl s).entryBase .online
  unfold State.allocationStop
  rw [calm.cab, entryBase_results, entryBase_stopDelay rfl, entryBase_seq, entryBase_alone]

/-- ONLINE without a standing cause and without an allocation stop (R18). -/
theorem enterOnline_eq (clear : NoStandingCause s) (stays : s.allocationStop = false) : enterOnline s = entryBase .online s := by
  have calm := (Calm.refl s).entryBase .online
  have clear' := calm.noStandingCause clear
  have stays' := (entryBase_allocationStop s).trans stays
  unfold enterOnline
  dsimp only
  generalize entryBase .online s = v at *
  have hard := hardCause_of_clear clear'
  obtain ⟨-, isolate, classes⟩ := clear'
  have stop : hasClass v.mon.conditions .stop = false := (hasClass_eq_false_iff _ _).2 fun m hm => (classes m hm).2.1
  rw [hard, if_neg nofun, State.isolateActive, isolate, if_neg nofun, stop, if_neg nofun, examineAllocationStop, stays']
  exact if_neg (by simp)

/-- What an entry to ONLINE leaves behind that neither sheds nor steps. -/
structure GoesOnline (s t : State) : Prop where
  entered : Entered .online s t
  frame : TransitionFrame [] s t
  records : RecordsKept s t
  claim : ClaimKept s t
  notch : t.stepper.notch = s.stepper.notch

theorem goesOnline_enterOnline (clear : NoStandingCause s) (stays : s.allocationStop = false) (up : s.params.dwellUp ≠ 0)
    (down : s.params.dwellDown ≠ 0) : GoesOnline s (enterOnline s) := by
  have frame := (Deeds.enterOnline (Deeds.plain s) rfl).plainFrame
  rw [enterOnline_eq clear stays] at frame ⊢
  exact {
    entered := entered_entryBase .online s
    frame := frame
    records := recordsKept_of_seq (entryBase_seq .online s)
    claim := ⟨((Calm.refl s).entryBase .online).claim, ((Calm.refl s).entryBase .online).slot⟩
    notch := by
      rw [entryBase_stepper_slow (s := s) (st := .online) rfl (fun _ => down) fun _ => up]
      rfl }

/-! ### WARMUP (R16) -/

/-- The examination of WARMUP's end with the state timer at least at WARM_MIN. -/
theorem examineWarm_of_reached (state : s.seq.state = .warmup) (least : s.params.warmMin * 1000 ≤ s.seq.stateTimer) :
    examineWarm s = if (s.params.tWarm : Int) ≤ s.mon.coolant.value ∨ s.params.warmMax * 1000 ≤ s.seq.stateTimer then enterOnline s
      else s := by
  unfold examineWarm
  simp only [state, least, decide_true, Bool.true_and, Bool.or_eq_true, decide_eq_true_eq]

theorem after_warmMinExpiry (state : s.seq.state = .warmup) : s.after .warmMinExpiry =
    if (s.params.tWarm : Int) ≤ s.mon.coolant.value ∨ s.params.warmMax * 1000 ≤ max s.seq.stateTimer (s.params.warmMin * 1000) then
      enterOnline (stateTimerReaches s.params.warmMinLimit s)
    else stateTimerReaches s.params.warmMinLimit s :=
  (if_pos state).trans (examineWarm_of_reached (s := stateTimerReaches s.params.warmMinLimit s) state (Nat.le_max_right _ _))

theorem after_warmMaxExpiry (state : s.seq.state = .warmup) (order : s.params.warmMin ≤ s.params.warmMax) :
    s.after .warmMaxExpiry = enterOnline (stateTimerReaches s.params.warmMaxLimit s) := by
  have least : s.params.warmMin * 1000 ≤ max s.seq.stateTimer s.params.warmMaxLimit :=
    (Nat.mul_le_mul_right _ order).trans (Nat.le_max_right _ _)
  refine (if_pos state).trans ((examineWarm_of_reached (s := stateTimerReaches s.params.warmMaxLimit s) state least).trans ?_)
  exact if_pos (.inr (Nat.le_max_right _ _))

/-- ONLINE entered from a station whose state timer has moved. -/
theorem goesOnline_of_reached (limit : Nat) (clear : NoStandingCause s) (stays : s.allocationStop = false)
    (up : s.params.dwellUp ≠ 0) (down : s.params.dwellDown ≠ 0) : GoesOnline s (enterOnline (stateTimerReaches limit s)) := by
  have goes : GoesOnline (stateTimerReaches limit s) _ := goesOnline_enterOnline clear stays up down
  have frame := (Deeds.enterOnline ((Deeds.plain s).stateTimerReaches limit) rfl).plainFrame
  generalize enterOnline (stateTimerReaches limit s) = v at *
  exact ⟨goes.entered, frame, goes.records, goes.claim, goes.notch⟩

/-! ### RUNUP_FAIL and FAIL_TO_STOP (R15, R23) -/

/-- A latched SHUTDOWN or STOP code raised with an entry to STOPPING. -/
theorem stopped_raised {code : Nat} {left : EngineState} (state : s.seq.state = left) (plain : Plain s code)
    (new : hasCode s.mon.conditions code = false) (cause : (s.newMember code).stopCause = true) :
    Stopped left true s (raiseMomentary code enterStopping s) ∧ ClaimKept s (raiseMomentary code enterStopping s)
      ∧ { s.newMember code with cause := false } ∈ (raiseMomentary code enterStopping s).mon.conditions
      ∧ (raiseMomentary code enterStopping s).out.alarm = true := by
  have calm := calm_enterStopping (s.withMember code)
  obtain ⟨raises, member⟩ := raises_momentary plain new ((stopCause_iff _).1 cause).1 calm
  have stopped := stopped_of_decided (stopDecided_withMember new cause)
  rw [show (s.withMember code).seq.state = left from state] at stopped
  refine ⟨(stopped.back ⟨rfl, rfl, rfl, rfl, rfl, rfl, rfl, rfl⟩).raised raises, ⟨raises.calm.claim.trans calm.claim,
    raises.calm.slot.trans calm.slot⟩, member, raises.alarm⟩

theorem newMember_frame_stays {code : Nat} (outside : code ∉ entryCodes) (frame : TransitionFrame [] (s.withMember code) t) :
    s.newMember code ∈ t.mon.conditions := frame.2.2.1 _ (newMember_mem s code) outside

end

/-- Settles O54: the four limits, and that each acts in its own state alone. -/
theorem runningSequenceMovesOn : Obligations.RunningSequenceMovesOn := by
  intro s
  refine ⟨fun state new => ⟨_, exec_eq_after _ _, ?_⟩, fun state => ⟨fun warm clear stays up down => ⟨_, exec_eq_after _ _, ?_⟩,
    fun cold early => ⟨_, exec_eq_after _ _, ?_⟩, fun order clear stays up down => ⟨_, exec_eq_after _ _, ?_⟩⟩,
    fun state law => ⟨_, exec_eq_after _ _, ?_⟩, fun state new => ⟨_, exec_eq_after _ _, ?_⟩,
    fun p mem other => ⟨_, exec_eq_after _ _, ?_⟩⟩
  · have moves : s.after .runupTimeExpiry = raiseMomentary codeRunupFail enterStopping (stateTimerReaches s.params.runupLimit s) :=
      if_pos state
    have frame : TransitionFrame [25] s (s.after .runupTimeExpiry) :=
      (deeds_runupTimeExpiry (e := true) (s := s) (.inl rfl)).frame (List.nil_subset _) (by unfold Scope.clears Scope.codes; decide)
    have fixed := newMember_of_fixed (code := codeRunupFail) (by decide) (stateTimerReaches s.params.runupLimit s)
    obtain ⟨stopped, kept, member, alarm⟩ := stopped_raised (s := stateTimerReaches s.params.runupLimit s) (code := codeRunupFail) state
      (plain_of_fixed (by decide) (by decide) (by decide) (by decide) _) new (by rw [fixed]; rfl)
    rw [fixed] at member
    rw [moves] at frame ⊢
    exact ⟨stopped.back ⟨rfl, rfl, rfl, rfl, rfl, rfl, rfl, rfl⟩, frame, kept, member, alarm⟩
  · have goes := goesOnline_of_reached s.params.warmMinLimit clear stays up down
    rw [after_warmMinExpiry state, if_pos warm]
    exact ⟨goes.entered, goes.frame, goes.records, goes.claim, goes.notch⟩
  · rw [after_warmMinExpiry state, if_neg (not_or.2 ⟨Int.not_le.2 cold, Nat.not_le.2 early⟩)]
    rfl
  · have goes := goesOnline_of_reached s.params.warmMaxLimit clear stays up down
    rw [after_warmMaxExpiry state order]
    exact ⟨goes.entered, goes.frame, goes.records, goes.claim, goes.notch⟩
  · have moves : s.after .cooldownExpiry = enterStopping (stateTimerReaches s.params.cooldownLimit s) := if_pos state
    have frame := (deeds_cooldownExpiry (e := true) (s := s) (.inl rfl)).plainFrame
    have calm : Calm s (stateTimerReaches s.params.cooldownLimit s) := (Calm.refl s).setSeq _
    have stopped := stopped_of_decided (stopDecided_congr (t := stateTimerReaches s.params.cooldownLimit s) (stopDecided_of_law law) rfl)
    rw [show (stateTimerReaches s.params.cooldownLimit s).seq.state = .cooldown from state] at stopped
    have entered := calm_enterStopping (stateTimerReaches s.params.cooldownLimit s)
    rw [moves] at frame ⊢
    exact ⟨stopped.back ⟨rfl, rfl, rfl, rfl, rfl, rfl, rfl, rfl⟩, frame, entered.claim, entered.slot⟩
  · have moves : s.after .stopLimitExpiry = raiseBySequencer codeFailToStop enterFaulted (stateTimerReaches s.params.stopLimitMs s) :=
      if_pos state
    have frame : TransitionFrame [26] s (s.after .stopLimitExpiry) :=
      (deeds_stopLimitExpiry (e := true) (s := s) (.inl rfl)).frame (List.nil_subset _) (by unfold Scope.clears Scope.codes; decide)
    have fixed := newMember_of_fixed (code := codeFailToStop) (by decide) (stateTimerReaches s.params.stopLimitMs s)
    have plain := plain_of_fixed (code := codeFailToStop) (by decide) (by decide) (by decide) (by decide) (stateTimerReaches s.params.stopLimitMs s)
    have calm := calm_enterFaulted ((stateTimerReaches s.params.stopLimitMs s).withMember codeFailToStop)
    have raises := raises_bySequencer plain new (latchedOf_fixed (by decide) _) calm
    have entered := (entered_enterFaulted ((stateTimerReaches s.params.stopLimitMs s).withMember codeFailToStop)).back (s := s) rfl rfl nofun
    have seq := enterFaulted_seq ((stateTimerReaches s.params.stopLimitMs s).withMember codeFailToStop)
    have stays := newMember_frame_stays (code := codeFailToStop) (by decide)
      ((Deeds.plain ((stateTimerReaches s.params.stopLimitMs s).withMember codeFailToStop)).enterFaulted rfl).plainFrame
    have same : (raiseBySequencer codeFailToStop enterFaulted (stateTimerReaches s.params.stopLimitMs s)).mon.conditions
        = (enterFaulted ((stateTimerReaches s.params.stopLimitMs s).withMember codeFailToStop)).mon.conditions := by
      rw [raiseBySequencer_eq plain new]
      exact handChange_conditions _ _ _
    have record := raised_record raises
    rw [fixed] at stays
    rw [moves] at frame ⊢
    generalize raiseBySequencer codeFailToStop enterFaulted (stateTimerReaches s.params.stopLimitMs s) = w at *
    generalize enterFaulted ((stateTimerReaches s.params.stopLimitMs s).withMember codeFailToStop) = v at *
    exact ⟨entered.quiet raises.calm raises.quiet, frame, ⟨raises.calm.claim.trans calm.claim, raises.calm.slot.trans calm.slot⟩,
      recordsKept_of_seq (raises.quiet.seq.trans seq), record, same ▸ stays, raises.alarm⟩
  · simp only [List.mem_cons, List.not_mem_nil, or_false] at mem
    obtain rfl | rfl | rfl | rfl | rfl | rfl | rfl | rfl := mem
    · exact if_neg other
    · exact if_neg other
    · exact if_neg (by simp [show s.seq.state ≠ .cranking from other])
    all_goals exact if_neg other

end Sys2Proof.Machine
end


section
/-! The allocation stop (R17) and the notch's steps (R127 to R131), examined. -/

namespace Sys2Proof.Machine

section
variable {s t u : State}

/-! ### The allocation stop (R17) -/

theorem stopsByAllocation_iff (s : State) : s.stopsByAllocation ↔ s.seq.state = .online ∧ s.allocationStop = true := by
  unfold State.stopsByAllocation State.allocationStop
  cases s.cab.mode with
  | service =>
    simp only [Bool.and_eq_true, Bool.not_eq_true', isExpired_iff, reduceCtorEq, false_implies, and_true, true_implies]
    constructor
    · rintro ⟨state, minRun, rankedIn, delay, alone⟩
      exact ⟨state, ⟨⟨rankedIn, delay⟩, minRun⟩, alone⟩
    · rintro ⟨state, ⟨⟨rankedIn, delay⟩, minRun⟩, alone⟩
      exact ⟨state, minRun, rankedIn, delay, alone⟩
  | layover =>
    simp only [PassResults.runBasis, Bool.and_eq_true, Bool.not_eq_true', Bool.or_eq_false_iff, isExpired_iff, reduceCtorEq, false_implies,
      true_and, true_implies]
    constructor
    · rintro ⟨state, minRun, rankedIn, confirmed⟩
      exact ⟨state, ⟨rankedIn, confirmed⟩, minRun⟩
    · rintro ⟨state, ⟨rankedIn, confirmed⟩, minRun⟩
      exact ⟨state, minRun, rankedIn, confirmed⟩

theorem examineAllocationStop_stays (stays : ¬ s.stopsByAllocation) : examineAllocationStop s = s := by
  rw [stopsByAllocation_iff] at stays
  exact if_neg (by simpa using stays)

theorem examineAllocationStop_stops (stops : s.stopsByAllocation) :
    examineAllocationStop s = enterUnloading (setStopReason .allocation s) :=
  if_pos (by simpa using (stopsByAllocation_iff s).1 stops)

/-- Every examination of the allocation stop. -/
theorem stopExamined_examine (s : State) : StopExamined s (examineAllocationStop s) := by
  have unhurried (clear : NoStandingCause s) : Unhurried (setStopReason .allocation s) :=
    unhurried_of_reason clear.1 (fun m hm => (clear.2.2 m hm).1) (.inr clear)
  refine ⟨examineAllocationStop_stays, fun stops clear dwell notch => ?_, fun stops clear notch time => ?_,
    fun stops clear notch time law => ?_⟩
  · have unloads := unloads_enterUnloading (unhurried clear) notch dwell
    rw [examineAllocationStop_stops stops]
    exact ⟨unloads.entered, unloads.frame, unloads.claim, unloads.records, unloads.notch⟩
  · have cooled := cooled_enterUnloading (unhurried clear) notch time
    rw [examineAllocationStop_stops stops]
    exact ⟨cooled.entered, cooled.frame, cooled.claim, cooled.records⟩
  · obtain ⟨stopped, frame, -⟩ := stopped_enterUnloading (unhurried clear) notch time (stopDecided_of_law law)
    rw [examineAllocationStop_stops stops]
    exact ⟨stopped, frame⟩

/-! ### One step (R127, R130) -/

/-- The setpoint at a notch in the states in which steps are taken (R133). -/
theorem setpointOf_steps {st : EngineState} (steps : st.steps = true) (p : Params) (n : Nat) :
    setpointOf p n st = some (if n = 0 then p.idleSpeed else p.entSpeed.getD (n - 1) 0) := by
  cases st
  case online => exact (apply_ite some _ _ _).symm
  case unloading => exact (apply_ite some _ _ _).symm
  all_goals cases steps

theorem deriveSetpoint_some {rpm : Nat} (derived : setpointOf s.params s.stepper.notch s.seq.state = some rpm)
    (differs : s.stepper.setpoint ≠ some rpm) :
    deriveSetpoint s = portMark .setpointWrite (s.setStepper { s.stepper with setpoint := some rpm }) := by
  unfold deriveSetpoint
  dsimp only
  rw [derived, if_neg (Ne.symm differs)]

theorem stepTo_stepNotch {n : Nat} (steps : s.seq.state.steps = true) (other : n ≠ s.stepper.notch) : StepTo n s (stepNotch n s) := by
  have setpoint := setpointOf_steps steps s.params n
  have set : stepNotch n s = markStatus (deriveSetpoint (s.setStepper { s.stepper with notch := n, dwell := .restarted })) := if_neg other
  rw [set, markStatus_eq_withMark, StepTo]
  dsimp only
  generalize (if n = 0 then s.params.idleSpeed else s.params.entSpeed.getD (n - 1) 0) = rpm at setpoint
  by_cases same : s.stepper.setpoint = some rpm
  · have still : deriveSetpoint (s.setStepper { s.stepper with notch := n, dwell := .restarted })
        = s.setStepper { s.stepper with notch := n, dwell := .restarted } := if_pos (setpoint.trans same.symm)
    rw [still]
    refine ⟨?_, fun _ => rfl, fun differs => absurd same differs⟩
    rw [← same]
    rfl
  · have moved : deriveSetpoint (s.setStepper { s.stepper with notch := n, dwell := .restarted })
        = portMark .setpointWrite (s.setStepper ⟨n, .restarted, some rpm⟩) :=
      deriveSetpoint_some (s := s.setStepper { s.stepper with notch := n, dwell := .restarted }) setpoint same
    obtain ⟨eq, granted⟩ := portGrant_setPort (s.setStepper ⟨n, .restarted, some rpm⟩) (s.port.withMark .setpointWrite)
    have marked : portMark .setpointWrite (s.setStepper ⟨n, .restarted, some rpm⟩)
        = portGrant ((s.setStepper ⟨n, .restarted, some rpm⟩).setPort (s.port.withMark .setpointWrite)) := rfl
    rw [moved, marked]
    generalize portGrant ((s.setStepper ⟨n, .restarted, some rpm⟩).setPort (s.port.withMark .setpointWrite)) = v at eq granted ⊢
    generalize v.port = p at eq granted
    subst eq
    exact ⟨rfl, fun e => absurd e same, fun _ => granted.of_same rfl rfl⟩

/-! ### The examination (R130) -/

/-- A step up is due (R130). -/
def State.stepsUp (s : State) : Prop :=
  s.seq.state.steps = true ∧ s.stepper.notch < s.effectiveTarget ∧ s.params.dwellUp * 100 ≤ s.stepper.dwell.count

/-- A step down is due (R130). -/
def State.stepsDown (s : State) : Prop :=
  s.seq.state.steps = true ∧ s.effectiveTarget < s.stepper.notch ∧ s.params.dwellDown * 100 ≤ s.stepper.dwell.count

theorem examineStep_up (up : s.stepsUp) : examineStep s = stepNotch (s.stepper.notch + 1) s := by
  obtain ⟨steps, above, dwell⟩ := up
  exact (if_pos steps).trans ((if_pos above).trans (if_pos dwell))

theorem examineStep_down (down : s.stepsDown) : examineStep s = stepNotch (s.stepper.notch - 1) s := by
  obtain ⟨steps, below, dwell⟩ := down
  exact (if_pos steps).trans ((if_neg (by omega)).trans ((if_pos below).trans (if_pos dwell)))

theorem examineStep_none (up : ¬ s.stepsUp) (down : ¬ s.stepsDown) : examineStep s = s := by
  unfold examineStep
  split
  · next steps =>
    split
    · next above => exact if_neg fun dwell => up ⟨steps, above, dwell⟩
    split
    · next below => exact if_neg fun dwell => down ⟨steps, below, dwell⟩
    · rfl
  · rfl

/-- The step is the Stepper's alone, unless it is the last one of UNLOADING (R127). -/
theorem stepperExamine_of_step {n : Nat} (eq : examineStep s = stepNotch n s) (other : n ≠ s.stepper.notch)
    (alone : s.seq.state ≠ .unloading ∨ n ≠ 0) : stepperExamine s = stepNotch n s := by
  have state : (stepNotch n s).seq.state = s.seq.state := by rw [((Stepped.refl s).stepNotch n).seq]
  have notch : (stepNotch n s).stepper.notch = n := by
    have set := setNotch_stepper (s := s.setStepper { s.stepper with dwell := .restarted }) other
    rw [stepNotch, set]
  unfold stepperExamine
  dsimp only
  rw [eq, if_neg]
  rw [Bool.and_eq_true, Bool.and_eq_true, decide_eq_true_eq, decide_eq_true_eq, state, notch]
  rintro ⟨⟨unloading, zero⟩, -⟩
  exact alone.elim (· unloading) (· zero)

theorem stepperExamine_last (down : s.stepsDown) (state : s.seq.state = .unloading) (notch : s.stepper.notch = 1) :
    stepperExamine s = enterCooldown (stepNotch 0 s) := by
  have eq : examineStep s = stepNotch 0 s := by rw [examineStep_down down, notch]
  have state' : (stepNotch 0 s).seq.state = s.seq.state := by rw [((Stepped.refl s).stepNotch 0).seq]
  have notch' : (stepNotch 0 s).stepper.notch = 0 := by
    have set := setNotch_stepper (s := s.setStepper { s.stepper with dwell := .restarted }) (n := 0) (by simp [notch])
    rw [stepNotch, set]
  unfold stepperExamine
  dsimp only
  rw [eq, if_pos]
  rw [state', notch', state, notch]
  rfl

/-- The last step of UNLOADING leads to COOLDOWN (R19, R127). -/
theorem lastStep_cools (clear : NoStandingCause s) (time : s.params.cooldown ≠ 0) (one : s.stepper.notch ≠ 0) :
    Entered .cooldown s (enterCooldown (stepNotch 0 s)) ∧ RecordsKept s (enterCooldown (stepNotch 0 s))
      ∧ ClaimKept s (enterCooldown (stepNotch 0 s)) ∧ (enterCooldown (stepNotch 0 s)).stepper.notch = 0 := by
  have calm := (Calm.refl s).stepNotch 0
  have stepped := (Stepped.refl s).stepNotch 0
  have notch : (stepNotch 0 s).stepper.notch = 0 := by
    have set := setNotch_stepper (s := s.setStepper { s.stepper with dwell := .restarted }) (n := 0) one.symm
    rw [stepNotch, set]
  have clear' := calm.noStandingCause clear
  generalize stepNotch 0 s = v at *
  rw [enterCooldown_waits ⟨clear'.1, fun m hm => (clear'.2.2 m hm).1, .inr clear'⟩ (by rw [stepped.params]; exact time)]
  have calm' := (Calm.refl v).entryBase .cooldown
  have seq := entryBase_seq .cooldown v
  rw [stepped.seq] at seq
  refine ⟨(entered_entryBase .cooldown v).back calm.enabled calm.phase nofun, recordsKept_of_seq seq,
    ⟨calm'.claim.trans calm.claim, calm'.slot.trans calm.slot⟩, ?_⟩
  rw [entryBase_stepper_steady rfl]
  exact notch

/-- Every examination of R130. -/
theorem stepExamined_stepperExamine (s : State) : StepExamined s (stepperExamine s) := by
  refine ⟨fun up => ?_, fun down alone => ?_, fun down state notch clear time => ?_, fun up down => ?_⟩
  · rw [stepperExamine_of_step (examineStep_up up) (Nat.succ_ne_self _) (.inr (Nat.succ_ne_zero _))]
    exact stepTo_stepNotch up.1 (Nat.succ_ne_self _)
  · have some : s.stepper.notch ≠ 0 := fun zero => absurd down.2.1 (by rw [zero]; exact Nat.not_lt_zero _)
    rw [stepperExamine_of_step (examineStep_down down) (by omega) ?_]
    · exact stepTo_stepNotch down.1 (by omega)
    · obtain online | other := alone
      · exact .inl (by rw [online]; nofun)
      · exact .inr (by omega)
  · obtain ⟨entered, records, kept, zero⟩ := lastStep_cools clear time (by rw [notch]; nofun)
    have frame := (Deeds.stepperExamine (Deeds.plain s)).plainFrame
    rw [stepperExamine_last down state notch] at frame ⊢
    exact ⟨entered, frame, records, kept, zero⟩
  · unfold stepperExamine
    dsimp only
    rw [examineStep_none up down]
    exact if_neg (by simp)

end

/-- Settles O55: by the examinations that the four expiries let be made. -/
theorem onlineEngineStepsAndStops : Obligations.OnlineEngineStepsAndStops := by
  intro s
  refine ⟨fun running => ⟨_, exec_eq_after _ _, ?_⟩, fun running => ⟨_, exec_eq_after _ _, ?_⟩,
    fun running fresh reached => ⟨_, exec_eq_after _ _, ?_⟩, fun running fresh reached => ⟨_, exec_eq_after _ _, ?_⟩,
    fun not => ⟨_, exec_eq_after _ _, ?_⟩, fun not => ⟨_, exec_eq_after _ _, ?_⟩⟩
  · rw [show s.after .minRunExpiry = examineAllocationStop (s.setSeq { s.seq with minRun := .expired }) from if_pos running]
    exact stopExamined_examine _
  · rw [show s.after .stopDelayExpiry = examineAllocationStop (s.setAlloc { s.alloc with stopDelay := .expired }) from if_pos running]
    exact stopExamined_examine _
  · rw [show s.after .upDwellEvent = stepperExamine (s.setStepper { s.stepper with dwell := { s.stepper.dwell with upGiven := true } })
      from if_pos (by simp only [running, fresh, Bool.not_false, Bool.true_and, decide_eq_true_eq]; exact reached)]
    exact stepExamined_stepperExamine _
  · rw [show s.after .downDwellEvent = stepperExamine (s.setStepper { s.stepper with dwell := { s.stepper.dwell with downGiven := true } })
      from if_pos (by simp only [running, fresh, Bool.not_false, Bool.true_and, decide_eq_true_eq]; exact reached)]
    exact stepExamined_stepperExamine _
  · refine if_neg ?_
    simp only [Bool.and_eq_true, Bool.not_eq_true', decide_eq_true_eq]
    rintro ⟨⟨running, fresh⟩, reached⟩
    obtain h | h | h := not
    · simp [h] at running
    · simp [h] at fresh
    · exact absurd reached (Nat.not_le.2 h)
  · refine if_neg ?_
    simp only [Bool.and_eq_true, Bool.not_eq_true', decide_eq_true_eq]
    rintro ⟨⟨running, fresh⟩, reached⟩
    obtain h | h | h := not
    · simp [h] at running
    · simp [h] at fresh
    · exact absurd reached (Nat.not_le.2 h)

end Sys2Proof.Machine
end


section
/-! The Allocator's pass: start, publication and drain (R86 to R91, R66, R69), and what a pass end leads to (R7, R9, R11, R17, R21). -/

namespace Sys2Proof.Machine

section
variable {s t u p q : State}

/-! ### The pass's start (R75, R89) -/

theorem viewAtPassStart_peers (s : State) : s.viewAtPassStart = { s.view with peers := s.viewAtPassStart.peers } := by
  unfold State.viewAtPassStart
  dsimp only
  split <;> rfl

/-- Every changed mark is cleared, and the self entry is built (R74, R75). -/
theorem viewAtPassStart_entries (s : State) (i : Fin 7) : s.viewAtPassStart.entry i =
    { (if s.load.station = i.val + 1 then (s.view.entry i).asSelf s.selfRecord else s.view.entry i) with changed := false } := by
  have cleared (v : ConsistView) : ConsistView.entry { v with peers := v.peers.map fun e => { e with changed := false } } i
      = { v.entry i with changed := false } := Vector.getElem_map _ _
  unfold State.viewAtPassStart
  dsimp only
  rw [cleared]
  cases found : peerIndex s.load.station with
  | none =>
    rw [if_neg fun own => by simp [(peerIndex_eq_some_iff _ i).2 own] at found]
  | some k =>
    dsimp only
    rw [entry_setEntry]
    by_cases same : k = i
    · subst same
      rw [if_pos rfl, if_pos ((peerIndex_eq_some_iff _ _).1 found)]
    · rw [if_neg same, if_neg fun own => same (Option.some.inj (found.symm.trans ((peerIndex_eq_some_iff _ i).2 own)))]

theorem selfOfPass_eq (s : State) : s.takeSnapshotOfPass.self
    = if 1 ≤ s.load.station ∧ s.load.station ≤ 7 then some s.selfRecord else none := by
  show (peerIndex s.load.station).map (fun _ => s.selfRecord) = _
  unfold peerIndex
  split <;> rfl

/-! ### The pass's end (R66, R91) -/

/-- READY again, and the drain of the post list begun (R66, R91). -/
def State.drains (s : State) : State := beginDrain (enterReady s)

theorem published_eq (s : State) : s.published = (publish s.passResults s).drains := by
  have delay : s.stopDelayAtPassEnd s.passResults = s.delayAfter s.passResults := by
    unfold State.stopDelayAtPassEnd State.delayAfter
    cases s.passResults.rankedIn <;> simp
  unfold publish State.published
  rw [delay, markStatusIf_eq_withMarkIf]
  cases s.passResults.target != s.alloc.results.target <;> rfl

theorem takeHeldExpiries_of_none (free : s.nothingHeld) : takeHeldExpiries s = s := by
  have stays (l : List (Fin 7)) : l.foldl takeIfHeld s = s := by
    induction l with
    | nil => rfl
    | cons i l ih =>
      rw [List.foldl_cons, takeIfHeld, if_neg (by simp [free i])]
      exact ih
  rw [takeHeldExpiries_eq, stays]

/-- A pass end with no age expiry held: the examinations after the publication, then the drain (R91). -/
theorem after_passEnd_free (pass : s.alloc.phase = .inPass) (free : s.nothingHeld) : s.after .passEnd
    = (stepperExamine (sequencerPassEnd (publish s.passResults s))).drains := by
  have peers := (passEnd_kept s).1
  rw [after_passEnd pass]
  have held : (enterReady (stepperExamine (sequencerPassEnd (publish s.passResults s)))).nothingHeld := by
    intro i
    show ((stepperExamine (sequencerPassEnd (publish s.passResults s))).view.peers[i]).heldExpiry = false
    rw [peers]
    exact free i
  rw [takeHeldExpiries_of_none held]
  rfl

/-! ### What is examined before READY is examined of the published station -/

theorem Entered.drains {st : EngineState} (h : Entered st p u) (phase : p.alloc.phase = .inPass) :
    Entered st p.drains u.drains := by
  obtain ⟨state, timer, confirm, commands, marked, again, delay⟩ := h
  exact ⟨state, timer, confirm, commands, marked, fun _ => again (.inr phase), delay⟩

theorem frame_drains (frame : TransitionFrame [] p u) : TransitionFrame [] p.drains u.drains := by
  obtain ⟨cab, ⟨view, load, params, mailbox, queue, link, alloc, claim, port, mon, feedback, ret⟩, conditions⟩ := frame
  refine ⟨cab, ⟨view, load, params, mailbox, queue, ?_, ?_, claim, port, mon, feedback, ret⟩, conditions⟩
  · show ({ u.link with draining := !u.link.postList.isEmpty, drainLeft := u.link.postList.length } : LinkUnit) = _
    rw [link]
    rfl
  · show ({ u.alloc with phase := .ready } : Allocator) = _
    rw [alloc]
    rfl

theorem Stopped.drains {left : EngineState} {latched : Bool} (h : Stopped left latched p u) (phase : p.alloc.phase = .inPass) :
    Stopped left latched p.drains u.drains :=
  ⟨h.1.drains phase, h.2⟩

theorem StepTo.drains {n : Nat} (h : StepTo n p u) : StepTo n p.drains u.drains := by
  obtain ⟨eq, same, moved⟩ := h
  refine ⟨?_, same, fun differs => (moved differs).of_same rfl rfl⟩
  generalize u.port = x at eq same moved
  subst eq
  rfl

theorem StepExamined.drains (h : StepExamined p u) (phase : p.alloc.phase = .inPass) : StepExamined p.drains u.drains := by
  obtain ⟨up, down, last, stays⟩ := h
  refine ⟨fun a => StepTo.drains (up a), fun a b => StepTo.drains (down a b), fun a b c d e => ?_, fun a b => congrArg State.drains (stays a b)⟩
  obtain ⟨entered, frame, records, kept, notch⟩ := last a b c d e
  exact ⟨Entered.drains entered phase, frame_drains frame, records, kept, notch⟩

theorem StopExamined.drains (h : StopExamined p u) (phase : p.alloc.phase = .inPass) : StopExamined p.drains u.drains := by
  obtain ⟨stays, sheds, cools, stops⟩ := h
  refine ⟨fun a => congrArg State.drains (stays a), fun a b c d => ?_, fun a b c d => ?_, fun a b c d e => ?_⟩
  · obtain ⟨entered, frame, kept, records, notch⟩ := sheds a b c d
    exact ⟨Entered.drains entered phase, frame_drains frame, kept, records, notch⟩
  · obtain ⟨entered, frame, kept, records⟩ := cools a b c d
    exact ⟨Entered.drains entered phase, frame_drains frame, kept, records⟩
  · obtain ⟨stopped, frame⟩ := stops a b c d e
    exact ⟨Stopped.drains stopped phase, frame_drains frame⟩

/-! ### The Sequencer at a pass end (R7, R9, R11, R17, R21) -/

theorem stepperExamine_of_steady (steady : s.seq.state.steps = false) : stepperExamine s = s := by
  unfold stepperExamine
  dsimp only
  rw [examineStep_of_steady steady, if_neg]
  have other : s.seq.state ≠ .unloading := fun e => by rw [e] at steady; cases steady
  simp [other]

/-- A dwell count just restarted gives no step (R129). -/
theorem stepperExamine_of_fresh (dwell : s.stepper.dwell.count = 0) (up : s.params.dwellUp ≠ 0) (down : s.params.dwellDown ≠ 0) :
    stepperExamine s = s := by
  unfold stepperExamine
  dsimp only
  rw [examineStep_fresh dwell (fun _ => up) fun _ => down, if_neg]
  simp

/-! The Sequencer's own examination by the state that it finds. -/

theorem sequencerPassEnd_stopped (state : s.seq.state = .stopped) : sequencerPassEnd s =
    if s.alloc.results.runBasis && s.alloc.results.selfEligible && !s.view.alone && !s.estopActive then
      if s.params.prelubeTime = 0 then enterClaimWait s else enterPrelube s
    else s := by
  simp only [sequencerPassEnd, state]

theorem sequencerPassEnd_starting (state : s.seq.state ∈ [.prelube, .claimWait, .claimSettle]) :
    sequencerPassEnd s = if s.alloc.results.runBasis then s else cancelStart s := by
  simp only [List.mem_cons, List.not_mem_nil, or_false] at state
  obtain e | e | e := state <;> simp only [sequencerPassEnd, e]

theorem sequencerPassEnd_stopping (state : s.seq.state = .unloading ∨ s.seq.state = .cooldown) : sequencerPassEnd s =
    if s.alloc.results.runBasis && s.seq.stopReason = .allocation then enterOnline (setStopReason .none s) else s := by
  obtain e | e := state <;> simp only [sequencerPassEnd, e]

theorem sequencerPassEnd_online (state : s.seq.state = .online) : sequencerPassEnd s = examineAllocationStop s := by
  simp only [sequencerPassEnd, state]

theorem sequencerPassEnd_deaf (state : s.seq.state ∈ [.init, .isolated, .cranking, .runup, .warmup, .stopping, .faulted]) :
    sequencerPassEnd s = s := by
  simp only [List.mem_cons, List.not_mem_nil, or_false] at state
  obtain e | e | e | e | e | e | e := state <;> simp only [sequencerPassEnd, e]

/-- Nothing but an allocation stop comes of an examination in ONLINE; its entries take no step (R129; log 11). -/
theorem stopExamined_passEnd (stops : s.stopsByAllocation) : StopExamined s (stepperExamine (examineAllocationStop s)) := by
  have examined := stopExamined_examine s
  rw [examineAllocationStop_stops stops] at examined ⊢
  refine ⟨fun stays => absurd stops stays, fun a clear dwell notch => ?_, fun a clear notch time => ?_, fun a clear notch time law => ?_⟩
  · have h := examined.2.1 a clear dwell notch
    have unhurried : Unhurried (setStopReason .allocation s) :=
      unhurried_of_reason clear.1 (fun m hm => (clear.2.2 m hm).1) (.inr clear)
    have stepper := entryBase_stepper_slow (s := setStopReason .allocation s) (st := .unloading) rfl (fun _ => dwell) nofun
    have params := entryBase_params .unloading (setStopReason .allocation s)
    have seq := entryBase_seq .unloading (setStopReason .allocation s)
    rw [enterUnloading_sheds unhurried notch dwell] at h ⊢
    generalize entryBase .unloading (setStopReason .allocation s) = v at *
    have still : stepperExamine v = v := by
      have state : v.seq.state = .unloading := by rw [seq]
      have fresh : examineStep v = v := by
        refine examineStep_fresh (by rw [stepper]; rfl) (fun above => ?_) fun _ => by rw [params]; exact dwell
        rw [State.effectiveTarget, state] at above
        exact absurd above (Nat.not_lt_zero _)
      unfold stepperExamine
      dsimp only
      rw [fresh, if_neg]
      simp
    rwa [still]
  · have h := examined.2.2.1 a clear notch time
    rwa [stepperExamine_of_steady (by rw [h.1.1]; rfl)]
  · have h := examined.2.2.2 a clear notch time law
    have steady : (stoppingLeads s.stopLatched s).steps = false := by
      unfold stoppingLeads
      split
      · split
        · rfl
        · split <;> rfl
      · rfl
    rwa [stepperExamine_of_steady (by rw [h.1.1.1]; exact steady)]

/-- PRELUBE without a standing cause (R8). -/
theorem enterPrelube_eq (clear : NoStandingCause s) : enterPrelube s = entryBase .prelube s := by
  have clear' := ((Calm.refl s).entryBase .prelube).noStandingCause clear
  unfold enterPrelube
  dsimp only
  rw [hardCause_of_clear clear', if_neg nofun, cancelCause_of_clear clear', if_neg nofun]

/-- The results of a pass that gives a run basis bring no allocation stop (R17, R105). -/
theorem published_stays (basis : s.passResults.runBasis = true) : (publish s.passResults s).allocationStop = false := by
  have alloc : (publish s.passResults s).alloc
      = { s.alloc with results := s.passResults, stopDelay := s.stopDelayAtPassEnd s.passResults } := by
    unfold publish
    rw [markStatusIf_eq]
    rfl
  have mode : (publish s.passResults s).cab.mode = s.cab.mode := by
    unfold publish
    rw [markStatusIf_eq]
    rfl
  unfold State.allocationStop
  rw [mode, alloc]
  cases s.cab.mode with
  | layover => simp [basis]
  | service =>
    obtain ranked | confirmed := (runBasis_iff _).1 basis
    · simp [ranked]
    · have layover := ((passResults_coldRunConfirmed_iff s).1 confirmed).1
      have snapMode : s.passResults.mode = s.alloc.snapshot.mode := by
        cases self : s.alloc.snapshot.self <;> simp [State.passResults, self]
      have stopped : s.stopDelayAtPassEnd s.passResults = .stopped := by
        unfold State.stopDelayAtPassEnd
        rw [if_neg (c := s.passResults.mode = .service ∧ _ ∧ _) (by simp [snapMode, layover]), ite_self]
      simp [stopped, Timer.isExpired]

/-- The station with the results of a pass published, before the Sequencer examines them. -/
structure PassPublished (s p : State) : Prop where
  drained : s.published = p.drains
  after : s.after .passEnd = (stepperExamine (sequencerPassEnd p)).drains
  rest : p = { s with link := p.link, alloc := p.alloc }
  results : p.alloc.results = s.passResults
  phase : p.alloc.phase = .inPass
  slot : p.link.claimSlot = s.link.claimSlot
  enabled : p.link.txEnabled = s.link.txEnabled
  stays : s.passResults.runBasis = true → p.allocationStop = false

theorem passPublished (pass : s.alloc.phase = .inPass) (free : s.nothingHeld) : PassPublished s (publish s.passResults s) where
  drained := published_eq s
  after := after_passEnd_free pass free
  rest := by unfold publish; rw [markStatusIf_eq]; rfl
  results := by unfold publish; rw [markStatusIf_eq]; rfl
  phase := by unfold publish; rw [markStatusIf_eq]; exact pass
  slot := by unfold publish; rw [markStatusIf_eq]; rfl
  enabled := by unfold publish; rw [markStatusIf_eq]; rfl
  stays := published_stays

/-- Where the Sequencer takes no transition and the Stepper no step, the published results are all. -/
theorem PassPublished.still (h : PassPublished s p) (none : sequencerPassEnd p = p) (steady : p.seq.state.steps = false) :
    s.after .passEnd = s.published := by
  rw [h.after, none, stepperExamine_of_steady steady, h.drained]

/-- Where the Sequencer takes no transition, the notch is examined. -/
theorem PassPublished.steps (h : PassPublished s p) (none : sequencerPassEnd p = p) : StepExamined s.published (s.after .passEnd) := by
  rw [h.after, none, h.drained]
  exact (stepExamined_stepperExamine p).drains h.phase

/-- Where the Sequencer makes an entry to a state without steps, that is all. -/
theorem PassPublished.moves (h : PassPublished s p) (moves : sequencerPassEnd p = u) (steady : u.seq.state.steps = false) :
    s.after .passEnd = u.drains := by
  rw [h.after, moves, stepperExamine_of_steady steady]

theorem PassPublished.frame (h : PassPublished s p) : TransitionFrame [] s.published (s.after .passEnd) := by
  rw [h.drained, h.after]
  exact frame_drains (Deeds.plain p).sequencerPassEnd.stepperExamine.plainFrame

end

/-- Settles O51: by the state that the pass end finds, of the station as published. -/
theorem passEndsStartAndStopTheEngine : Obligations.PassEndsStartAndStopTheEngine := by
  intro s r basis q pass free
  have published := passPublished pass free
  have frame : TransitionFrame [] q (s.after .passEnd) := published.frame
  have drained : q = (publish s.passResults s).drains := published.drained
  generalize publish s.passResults s = p at published drained
  have results : p.alloc.results = r := published.results
  have phase := published.phase
  have seq : p.seq = s.seq := by rw [published.rest]
  have cab : p.cab = s.cab := by rw [published.rest]
  have view : p.view = s.view := by rw [published.rest]
  have mon : p.mon = s.mon := by rw [published.rest]
  have params : p.params = s.params := by rw [published.rest]
  have claim : p.claim = s.claim := by rw [published.rest]
  have stepper : p.stepper = s.stepper := by rw [published.rest]
  have runBasis : p.alloc.results.runBasis = basis := by rw [results]; rfl
  have isClear (clear : NoStandingCause s) : NoStandingCause p := by rw [NoStandingCause, cab, mon]; exact clear
  have starts : (p.alloc.results.runBasis && p.alloc.results.selfEligible && !p.view.alone && !p.estopActive)
      = (basis && r.selfEligible && !s.view.alone && !s.cab.estop.qualified) := by
    rw [runBasis, results, view, State.estopActive, cab]
  refine ⟨fun state based eligible together clear => ⟨fun time => ⟨_, exec_eq_after _ _, ?_⟩,
      fun time idle => ⟨_, exec_eq_after _ _, ?_⟩⟩, fun state barred => ⟨_, exec_eq_after _ _, ?_⟩,
    fun state => ⟨fun based => ⟨_, exec_eq_after _ _, ?_⟩, fun baseless => ⟨_, exec_eq_after _ _, ?_⟩⟩,
    fun state up down => ⟨fun based reason clear => ⟨_, exec_eq_after _ _, ?_⟩, fun barred => ⟨_, exec_eq_after _ _, ?_⟩⟩,
    fun state => ⟨_, exec_eq_after _ _, fun stops => ?_, fun not => ?_⟩⟩ <;> rw [← seq] at state
  · have moves : sequencerPassEnd p = entryBase .prelube p := by
      rw [sequencerPassEnd_stopped state, starts, if_pos (by simp [based, eligible, together, clear.1]),
        if_neg (by rw [params]; exact time), enterPrelube_eq (isClear clear)]
    have entry := entryBase_seq .prelube p
    have calm := (Calm.refl p).entryBase .prelube
    have entered := entered_entryBase .prelube p
    rw [published.moves moves (by rw [entry]; rfl), drained] at frame ⊢
    generalize entryBase .prelube p = v at *
    exact ⟨entered.drains phase, frame, recordsKept_of_seq entry, calm.claim, calm.slot⟩
  · have moves : sequencerPassEnd p = enterClaimWait p := by
      rw [sequencerPassEnd_stopped state, starts, if_pos (by simp [based, eligible, together, clear.1]),
        if_pos (by rw [params]; exact time)]
    have waits := waits_enterClaimWait (isClear clear) (by rw [claim]; exact idle)
    rw [published.moves moves (by rw [waits.entered.1]; rfl), drained] at frame ⊢
    generalize enterClaimWait p = v at *
    refine ⟨waits.entered.drains phase, frame, waits.records, ?_, waits.wants⟩
    show v.claim.attempt = s.seq.attempts + 1
    rw [waits.claim, seq]
  · refine published.still ?_ (by rw [state]; rfl)
    rw [sequencerPassEnd_stopped state, starts, if_neg]
    simp only [Bool.and_eq_true, Bool.not_eq_true']
    rintro ⟨⟨⟨based, eligible⟩, together⟩, estop⟩
    obtain h | h | h | h := barred
    · exact absurd based (by simp [h])
    · exact absurd eligible (by simp [h])
    · exact absurd together (by simp [h])
    · exact absurd estop (by simp [h])
  · refine published.still ?_ ?_
    · rw [sequencerPassEnd_starting state, runBasis, if_pos based]
    · simp only [List.mem_cons, List.not_mem_nil, or_false] at state
      obtain e | e | e := state <;> rw [e] <;> rfl
  · have moves : sequencerPassEnd p = cancelStart p := by
      rw [sequencerPassEnd_starting state, runBasis, baseless, if_neg nofun]
    have cancelled := cancelled_cancelStart p
    have leads : p.stoppedOrIsolated = if s.cab.isolate.qualified then .isolated else .stopped := by
      rw [State.stoppedOrIsolated, cab]
    rw [published.moves moves (by rw [cancelled.entered.1]; exact stoppedOrIsolated_steady p), drained] at frame ⊢
    generalize cancelStart p = v at *
    have entered := cancelled.entered.drains phase
    rw [leads] at entered
    refine ⟨entered, frame, cancelled.attempts, cancelled.reason, cancelled.rest.trans (by rw [seq]), fun settles settling => ?_⟩
    have dropped := dropClaim_of_held (s := p) (.inl (by rw [seq]; exact settles)) (.inl (by rw [claim]; exact settling))
    refine ⟨cancelled.claim.trans ?_, cancelled.slot.trans ?_⟩
    · rw [dropped, ← claim, ← params]
    · rw [dropped]
      show p.slotReleasing .abandoned = s.slotReleasing .abandoned
      rw [State.slotReleasing, State.slotReleasing, published.slot, published.enabled]
  · have online : NoStandingCause (setStopReason .none p) := isClear clear
    have stays : (setStopReason .none p).allocationStop = false := published.stays based
    have moves : sequencerPassEnd p = enterOnline (setStopReason .none p) := by
      rw [sequencerPassEnd_stopping state, runBasis, seq, reason, based]
      rfl
    have goes := goesOnline_enterOnline online stays (by show p.params.dwellUp ≠ 0; rw [params]; exact up)
      (by show p.params.dwellDown ≠ 0; rw [params]; exact down)
    have entered := (goes.entered).back (s := p) rfl rfl nofun
    have entry := entryBase_params .online (setStopReason .none p)
    have fresh := entryBase_stepper_slow (s := setStopReason .none p) (st := .online) rfl
      (fun _ => by show p.params.dwellDown ≠ 0; rw [params]; exact down) fun _ => by show p.params.dwellUp ≠ 0; rw [params]; exact up
    rw [← enterOnline_eq online stays] at entry fresh
    rw [published.after, moves, drained] at frame ⊢
    obtain ⟨-, -, records, kept, notch⟩ := goes
    generalize enterOnline (setStopReason .none p) = v at *
    have still : stepperExamine v = v := stepperExamine_of_fresh (by rw [fresh]; rfl) (by rw [entry]; show p.params.dwellUp ≠ 0; rw [params]; exact up)
      (by rw [entry]; show p.params.dwellDown ≠ 0; rw [params]; exact down)
    rw [still] at frame ⊢
    refine ⟨entered.drains phase, frame, ?_, notch.trans (by show p.stepper.notch = _; rw [stepper]), kept⟩
    rw [← seq]
    exact records
  · have none : sequencerPassEnd p = p := by
      rw [sequencerPassEnd_stopping state, runBasis, if_neg]
      obtain h | h := barred
      · simp [h]
      · simp [seq, h]
    exact published.steps none
  · have stops' : p.stopsByAllocation := by
      rw [drained] at stops
      exact stops
    rw [published.after, sequencerPassEnd_online state, drained]
    exact (stopExamined_passEnd stops').drains phase
  · have none : sequencerPassEnd p = p := by
      rw [sequencerPassEnd_online state]
      exact examineAllocationStop_stays (by rw [drained] at not; exact not)
    exact published.steps none

end Sys2Proof.Machine
end


section
/-! The listen and evaluation expiries, the pass's start and its end (R66, R69, R87 to R91). -/

namespace Sys2Proof.Machine

section
variable {s : State}

/-- What every pass end leaves of the Allocator, the link and the view (R66, R69, R91). -/
theorem passEnd_leaves (pass : s.alloc.phase = .inPass) :
    (s.after .passEnd).alloc.results = s.passResults ∧ (s.after .passEnd).alloc.phase = .ready
      ∧ (s.after .passEnd).alloc.snapshot = s.alloc.snapshot
      ∧ (s.after .passEnd).link.draining = !s.link.postList.isEmpty
      ∧ (s.after .passEnd).link.drainLeft = s.link.postList.length ∧ (s.after .passEnd).link.postList = s.link.postList
      ∧ ∀ i : Fin 7, (s.after .passEnd).view.entry i
        = if (s.view.entry i).heldExpiry = true then (s.view.entry i).lost else s.view.entry i := by
  have published : (publish s.passResults s).alloc.results = s.passResults
      ∧ (publish s.passResults s).alloc.snapshot = s.alloc.snapshot
      ∧ (publish s.passResults s).link.postList = s.link.postList := by
    unfold publish
    rw [markStatusIf_eq]
    exact ⟨rfl, rfl, rfl⟩
  have chain := (Deeds.plain (publish s.passResults s)).sequencerPassEnd.stepperExamine.handed (List.nil_subset _)
  have alloc := allocKept chain
  have link := linkKept chain
  have peers := (passEnd_kept s).1
  rw [after_passEnd pass]
  generalize stepperExamine (sequencerPassEnd (publish s.passResults s)) = u at *
  have results : u.alloc.results = s.passResults := by rw [alloc]; exact published.1
  have snapshot : u.alloc.snapshot = s.alloc.snapshot := by rw [alloc]; exact published.2.1
  have post : u.link.postList = s.link.postList := by rw [link]; exact published.2.2
  have taken := deeds_takeHeldExpiries (enterReady u)
  obtain ⟨entries, phase, -⟩ := takeHeldExpiries_view (enterReady u)
  have results' : (takeHeldExpiries (enterReady u)).alloc.results = u.alloc.results :=
    taken.read (p := .results) (by simp) (by simp [deedParts]) nofun
  have snapshot' : (takeHeldExpiries (enterReady u)).alloc.snapshot = u.alloc.snapshot :=
    taken.read (p := .snapshot) (by simp) (by simp [deedParts]) nofun
  have post' : (takeHeldExpiries (enterReady u)).link.postList = u.link.postList :=
    taken.read (p := .postList) (by simp) (by simp [deedParts]) nofun
  generalize takeHeldExpiries (enterReady u) = w at *
  refine ⟨results'.trans results, phase, snapshot'.trans snapshot, ?_, ?_, post'.trans post, fun i => ?_⟩
  · show (!w.link.postList.isEmpty) = _
    rw [post', post]
  · show w.link.postList.length = _
    rw [post', post]
  · refine (entries i).trans ?_
    show (if (u.view.peers[i]).heldExpiry = true then (u.view.peers[i]).lost else u.view.peers[i]) = _
    rw [peers]
    rfl

end

/-- Settles O50: start and end of the pass, by what each reads. -/
theorem passesTakeASnapshotAndPublish : Obligations.PassesTakeASnapshotAndPublish := by
  intro s
  refine ⟨fun running => ⟨_, exec_eq_after _ _, ?_⟩, fun running => ⟨_, exec_eq_after _ _, ?_⟩,
    fun ready again idle free undrained => ⟨_, exec_eq_after _ _, ?_⟩, fun not => ⟨_, exec_eq_after _ _, ?_⟩,
    fun pass free state => ⟨_, exec_eq_after _ _, ?_⟩, fun pass => ⟨_, exec_eq_after _ _, passEnd_leaves pass⟩⟩
  · exact if_pos running
  · refine (if_pos running).trans ?_
    rw [passTrigger_eq_withTrigger]
    rfl
  · have starts : s.after .passStart = (s.setAlloc { s.alloc with
        phase := .inPass, reEvaluate := false, evaluation := .running Config.evaluationMs
        snapshot := s.takeSnapshotOfPass }).setView s.viewAtPassStart := if_pos ((passDue_iff s).2 ⟨ready, again, idle, free, undrained⟩)
    have self := selfOfPass_eq s
    have peers := viewAtPassStart_peers s
    have entries := viewAtPassStart_entries s
    rw [starts]
    refine ⟨?_, fun i own => ?_, fun i other => ?_⟩
    · show ({ s with alloc := _, view := s.viewAtPassStart } : State) = _
      rw [peers, ← self]
      rfl
    · refine (entries i).trans ?_
      rw [if_pos own]
      rfl
    · refine (entries i).trans ?_
      rw [if_neg other]
  · refine if_neg fun due => ?_
    obtain ⟨ready, again, idle, free, undrained⟩ := (passDue_iff s).1 due
    obtain h | h | h | h | h := not
    · exact h ready
    · simp [again] at h
    · exact h idle
    · simp [free] at h
    · simp [undrained] at h
  · have published := passPublished pass free
    have seq : (publish s.passResults s).seq = s.seq := by rw [published.rest]
    refine published.still (sequencerPassEnd_deaf (by rw [seq]; exact state)) ?_
    rw [seq]
    simp only [List.mem_cons, List.not_mem_nil, or_false] at state
    obtain e | e | e | e | e | e | e := state <;> rw [e] <;> rfl

end Sys2Proof.Machine
end


section
/-! Which members of the condition set stand at an entry (R155, R169), and what the engine does when a plain code joins (R4, R162). -/

namespace Sys2Proof.Machine

section
variable {s t u : State} {m : Member} {st : EngineState}

/-! ### A member that no entry reports gone -/

theorem mem_reportGone_other {code : Nat} (there : m ∈ s.mon.conditions) (other : m.code ≠ code) :
    m ∈ (reportGone code s).mon.conditions :=
  (conditionsBut_reportGone (List.mem_singleton_self code) s).1 m there (by simpa using other)

theorem mem_proveCommand {o : ProvedOutput} {a b : Bool} (there : m ∈ s.mon.conditions) (spared : mismatchCode o a = m.code → a = b) :
    m ∈ (proveCommand o a b s).mon.conditions := by
  unfold proveCommand
  dsimp only
  split
  · exact there
  next differs =>
  split
  · exact mem_reportGone_other there fun same => differs (spared same.symm)
  · exact there

theorem mem_commandSet {c : CommandSet} (there : m ∈ s.mon.conditions)
    (spared : ∀ o, mismatchCode o (s.command o) = m.code → s.command o = c.of o) : m ∈ (commandSet c s).mon.conditions := by
  rw [commandSet_eq]
  exact mem_proveCommand (mem_proveCommand (mem_proveCommand (s := drive c s) there (spared .crank)) (spared .fuel)) (spared .prelube)

/-- Neither LOW_OIL nor the code of an input that a start mask takes (R150, R155). -/
structure Unmasked (s : State) (m : Member) : Prop where
  oil : m.code ≠ codeLowOil
  input : ∀ k : Fin 12, s.mon.routing[k].enable = true → s.mon.routing[k].startMask = true → m.code ≠ k.val + 1

theorem mem_maskInput {k : Fin 12} (there : m ∈ s.mon.conditions) (other : m.code ≠ k.val + 1) :
    m ∈ (maskInput k s).mon.conditions ∧ (maskInput k s).mon.routing = s.mon.routing := by
  unfold maskInput
  dsimp only
  split
  · refine ⟨mem_reportGone_other (s := s.setMon _) there other, ?_⟩
    rw [((Quiet.refl _).reportGone (k.val + 1)).mon]
    rfl
  · exact ⟨there, rfl⟩

theorem mem_maskStartMasked (there : m ∈ s.mon.conditions) (unmasked : Unmasked s m) : m ∈ (maskStartMasked s).mon.conditions := by
  have step (v : State) (k : Fin 12) (hv : m ∈ v.mon.conditions ∧ v.mon.routing = s.mon.routing) :
      m ∈ (if v.mon.routing[k].enable && v.mon.routing[k].startMask then maskInput k v else v).mon.conditions
        ∧ (if v.mon.routing[k].enable && v.mon.routing[k].startMask then maskInput k v else v).mon.routing = s.mon.routing := by
    obtain ⟨there, routing⟩ := hv
    split
    · next masked =>
      rw [routing, Bool.and_eq_true] at masked
      obtain ⟨there', routing'⟩ := mem_maskInput there (unmasked.input k masked.1 masked.2)
      exact ⟨there', routing'.trans routing⟩
    · exact ⟨there, routing⟩
  have masks (l : List (Fin 12)) (v : State) (hv : m ∈ v.mon.conditions ∧ v.mon.routing = s.mon.routing) :
      m ∈ (l.foldl (fun t k => if t.mon.routing[k].enable && t.mon.routing[k].startMask then maskInput k t else t) v).mon.conditions := by
    induction l generalizing v with
    | nil => exact hv.1
    | cons k l ih => exact ih _ (step v k hv)
  unfold maskStartMasked
  generalize List.finRange 12 = l
  exact masks l s ⟨there, rfl⟩

theorem Unmasked.congr (h : Unmasked s m) (routing : t.mon.routing = s.mon.routing) : Unmasked t m :=
  ⟨h.oil, by rw [routing]; exact h.input⟩

theorem mem_reportGone_unmasked {code : Nat} (there : m ∈ s.mon.conditions ∧ Unmasked s m) (other : m.code ≠ code) :
    m ∈ (reportGone code s).mon.conditions ∧ Unmasked (reportGone code s) m :=
  ⟨mem_reportGone_other there.1 other, there.2.congr (by rw [((Quiet.refl s).reportGone code).mon])⟩

theorem mem_monitorEntry (there : m ∈ s.mon.conditions) (unmasked : Unmasked s m) : m ∈ (monitorEntry st s).mon.conditions := by
  have halted : m ∈ (if st.stalls then s else s.setMon { s.mon with stall := .stopped }).mon.conditions
      ∧ Unmasked (if st.stalls then s else s.setMon { s.mon with stall := .stopped }) m := by
    split <;> exact ⟨there, unmasked.congr rfl⟩
  unfold monitorEntry
  dsimp only
  generalize (if st.stalls then s else s.setMon { s.mon with stall := .stopped }) = v at halted
  split
  · exact halted.1
  · have gone (w : State) (hw : m ∈ w.mon.conditions ∧ Unmasked w m) : m ∈ (maskStartMasked (reportGone codeLowOil w)).mon.conditions :=
      mem_maskStartMasked (mem_reportGone_unmasked hw unmasked.oil).1 (mem_reportGone_unmasked hw unmasked.oil).2
    refine gone _ ⟨halted.1, halted.2.congr rfl⟩

/-- The condition set as the command set of an entry finds it, and after it. -/
theorem mem_entryCommanded (there : m ∈ s.mon.conditions)
    (spared : ∀ o, mismatchCode o (s.command o) = m.code → s.command o = (st.commands s.ret.fuelLatch).of o) :
    m ∈ (commandSet (st.commands (stepperEntry st (entryTold st s)).ret.fuelLatch) (stepperEntry st (entryTold st s))).mon.conditions := by
  obtain ⟨-, mon, out, ret, -, -⟩ := entered_keeps st s
  have command (o : ProvedOutput) : (stepperEntry st (entryTold st s)).command o = s.command o := by
    cases o
    · exact congrArg OutputStage.crank out
    · exact congrArg RetainedStore.fuelLatch ret
    · exact congrArg OutputStage.prelube out
  refine mem_commandSet (by rw [mon]; exact there) fun o same => ?_
  rw [command] at same ⊢
  rw [ret]
  exact spared o same

theorem entryCommanded_routing (st : EngineState) (s : State) : (commandSet (st.commands (stepperEntry st (entryTold st s)).ret.fuelLatch)
    (stepperEntry st (entryTold st s))).mon.routing = s.mon.routing := by
  obtain ⟨-, mon, -⟩ := entered_keeps st s
  generalize stepperEntry st (entryTold st s) = v at *
  refine commandSet_keeps (P := fun t => t.mon.routing = s.mon.routing) (by rw [mon]) (fun _ _ h => h) (fun _ o _ h => ?_)
    fun t code _ h => ?_
  · cases o <;> exact h
  · rw [((Quiet.refl t).reportGone code).mon]
    exact h

/-- Members stand at an entry but those that it masks and the mismatches of the outputs that it commands anew. -/
theorem mem_entryBase (there : m ∈ s.mon.conditions) (unmasked : Unmasked s m)
    (spared : ∀ o, mismatchCode o (s.command o) = m.code → s.command o = (st.commands s.ret.fuelLatch).of o) :
    m ∈ (entryBase st s).mon.conditions := by
  rw [entryBase_eq]
  exact mem_monitorEntry (mem_entryCommanded there spared) (unmasked.congr (entryCommanded_routing st s))

/-- An entry to a state of a running engine masks nothing. -/
theorem mem_entryBase_runs (runs : st.runs = true) (there : m ∈ s.mon.conditions)
    (spared : ∀ o, mismatchCode o (s.command o) = m.code → s.command o = (st.commands s.ret.fuelLatch).of o) :
    m ∈ (entryBase st s).mon.conditions := by
  have commanded := mem_entryCommanded there spared
  rw [entryBase_eq]
  generalize commandSet (st.commands (stepperEntry st (entryTold st s)).ret.fuelLatch) (stepperEntry st (entryTold st s)) = v at *
  unfold monitorEntry
  dsimp only
  rw [if_pos runs]
  split <;> exact commanded

end

end Sys2Proof.Machine
end


section
/-! What the engine does when a code of a stopping class joins (R4, R9, R11, R18, R22, R162). -/

namespace Sys2Proof.Machine

section
variable {s t u : State} {m : Member} {st : EngineState} {code : Nat} {latched : Bool}

/-! ### A member that stands through STOPPING -/

/-- The states of a dead engine command every output off (R2). -/
theorem entryBase_commandless (off : st.commands false = ⟨false, false, false, false⟩) (notInit : st ≠ .init) (o : ProvedOutput) :
    (entryBase st s).command o = false := by
  have commands : (entryBase st s).standingCommands = ⟨false, false, false, false⟩ := by
    rw [entryBase_commands, ← off]
    cases st <;> first | rfl | exact absurd rfl notInit
  cases o
  · exact congrArg CommandSet.crank commands
  · exact congrArg CommandSet.fuel commands
  · exact congrArg CommandSet.prelube commands

theorem commands_dead (off : st.commands false = ⟨false, false, false, false⟩) (notInit : st ≠ .init) (latch : Bool) (o : ProvedOutput) :
    (st.commands latch).of o = false := by
  have same : st.commands latch = st.commands false := by cases st <;> first | rfl | exact absurd rfl notInit
  rw [same, off]
  cases o <;> rfl

theorem mem_entryBase_dead (off : st.commands false = ⟨false, false, false, false⟩) (notInit : st ≠ .init)
    (there : m ∈ s.mon.conditions) (unmasked : Unmasked s m) (spared : ∀ o, mismatchCode o (s.command o) = m.code → s.command o = false) :
    m ∈ (entryBase st s).mon.conditions := by
  refine mem_entryBase there unmasked fun o same => ?_
  rw [commands_dead off notInit]
  exact spared o same

theorem entryBase_routing (st : EngineState) (s : State) : (entryBase st s).mon.routing = s.mon.routing :=
  congrArg (fun p : Part.config.Value => p.2.1) (entryBase_only st s .config (by simp [deedParts]))

theorem mem_stoppingExit (there : m ∈ s.mon.conditions) (unmasked : Unmasked s m) (off : ∀ o, s.command o = false) :
    m ∈ (stoppingExit s).mon.conditions := by
  unfold stoppingExit
  split
  · split
    · rw [enterFaulted_eq, setRet_mon]
      exact mem_entryBase_dead (s := setStopReason .none s) rfl nofun there (unmasked.congr rfl) fun o _ => off o
    · rw [enterStopped_eq]
      refine mem_entryBase_dead (s := s.setSeq { s.seq with attempts := 0, stopReason := .none }) ?_ (stoppedOrIsolated_dead s).1 there
        (unmasked.congr rfl) fun o _ => off o
      unfold State.stoppedOrIsolated
      split <;> rfl
  · exact there

/-- A member that no entry to STOPPING reports gone stands after it. -/
theorem mem_goStopping (there : m ∈ s.mon.conditions) (unmasked : Unmasked s m)
    (spared : ∀ o, mismatchCode o (s.command o) = m.code → s.command o = false) : m ∈ (goStopping s).mon.conditions := by
  obtain ⟨claim, slot, mark, drop⟩ := dropClaim_claimOnly s
  unfold goStopping
  rw [enterStopping_eq, drop]
  unfold State.stoppingEntered
  have stays := mem_entryBase_dead (st := .stopping) (s := (takeSnapshot { s with claim := claim, link := { s.link with
    claimSlot := slot, statusMarked := mark } }).setSeq { (takeSnapshot { s with claim := claim, link := { s.link with
    claimSlot := slot, statusMarked := mark } }).seq with resumed := false }) rfl nofun there (unmasked.congr rfl) spared
  have off := entryBase_commandless (st := .stopping) (s := (takeSnapshot { s with claim := claim, link := { s.link with
    claimSlot := slot, statusMarked := mark } }).setSeq { (takeSnapshot { s with claim := claim, link := { s.link with
    claimSlot := slot, statusMarked := mark } }).seq with resumed := false }) rfl nofun
  have routing := entryBase_routing .stopping ((takeSnapshot { s with claim := claim, link := { s.link with
    claimSlot := slot, statusMarked := mark } }).setSeq { (takeSnapshot { s with claim := claim, link := { s.link with
    claimSlot := slot, statusMarked := mark } }).seq with resumed := false })
  generalize entryBase .stopping _ = v at stays off routing ⊢
  refine mem_stoppingExit stays (unmasked.congr routing) fun o => ?_
  cases o
  · exact off .crank
  · exact off .fuel
  · exact off .prelube

/-! ### The frame of a report -/

theorem frame_reportPresent (other : code ≠ codeCrankOpen) (isCode : isConditionCode code = true) (coolant : code ≠ codeCoolantSensor)
    (battery : code ≠ codeBatterySensor) (s : State) : TransitionFrame [code] s (reportPresent code s) := by
  have start : Deeds ⟨[code], true, []⟩ s s := Deeds.refl s (.inl rfl)
  have covers : (⟨[code], true, []⟩ : Scope).covers code := ⟨by simp [Scope.codes], fun e => absurd e other⟩
  refine (start.reportPresent covers isCode).frame (List.nil_subset _) ?_
  unfold Scope.clears Scope.codes
  simp only [List.singleton_append, List.mem_cons, not_or]
  exact ⟨⟨coolant.symm, by decide⟩, battery.symm, by decide⟩

/-! ### SHUTDOWN joins (R22) -/

theorem reportPresent_shutdown (plain : Plain s code) (new : hasCode s.mon.conditions code = false) (cls : s.classOf code = .shutdown)
    (active : s.seq.state.active = true) :
    reportPresent code s = handChange .shutdown (reportDiffers s (s.withMember code)) (goStopping (s.withMember code)) := by
  rw [reportPresent_of_new new, joinCondition_of_plain plain, cls]
  have reacts : joiningAppears code .shutdown (s.withMember code) = goStopping (s.withMember code) := if_pos active
  rw [reacts]

theorem stopped_reportPresent (plain : Plain s code) (new : hasCode s.mon.conditions code = false) (cls : s.classOf code = .shutdown)
    (active : s.seq.state.active = true) (decided : StopDecided (s.withMember code) latched) :
    Stopped s.seq.state latched s (reportPresent code s) := by
  have stopped : Stopped s.seq.state latched (s.withMember code) (goStopping (s.withMember code)) := stopped_goStopping decided
  rw [reportPresent_shutdown plain new cls active]
  generalize goStopping (s.withMember code) = v at stopped ⊢
  exact (stopped.back ⟨rfl, rfl, rfl, rfl, rfl, rfl, rfl, rfl⟩).quiet ((Calm.refl v).handChange _ _) (quiet_handChange _ _ _)
    (by rw [handChange_conditions])

theorem member_reportPresent_shutdown (plain : Plain s code) (new : hasCode s.mon.conditions code = false)
    (cls : s.classOf code = .shutdown) (active : s.seq.state.active = true) (unmasked : Unmasked s (s.newMember code))
    (spared : ∀ o, mismatchCode o (s.command o) = code → s.command o = false) :
    s.newMember code ∈ (reportPresent code s).mon.conditions ∧ (reportPresent code s).out.alarm = true := by
  have stays : s.newMember code ∈ (goStopping (s.withMember code)).mon.conditions :=
    mem_goStopping (newMember_mem s code) (unmasked.congr rfl) spared
  rw [reportPresent_shutdown plain new cls active, handChange_conditions]
  exact ⟨stays, handChange_alarm stays⟩

/-! ### STOP joins in ONLINE (R18) -/

theorem reportPresent_stop_online (plain : Plain s code) (new : hasCode s.mon.conditions code = false) (cls : s.classOf code = .stop)
    (state : s.seq.state = .online) : reportPresent code s
      = handChange .stop (reportDiffers s (s.withMember code)) (enterUnloading (setStopReason .condition (s.withMember code))) := by
  rw [reportPresent_of_new new, joinCondition_of_plain plain, cls]
  have state' : (s.withMember code).seq.state = .online := state
  have reacts : joiningAppears code .stop (s.withMember code) = enterUnloading (setStopReason .condition (s.withMember code)) := by
    show stopAppears (s.withMember code) = _
    simp only [stopAppears, state']
  rw [reacts]

theorem unhurried_withMember (estop : s.cab.estop.qualified = false) (shutdown : ∀ m ∈ s.mon.conditions, m.cls ≠ .shutdown)
    (cls : s.classOf code = .stop) : Unhurried (setStopReason .condition (s.withMember code)) := by
  refine unhurried_of_reason estop (fun m hm => ?_) (.inl nofun)
  obtain rfl | old := mem_insertMember.1 hm
  · rw [cls]; nofun
  · exact shutdown m old

/-- What an ONLINE engine with a notch to shed does when a STOP code joins. -/
structure StopUnloads (code : Nat) (s t : State) : Prop where
  entered : Entered .unloading s t
  claim : ClaimKept s t
  records : RecordsKept { s with seq := { s.seq with stopReason := .condition } } t
  member : s.newMember code ∈ t.mon.conditions
  alarm : t.out.alarm = true

theorem stopUnloads_reportPresent (plain : Plain s code) (new : hasCode s.mon.conditions code = false) (cls : s.classOf code = .stop)
    (state : s.seq.state = .online) (notch : s.stepper.notch ≠ 0) (dwell : s.params.dwellDown ≠ 0) (estop : s.cab.estop.qualified = false)
    (shutdown : ∀ m ∈ s.mon.conditions, m.cls ≠ .shutdown)
    (spared : ∀ o, mismatchCode o (s.command o) = code → s.command o = (EngineState.unloading.commands s.ret.fuelLatch).of o) :
    StopUnloads code s (reportPresent code s) := by
  have unhurried := unhurried_withMember (code := code) estop shutdown cls
  have unloads := unloads_enterUnloading (s := s.withMember code) unhurried notch dwell
  have stays : s.newMember code ∈ (enterUnloading (setStopReason .condition (s.withMember code))).mon.conditions := by
    rw [enterUnloading_sheds unhurried notch dwell]
    exact mem_entryBase_runs (s := setStopReason .condition (s.withMember code)) rfl (newMember_mem s code) spared
  rw [reportPresent_stop_online plain new cls state]
  generalize enterUnloading (setStopReason .condition (s.withMember code)) = v at *
  have calm := (Calm.refl v).handChange .stop (reportDiffers s (s.withMember code))
  have quiet := quiet_handChange .stop (reportDiffers s (s.withMember code)) v
  obtain ⟨entered, -, claim, records, -⟩ := unloads
  exact {
    entered := (entered.back rfl rfl nofun).quiet calm quiet
    claim := ⟨calm.claim.trans claim.1, calm.slot.trans claim.2⟩
    records := by rw [RecordsKept, quiet.seq]; exact records
    member := by rw [handChange_conditions]; exact stays
    alarm := handChange_alarm stays }

/-! ### STOP and INHIBIT_START join before the start (R9, R11) -/

theorem reportPresent_cancels (plain : Plain s code) (new : hasCode s.mon.conditions code = false)
    (cls : s.classOf code = .stop ∨ s.classOf code = .inhibitStart)
    (state : s.seq.state = .prelube ∨ s.seq.state = .claimWait ∨ s.seq.state = .claimSettle) : reportPresent code s
      = handChange (s.classOf code) (reportDiffers s (s.withMember code)) (cancelStart (s.withMember code)) := by
  have reacts : joiningAppears code (s.classOf code) (s.withMember code) = cancelStart (s.withMember code) := by
    have state' : (s.withMember code).seq.state = .prelube ∨ (s.withMember code).seq.state = .claimWait
      ∨ (s.withMember code).seq.state = .claimSettle := state
    obtain c | c := cls <;> rw [c]
    · show stopAppears (s.withMember code) = _
      obtain e | e | e := state' <;> simp only [stopAppears, e]
    · show inhibitAppears (s.withMember code) = _
      obtain e | e | e := state' <;> simp only [inhibitAppears, e]
  rw [reportPresent_of_new new, joinCondition_of_plain plain, reacts]

end

end Sys2Proof.Machine
end


section
/-! The contactor feedback and its proving (R168 to R171). -/

namespace Sys2Proof.Machine

section
variable {s : State} {o : ProvedOutput}

/-! ### The report of absence -/

/-- What a code's members are after the report that its cause is gone (R159). -/
theorem reportGone_members (code : Nat) (s : State) :
    (∀ m ∈ (reportGone code s).mon.conditions, m.code = code → ∃ x ∈ s.mon.conditions, x.code = code ∧ m = { x with cause := false })
      ∧ ((∀ m ∈ s.mon.conditions, m.code = code → m.latched = false) → hasCode (reportGone code s).mon.conditions code = false) := by
  unfold reportGone
  split
  · next absent =>
    have none (m : Member) (hm : m ∈ s.mon.conditions) : m.code ≠ code := by
      simpa using List.find?_eq_none.1 absent m hm
    exact ⟨fun m hm same => absurd same (none m hm), fun _ => (hasCode_eq_false_iff _ _).2 none⟩
  · next x found =>
    obtain ⟨there, code_x⟩ := mem_of_findMember found
    split
    · next latched =>
      refine ⟨fun m hm same => ?_, fun free => absurd (free x there code_x) (by simp [latched])⟩
      obtain ⟨y, hy, rfl⟩ := List.mem_map.1 hm
      by_cases own : y.code = code
      · exact ⟨y, hy, own, if_pos own⟩
      · rw [if_neg own] at same
        exact absurd same own
    · have removed : hasCode (leaveCondition x s).mon.conditions code = false := by
        rw [leaveCondition_conditions, code_x]
        exact hasCode_removeCode_same code _
      exact ⟨fun m hm same => absurd same ((hasCode_eq_false_iff _ _).1 removed m hm), fun _ => removed⟩

/-! ### The qualification of a feedback (R168, R169) -/

theorem setProving_setProving (s : State) (o : ProvedOutput) (a b : Proving) : (s.setProving o a).setProving o b = s.setProving o b := by
  cases o <;> rfl

theorem proving_setProving (s : State) (o : ProvedOutput) (a : Proving) : (s.setProving o a).out.proving o = a := by
  cases o <;> rfl

theorem matchesCommand_nowQualified (q : QualifiedInput) (command : Bool) :
    q.nowQualified.matchesCommand command = (q.sampled == command) := rfl

/-- A feedback whose level is new is qualified and compared with the command (R169). -/
theorem after_feedbackQualification (running : (s.out.proving o).feedback.stability.isRunning = true)
    (new : (s.out.proving o).feedback.qualifiedYet = false
      ∨ (s.out.proving o).feedback.sampled ≠ (s.out.proving o).feedback.qualified) :
    s.after (.feedbackQualification o) =
      if (s.out.proving o).feedback.sampled = s.command o then
        let agreed := s.setProving o ⟨(s.out.proving o).feedback.nowQualified, .agree, .stopped⟩
        if (s.out.proving o).proof = .disagree then reportGone (mismatchCode o (s.command o)) agreed else agreed
      else if (s.out.proving o).proof = .agree then
        s.setProving o ⟨(s.out.proving o).feedback.nowQualified, .proving, .running 300⟩
      else s.setProving o { s.out.proving o with feedback := (s.out.proving o).feedback.nowQualified } := by
  have qualifies := (qualifies_iff (s.out.proving o).feedback).2 new
  refine (if_pos running).trans ((if_pos qualifies).trans ?_)
  unfold feedbackQualified
  dsimp only
  rw [proving_setProving, setProving_command, setProving_setProving, setProving_setProving]
  have decides : ((s.out.proving o).feedback.settled.matchesCommand (s.command o) = true)
      = ((s.out.proving o).feedback.sampled = s.command o) := by
    rw [show (s.out.proving o).feedback.settled = (s.out.proving o).feedback.nowQualified from rfl, matchesCommand_nowQualified, beq_iff_eq]
  simp only [decides]
  rfl

theorem after_feedbackQualification_old (running : (s.out.proving o).feedback.stability.isRunning = true)
    (yet : (s.out.proving o).feedback.qualifiedYet = true)
    (same : (s.out.proving o).feedback.sampled = (s.out.proving o).feedback.qualified) :
    s.after (.feedbackQualification o) = s.setProving o { s.out.proving o with
      feedback := { (s.out.proving o).feedback with stability := .expired } } := by
  have old : ¬ (s.out.proving o).feedback.qualifies = true := by simp [qualifies_iff, yet, same]
  have settled : (s.out.proving o).feedback.settled = { (s.out.proving o).feedback with stability := .expired } := by
    rw [QualifiedInput.settled, ← yet]
    dsimp only
    rw [← same]
  rw [← settled]
  exact (if_pos running).trans (if_neg old)

/-! ### The mismatch codes (R170) -/

theorem codeOfMismatch_eq (o : ProvedOutput) (command : Bool) : codeOfMismatch o command = mismatchCode o command := by
  cases o <;> cases command <;> rfl

theorem after_provingTimerExpiry (running : (s.out.proving o).timer.isRunning = true) : s.after (.provingTimerExpiry o) =
    reportPresent (codeOfMismatch o (s.command o)) (s.setProving o { s.out.proving o with proof := .disagree, timer := .expired }) := by
  rw [codeOfMismatch_eq]
  exact if_pos running

theorem mismatch_fixed (o : ProvedOutput) (command : Bool) : codeOfMismatch o command ∈ [28, 29, 30, 31, 32] := by
  cases o <;> cases command <;> decide

end

/-- Settles O60: the sample, the qualification by proof state and level, and the end of the proving time by mismatch code. -/
theorem feedbackProvesTheOutputs : Obligations.FeedbackProvesTheOutputs := by
  intro s o crank fuel prelube p q command settled code
  refine ⟨⟨_, exec_eq_after _ _, rfl, sample_sampled _ _ _, sample_sampled _ _ _, sample_sampled _ _ _⟩,
    fun running => ⟨fun yet same => ⟨_, exec_eq_after _ _, ?_⟩, fun new => ⟨fun matching proof => ⟨_, exec_eq_after _ _, ?_⟩,
      fun matching proof => ⟨_, exec_eq_after _ _, ?_⟩, fun other proof => ⟨_, exec_eq_after _ _, ?_⟩,
      fun other proof => ⟨_, exec_eq_after _ _, ?_⟩⟩⟩,
    fun running new => ?_⟩
  · exact after_feedbackQualification_old running yet same
  · rw [after_feedbackQualification running new, if_pos matching]
    exact if_neg proof
  · have eq : s.after (.feedbackQualification o) = reportGone code (s.setProving o ⟨q.nowQualified, .agree, .stopped⟩) := by
      rw [after_feedbackQualification running new, if_pos matching, ← codeOfMismatch_eq]
      exact if_pos proof
    have quiet := (Quiet.refl (s.setProving o ⟨q.nowQualified, .agree, .stopped⟩)).reportGone code
    have members := reportGone_members code (s.setProving o ⟨q.nowQualified, .agree, .stopped⟩)
    have but := conditionsBut_reportGone (List.mem_singleton_self code) (s.setProving o ⟨q.nowQualified, .agree, .stopped⟩)
    rw [eq]
    refine ⟨?_, but, members.1, members.2, quiet.seq, quiet.ret, quiet.stepper⟩
    rw [quiet.out]
    exact proving_setProving { s with out := { s.out with alarm := _ } } o _
  · rw [after_feedbackQualification running new, if_neg other, if_pos proof]
    rfl
  · rw [after_feedbackQualification running new, if_neg other, if_neg proof]
    rfl
  · intro r
    have fixed : 12 < code ∧ code ≠ codeCoolantSensor ∧ code ≠ codeBatterySensor ∧ isConditionCode code = true
        ∧ fixedClass code ≠ .derate := by
      have mem : code ∈ [28, 29, 30, 31, 32] := mismatch_fixed o command
      simp only [List.mem_cons, List.not_mem_nil, or_false] at mem
      obtain e | e | e | e | e := mem <;> rw [e] <;> decide
    obtain ⟨above, coolant, battery, isCode, notDerate⟩ := fixed
    have plain : Plain r code := plain_of_fixed above notDerate coolant battery r
    have member := newMember_of_fixed above r
    have cls : r.classOf code = fixedClass code := congrArg Member.cls member
    have new' : hasCode r.mon.conditions code = false := new
    have command (o' : ProvedOutput) : r.command o' = s.command o' := setProving_command s o o' _
    have reported : s.after (.provingTimerExpiry o) = reportPresent code r := after_provingTimerExpiry running
    refine ⟨_, exec_eq_after _ _, fun mild => ?_, fun welded active => ?_, fun opened state notch dwell estop shutdown => ?_⟩
    · have kind : fixedClass code = .alarm ∧ fixedLatched code = decide (code = 31) ∧ (code = 28 → s.seq.state ≠ .cranking) := by
        obtain e | e | ⟨e, outside⟩ := mild
        · rw [e]; exact ⟨rfl, rfl, nofun⟩
        · rw [e]; exact ⟨rfl, rfl, nofun⟩
        · rw [e]; exact ⟨rfl, rfl, fun _ => outside⟩
      obtain ⟨alarm, latch, outside⟩ := kind
      have unmoved : joiningAppears code (r.classOf code) (r.withMember code) = r.withMember code := by
        rw [cls, alarm]
        show (if code = codeCrankOpen then crankOpenAppears (r.withMember code) else r.withMember code) = r.withMember code
        split
        · next own => exact if_neg (outside own)
        · rfl
      have joins := joinedBy_eq r code
      have mem := joinedBy_member r code
      rw [member, alarm, latch] at mem
      rw [cls, alarm] at joins
      rw [reported, reportPresent_unmoved plain new' unmoved]
      refine ⟨⟨mem, joinedBy_conditionsBut r code, congrArg State.out joins⟩, joins⟩
    · rw [reported]
      have unmasked : Unmasked r (r.newMember code) := by
        rw [member]
        exact ⟨by rw [welded]; decide, fun k _ _ => by have := k.isLt; dsimp only; omega⟩
      have shutdown : r.classOf code = .shutdown := by rw [cls, welded]; rfl
      have cause : (r.newMember code).stopCause = true := by rw [member, welded]; rfl
      have stays := (member_reportPresent_shutdown plain new' shutdown active unmasked fun o' same => ?_).1
      · refine ⟨stopped_reportPresent plain new' shutdown active (stopDecided_withMember new' cause), ?_, fun _ => ?_⟩
        · have frame := frame_reportPresent (code := code) (by rw [welded]; decide) isCode coolant battery r
          rwa [welded] at frame ⊢
        · rw [member] at stays
          rw [welded] at stays ⊢
          exact stays
      · rw [welded] at same
        revert same
        cases o' <;> cases r.command _ <;> decide
    · rw [reported]
      have stop : r.classOf code = .stop := by rw [cls, opened]; rfl
      have frame := frame_reportPresent (code := code) (by rw [opened]; decide) isCode coolant battery r
      have unloads := stopUnloads_reportPresent plain new' stop state notch dwell estop shutdown fun o' same => ?_
      · rw [opened] at unloads frame member ⊢
        have mem := unloads.member
        rw [member] at mem
        refine ⟨unloads.entered.1, ?_, unloads.entered.2.2.2.1, mem, frame⟩
        rw [unloads.records]
      · have fuel (b : Bool) : mismatchCode o' b = 30 → o' = .fuel ∧ b = true := by
          cases o' <;> cases b <;> decide
        obtain ⟨rfl, on⟩ := fuel _ (same.trans opened)
        exact on

end Sys2Proof.Machine
end


section
/-! A protective input newly ACTIVE or INACTIVE (R154 to R160). -/

namespace Sys2Proof.Machine

section
variable {s t u : State} {k : Fin 12}

/-! ### The codes of the inputs (R156, R157) -/

theorem classOf_input (s : State) (k : Fin 12) : s.classOf (k.val + 1) = s.mon.routing[k].cls := by
  unfold State.classOf
  rw [inputIndex_succ]

theorem latchedOf_input (s : State) (k : Fin 12) : s.latchedOf (k.val + 1) = s.mon.routing[k].latch := by
  unfold State.latchedOf
  rw [inputIndex_succ]

theorem newMember_input (s : State) (k : Fin 12) :
    s.newMember (k.val + 1) = ⟨k.val + 1, s.mon.routing[k].cls, s.mon.routing[k].latch, true, 0⟩ := by
  rw [State.newMember, classOf_input, latchedOf_input]

theorem input_other {c : Nat} (above : 12 < c) (k : Fin 12) : k.val + 1 ≠ c := by omega

theorem isConditionCode_input (k : Fin 12) : isConditionCode (k.val + 1) = true := by
  revert k
  decide

theorem plain_input (notDerate : s.mon.routing[k].cls ≠ .derate) : Plain s (k.val + 1) :=
  ⟨by rw [classOf_input]; exact notDerate, input_other (by decide) k, input_other (by decide) k⟩

/-- The classes that leave the engine standing. -/
theorem joining_unmoved {cls : CondClass} (mild : cls = .alarm ∨ cls = .unload ∨ cls = .derate) (s : State) (k : Fin 12) :
    joiningAppears (k.val + 1) cls s = s := by
  have other : k.val + 1 ≠ codeCrankOpen := input_other (by decide) k
  obtain rfl | rfl | rfl := mild <;> exact if_neg other

/-! ### DERATE joins (R151, R162) -/

theorem reportPresent_derate (cls : s.mon.routing[k].cls = .derate) (new : hasCode s.mon.conditions (k.val + 1) = false) :
    reportPresent (k.val + 1) s
      = handChange .derate (reportDiffers s (s.withMember (k.val + 1))) (computeDerate (s.withMember (k.val + 1))) := by
  have derate : handDerate (k.val + 1) .derate (s.withMember (k.val + 1)) = computeDerate (s.withMember (k.val + 1)) := if_pos (.inl rfl)
  rw [reportPresent_of_new new]
  unfold joinCondition
  dsimp only
  rw [classOf_input, cls, derate, joining_unmoved (.inr (.inr rfl)), handSensorFault_of_plain (input_other (by decide) k) (input_other (by decide) k)]

/-- What the joining of a DERATE code leaves: F and C computed afresh with its cap (R151, R152). -/
structure DerateJoins (code cap : Nat) (s t : State) : Prop where
  quiet : Quiet (s.withMember code) t
  conditions : t.mon.conditions = (s.withMember code).mon.conditions
  alarm : t.out.alarm = true
  fresh : s.loaded = true → t.mon.derate = t.derateFactor ∧ t.mon.derate ≤ cap
    ∧ t.mon.capacity = s.params.ratedPower * t.mon.derate / 256

theorem derateJoins_reportPresent (cls : s.mon.routing[k].cls = .derate) (new : hasCode s.mon.conditions (k.val + 1) = false) :
    DerateJoins (k.val + 1) s.mon.routing[k].derate s (reportPresent (k.val + 1) s) := by
  rw [reportPresent_derate cls new]
  have joined := newMember_mem s (k.val + 1)
  have code : (s.newMember (k.val + 1)).cls = .derate := (classOf_input s k).trans cls
  have quiet := (Quiet.refl (s.withMember (k.val + 1))).computeDerate
  have conditions := computeDerate_conditions (s.withMember (k.val + 1))
  have fresh := derateFresh_computeDerate (s.withMember (k.val + 1))
  generalize computeDerate (s.withMember (k.val + 1)) = v at *
  have mon : (handChange .derate (reportDiffers s (s.withMember (k.val + 1))) v).mon = v.mon := by
    rw [handChange_eq (s := v) (t := v) _ _ rfl rfl]
  have quiet' := quiet.handChange .derate (reportDiffers s (s.withMember (k.val + 1)))
  refine ⟨quiet', by rw [mon]; exact conditions, handChange_alarm (conditions ▸ joined), fun loaded => ?_⟩
  have factor : (handChange .derate (reportDiffers s (s.withMember (k.val + 1))) v).derateFactor = v.derateFactor :=
    derateFactor_of_mon mon (quiet'.params.trans quiet.params.symm)
  obtain ⟨derate, capacity⟩ := fresh (quiet.loaded.trans loaded)
  have caps := (derateFactor_smallest v).2.2.1 s.mon.routing[k].derate
    ⟨_, conditions ▸ joined, code, k, rfl, by rw [quiet.routing]; rfl⟩
  rw [factor, mon]
  refine ⟨derate, derate ▸ caps, ?_⟩
  rw [capacity, quiet.params]
  rfl

/-! ### SHUTDOWN joins (R22) -/

theorem stopLatched_withMember (s : State) (code : Nat) :
    (s.withMember code).stopLatched = (s.stopLatched || (s.newMember code).stopCause) := by
  rw [Bool.eq_iff_iff, Bool.or_eq_true]
  unfold State.stopLatched
  rw [List.any_eq_true, List.any_eq_true]
  constructor
  · rintro ⟨m, hm, cause⟩
    obtain rfl | old := mem_insertMember.1 hm
    · exact .inr cause
    · exact .inl ⟨m, old, cause⟩
  · rintro (⟨m, hm, cause⟩ | cause)
    · exact ⟨m, mem_insertMember.2 (.inr hm), cause⟩
    · exact ⟨_, newMember_mem s code, cause⟩

theorem stopDecided_joined {code : Nat} (law : ConditionLaw s) (isCode : isConditionCode code = true)
    (new : hasCode s.mon.conditions code = false) :
    StopDecided (s.withMember code) (s.stopLatched || (s.newMember code).stopCause) := by
  rw [← stopLatched_withMember]
  exact stopDecided_of_law (ListLaw.insertMember (m := s.newMember code) law isCode new)

/-! ### The qualification (R155) -/

theorem after_inputQualification (running : s.mon.inputs[k].stability.isRunning = true) :
    s.after (.protectiveInputQualification (k.val + 1)) =
      if (s.mon.inputs[k].closed != s.mon.routing[k].activeOpen) = s.mon.inputs[k].active then
        s.withInput k { s.mon.inputs[k] with stability := .expired }
      else reportCause (k.val + 1) (s.mon.inputs[k].closed != s.mon.routing[k].activeOpen) (s.withInput k
        { s.mon.inputs[k] with
          active := s.mon.inputs[k].closed != s.mon.routing[k].activeOpen, stability := .expired }) := by
  have index := inputIndex_succ k
  simp only [State.after, exec, execProtectiveInputQualification, index, running, if_true]
  have own : (s.setInput k { s.mon.inputs[k] with stability := .expired }).mon.inputs[k] = { s.mon.inputs[k] with stability := .expired } :=
    Vector.getElem_set_self _
  have again (a b : ProtectiveInput) : (s.setInput k a).setInput k b = s.setInput k b := by
    show s.setMon { s.mon with inputs := (s.mon.inputs.set k a).set k b } = _
    rw [Vector.set_set]
    rfl
  unfold compareInput
  dsimp only
  rw [own, again]
  rfl

end

end Sys2Proof.Machine
end


section
/-! A sample of the twelve protective inputs (R155), and all that their qualifications lead to (R156 to R160). -/

namespace Sys2Proof.Machine

section
variable {s t u : State} {k : Fin 12} {closed : Bool}

/-! ### One input at a sample (R155) -/

/-- Input Dk after a sample that compares nothing (R155). -/
def State.sampledInput (s : State) (k : Fin 12) (closed : Bool) : ProtectiveInput :=
  ⟨closed, true,
    if (s.mon.inputs[k].sampledYet = true ∧ s.mon.inputs[k].closed = closed) ∨ s.inputMasked k then s.mon.inputs[k].stability
    else s.mon.routing[k].starts,
    s.mon.inputs[k].active⟩

theorem sampledInput_congr (input : t.mon.inputs[k] = s.mon.inputs[k]) (routing : t.mon.routing = s.mon.routing)
    (phase : t.mon.runPhase = s.mon.runPhase) (closed : Bool) : t.sampledInput k closed = s.sampledInput k closed := by
  unfold State.sampledInput State.inputMasked
  rw [input, routing, phase]

theorem masked_iff (s : State) (k : Fin 12) : s.masked k = true ↔ s.inputMasked k := by
  simp [State.masked, State.inputMasked]

theorem sampled_eq (s : State) (k : Fin 12) (closed : Bool) : s.setInput k { s.mon.inputs[k] with
      closed := closed, sampledYet := true
      stability := if (!s.mon.inputs[k].sampledYet || s.mon.inputs[k].closed != closed) && !s.masked k then s.mon.routing[k].stabilityTimer
        else s.mon.inputs[k].stability } = s.withInput k (s.sampledInput k closed) := by
  have timer : (if (!s.mon.inputs[k].sampledYet || s.mon.inputs[k].closed != closed) && !s.masked k then s.mon.routing[k].stabilityTimer
        else s.mon.inputs[k].stability) = (s.sampledInput k closed).stability := by
    have masked := masked_iff s k
    unfold State.sampledInput
    dsimp only
    by_cases same : (s.mon.inputs[k].sampledYet = true ∧ s.mon.inputs[k].closed = closed) ∨ s.inputMasked k
    · rw [if_pos same, if_neg]
      rw [← masked] at same
      simp only [Bool.and_eq_true, Bool.or_eq_true, Bool.not_eq_true', bne_iff_ne]
      rintro ⟨first | moved, open_⟩
      · obtain ⟨yet, -⟩ | shut := same
        · exact Bool.false_ne_true (first.symm.trans yet)
        · simp [open_] at shut
      · obtain ⟨-, same⟩ | shut := same
        · exact moved same
        · simp [open_] at shut
    · rw [if_neg same, if_pos]
      · rfl
      · obtain ⟨moved, open_⟩ := not_or.1 same
        rw [← masked] at open_
        simp only [Bool.and_eq_true, Bool.or_eq_true, Bool.not_eq_true', bne_iff_ne]
        refine ⟨?_, by simpa using open_⟩
        by_cases yet : s.mon.inputs[k].sampledYet = true
        · exact .inr fun same => moved ⟨yet, same⟩
        · exact .inl (by simpa using yet)
  rw [timer]
  rfl

theorem sampleInput_eq (s : State) (k : Fin 12) (closed : Bool) : sampleInput k closed s =
    if s.inputMasked k ∨ s.mon.routing[k].qualifyTime ≠ 0 then s.withInput k (s.sampledInput k closed)
    else compareInput k (s.withInput k (s.sampledInput k closed)) := by
  have masked := masked_iff s k
  unfold sampleInput
  dsimp only
  rw [sampled_eq]
  by_cases waits : s.inputMasked k ∨ s.mon.routing[k].qualifyTime ≠ 0
  · rw [if_pos waits, if_neg]
    rw [← masked] at waits
    simp only [Bool.and_eq_true, Bool.not_eq_true', beq_iff_eq]
    rintro ⟨open_, zero⟩
    obtain shut | some := waits
    · simp [open_] at shut
    · exact some zero
  · rw [if_neg waits, if_pos]
    obtain ⟨open_, zero⟩ := not_or.1 waits
    rw [← masked] at open_
    simp only [Bool.and_eq_true, Bool.not_eq_true', beq_iff_eq]
    exact ⟨by simpa using open_, not_not.1 zero⟩

/-! ### The inputs of a list, sampled in turn (log 17) -/

/-- Only inputs of the list differ, each as a sample that compares nothing leaves it. -/
structure InputsSampled (l : List (Fin 12)) (levels : Vector Bool 12) (s t : State) : Prop where
  rest : t = { s with mon := { s.mon with inputs := t.mon.inputs } }
  sampled : ∀ j ∈ l, t.mon.inputs[j] = s.sampledInput j levels[j]
  other : ∀ j, j ∉ l → t.mon.inputs[j] = s.mon.inputs[j]

/-- None of the inputs of a list is compared at the sample itself. -/
def State.comparesNone (s : State) (l : List (Fin 12)) : Prop := ∀ j ∈ l, s.inputMasked j ∨ s.mon.routing[j].qualifyTime ≠ 0

/-- The samples of a list of inputs, taken in turn. -/
def sampleInputs (levels : Vector Bool 12) (l : List (Fin 12)) (s : State) : State := l.foldl (fun t k => sampleInput k levels[k] t) s

theorem inputsSampled (levels : Vector Bool 12) (l : List (Fin 12)) (nodup : l.Nodup) (s : State) (waits : s.comparesNone l) :
    InputsSampled l levels s (sampleInputs levels l s) := by
  induction l generalizing s with
  | nil => exact ⟨rfl, nofun, fun _ _ => rfl⟩
  | cons k l ih =>
    obtain ⟨outside, nodup'⟩ := List.nodup_cons.1 nodup
    have first : sampleInput k levels[k] s = s.withInput k (s.sampledInput k levels[k]) := by
      rw [sampleInput_eq, if_pos (waits k List.mem_cons_self)]
    have step : sampleInputs levels (k :: l) s = sampleInputs levels l (s.withInput k (s.sampledInput k levels[k])) := by
      rw [← first]
      rfl
    have own : (s.withInput k (s.sampledInput k levels[k])).mon.inputs[k] = s.sampledInput k levels[k] := Vector.getElem_set_self _
    have apart (j : Fin 12) (differs : j ≠ k) : (s.withInput k (s.sampledInput k levels[k])).mon.inputs[j] = s.mon.inputs[j] :=
      Vector.getElem_set_ne k.isLt j.isLt fun same => differs (Fin.ext same.symm)
    obtain ⟨rest, sampled, other⟩ := ih nodup' (s.withInput k (s.sampledInput k levels[k]))
      fun j mem => waits j (List.mem_cons_of_mem k mem)
    rw [step]
    refine ⟨rest, fun j mem => ?_, fun j notIn => ?_⟩
    · obtain rfl | mem := List.mem_cons.1 mem
      · exact (other _ outside).trans own
      · have differs : j ≠ k := fun same => outside (same ▸ mem)
        exact (sampled j mem).trans (sampledInput_congr (apart j differs) rfl rfl _)
    · obtain ⟨differs, notIn'⟩ := not_or.1 (mt List.mem_cons.2 notIn)
      exact (other j notIn').trans (apart j differs)

/-- The fields besides the inputs, kept where no input is compared. -/
theorem InputsSampled.kept {l : List (Fin 12)} {levels : Vector Bool 12} (h : InputsSampled l levels s t) :
    t.mon.conditions = s.mon.conditions ∧ t.mon.routing = s.mon.routing ∧ t.mon.runPhase = s.mon.runPhase ∧ t.out = s.out
      ∧ t.seq = s.seq ∧ t.ret = s.ret ∧ t.stepper = s.stepper := by
  rw [h.rest]
  exact ⟨rfl, rfl, rfl, rfl, rfl, rfl, rfl⟩

/-- An input that the sample itself finds newly ACTIVE, of class ALARM, joins (R155, R158; log 28). -/
theorem sampleInput_joins (open_ : ¬ s.inputMasked k) (zero : s.mon.routing[k].qualifyTime = 0) (cls : s.mon.routing[k].cls = .alarm)
    (active : (closed != s.mon.routing[k].activeOpen) = true) (inactive : s.mon.inputs[k].active = false)
    (new : hasCode s.mon.conditions (k.val + 1) = false) : sampleInput k closed s =
      (s.withInput k { s.sampledInput k closed with active := true }).joinedBy (k.val + 1) := by
  have own : (s.withInput k (s.sampledInput k closed)).mon.inputs[k] = s.sampledInput k closed := Vector.getElem_set_self _
  have again (a b : ProtectiveInput) : (s.withInput k a).setInput k b = s.withInput k b := by
    show s.setMon { s.mon with inputs := (s.mon.inputs.set k a).set k b } = _
    rw [Vector.set_set]
    rfl
  rw [sampleInput_eq, if_neg (not_or.2 ⟨open_, not_not.2 zero⟩)]
  unfold compareInput
  dsimp only
  rw [own, again]
  have level : (s.withInput k (s.sampledInput k closed)).mon.routing[k].activeAt (s.sampledInput k closed).closed = true := active
  have before : (s.sampledInput k closed).active = false := inactive
  rw [level, before, if_neg nofun]
  refine reportPresent_unmoved (plain_input (by show s.mon.routing[k].cls ≠ _; rw [cls]; nofun)) new ?_
  exact joining_unmoved (.inl (by rw [classOf_input]; exact cls)) _ _

end

end Sys2Proof.Machine
end


section
/-! The protective inputs at the condition set: O59 (R154 to R160). -/

namespace Sys2Proof.Machine

section
variable {s t u : State} {k : Fin 12}

/-- No mismatch code is an input's (R170). -/
theorem mismatch_not_input (o : ProvedOutput) (b : Bool) (k : Fin 12) : mismatchCode o b ≠ k.val + 1 := by
  have above : 12 < mismatchCode o b := by cases o <;> cases b <;> decide
  omega

/-- The samples of all inputs, one of which is newly ACTIVE at once (R155; log 28). -/
theorem sample_joins {levels : Vector Bool 12} (waits : ∀ j : Fin 12, j ≠ k → s.inputMasked j ∨ s.mon.routing[j].qualifyTime ≠ 0)
    (open_ : ¬ s.inputMasked k) (zero : s.mon.routing[k].qualifyTime = 0) (cls : s.mon.routing[k].cls = .alarm)
    (active : (levels[k] != s.mon.routing[k].activeOpen) = true) (inactive : s.mon.inputs[k].active = false)
    (new : hasCode s.mon.conditions (k.val + 1) = false) :
    Joined ⟨k.val + 1, s.mon.routing[k].cls, s.mon.routing[k].latch, true, 0⟩ s (s.after (.protectiveInputSample levels))
      ∧ (s.after (.protectiveInputSample levels)).mon.inputs[k].active = true
      ∧ (s.after (.protectiveInputSample levels)).mon.inputs[k].closed = levels[k]
      ∧ (s.after (.protectiveInputSample levels)).seq = s.seq ∧ (s.after (.protectiveInputSample levels)).ret = s.ret
      ∧ (s.after (.protectiveInputSample levels)).stepper = s.stepper := by
  obtain ⟨before, behind, split⟩ := List.append_of_mem (List.mem_finRange k)
  have nodup : (before ++ k :: behind).Nodup := split ▸ List.nodup_finRange 12
  obtain ⟨nodup₁, nodup₂, apart⟩ := List.nodup_append.1 nodup
  obtain ⟨outside₂, nodup₂'⟩ := List.nodup_cons.1 nodup₂
  have outside₁ : k ∉ before := fun mem => apart k mem k List.mem_cons_self rfl
  have eq : s.after (.protectiveInputSample levels)
      = sampleInputs levels behind (sampleInput k levels[k] (sampleInputs levels before s)) := by
    show sampleInputs levels (List.finRange 12) s = _
    rw [split, sampleInputs, List.foldl_append, List.foldl_cons]
    rfl
  have first := inputsSampled levels before nodup₁ s fun j mem => waits j fun same => outside₁ (same ▸ mem)
  rw [eq]
  generalize sampleInputs levels before s = u at first ⊢
  obtain ⟨conditions, routing, phase, out, seq, ret, stepper⟩ := first.kept
  have joins := sampleInput_joins (s := u) (k := k) (closed := levels[k]) (by rw [State.inputMasked, routing, phase]; exact open_)
    (by rw [routing]; exact zero) (by rw [routing]; exact cls) (by rw [routing]; exact active)
    (by rw [first.other k outside₁]; exact inactive) (by rw [conditions]; exact new)
  rw [joins]
  have own : (u.withInput k { u.sampledInput k levels[k] with active := true }).mon.inputs[k]
      = { u.sampledInput k levels[k] with active := true } := Vector.getElem_set_self _
  have member := joinedBy_member (u.withInput k { u.sampledInput k levels[k] with active := true }) (k.val + 1)
  have but := joinedBy_conditionsBut (u.withInput k { u.sampledInput k levels[k] with active := true }) (k.val + 1)
  have joined := joinedBy_eq (u.withInput k { u.sampledInput k levels[k] with active := true }) (k.val + 1)
  rw [newMember_input] at member
  generalize (u.withInput k { u.sampledInput k levels[k] with active := true }).joinedBy (k.val + 1) = v at *
  have routing' : v.mon.routing = s.mon.routing := by rw [joined]; exact routing
  have phase' : v.mon.runPhase = s.mon.runPhase := by rw [joined]; exact phase
  have input : v.mon.inputs[k] = { u.sampledInput k levels[k] with active := true } := by rw [joined]; exact own
  have last := inputsSampled levels behind nodup₂' v fun j mem => by
    rw [State.inputMasked, routing', phase']
    exact waits j fun same => outside₂ (same ▸ mem)
  generalize sampleInputs levels behind v = w at last ⊢
  obtain ⟨conditions', -, -, out', seq', ret', stepper'⟩ := last.kept
  refine ⟨⟨?_, ?_, ?_⟩, ?_, ?_, ?_, ?_, ?_⟩
  · rw [conditions', ← routing]
    exact member
  · rw [ConditionsBut, conditions', ← conditions]
    exact but
  · rw [out', joined, ← out]
  · rw [last.other k outside₂, input]
  · rw [last.other k outside₂, input]
    rfl
  · rw [seq', joined]
    exact seq
  · rw [ret', joined]
    exact ret
  · rw [stepper', joined]
    exact stepper

end

/-- Settles O59: the qualification by class of the code and by state of the engine, and the sample. -/
theorem protectiveInputsJoinTheConditions : Obligations.ProtectiveInputsJoinTheConditions := by
  intro s k i e active code r m
  have member : r.newMember code = m := newMember_input r k
  have cls : r.classOf code = e.cls := classOf_input r k
  have isCode : isConditionCode code = true := isConditionCode_input k
  have frame : TransitionFrame [code] r (reportPresent code r) :=
    frame_reportPresent (input_other (by decide) k) isCode (input_other (by decide) k) (input_other (by decide) k) r
  refine ⟨fun running => ?_, fun levels => ⟨fun waits => ⟨_, exec_eq_after _ _, ?_⟩,
    fun waits open_ zero alarm newly inactive new => ⟨_, exec_eq_after _ _,
      sample_joins waits open_ zero alarm newly inactive new⟩⟩⟩
  · have after := after_inputQualification (s := s) (k := k) running
    refine ⟨fun same => ⟨_, exec_eq_after _ _, ?_⟩, fun newly inactive new => ⟨_, exec_eq_after _ _, ?_⟩,
      fun gone before latched => ⟨_, exec_eq_after _ _, ?_⟩, fun gone before there free => ⟨_, exec_eq_after _ _, ?_⟩⟩
    · rw [after, if_pos same]
      show s.withInput k { i with stability := .expired } = s.withInput k { i with active := active, stability := .expired }
      rw [same]
    · have reported : s.after (.protectiveInputQualification code) = reportPresent code r := by
        refine after.trans ((if_neg ?_).trans (if_pos newly))
        show active ≠ i.active
        rw [newly, inactive]
        nofun
      have new' : hasCode r.mon.conditions code = false := new
      rw [reported]
      refine ⟨fun mild => ?_, fun derate => ?_, fun shutdown running law => ?_, fun stop state notch dwell estop clear => ?_,
        fun kind state => ?_⟩
      · have plain : Plain r code := plain_input (s := r) (k := k) (by obtain h | h := mild <;> (show e.cls ≠ _; rw [h]; nofun))
        have unmoved : joiningAppears code (r.classOf code) (r.withMember code) = r.withMember code := by
          rw [cls]
          exact joining_unmoved (mild.imp_right .inl) _ k
        have joins := joinedBy_eq r code
        rw [cls] at joins
        rw [reportPresent_unmoved plain new' unmoved]
        refine ⟨⟨member ▸ joinedBy_member r code, joinedBy_conditionsBut r code, congrArg State.out joins⟩, joins.trans ?_⟩
        have triggers : e.cls.triggers = (e.cls == .unload) := by obtain h | h := mild <;> rw [h] <;> rfl
        rw [triggers]
        cases e.cls == CondClass.unload <;> rfl
      · have joins := derateJoins_reportPresent (s := r) (k := k) derate new'
        have joined : m ∈ (r.withMember code).mon.conditions := member ▸ newMember_mem r code
        have but := conditionsBut_withMember (List.mem_singleton_self code) r
        generalize reportPresent code r = t at *
        have conditions := joins.conditions
        have out := joins.quiet.out
        rw [joins.alarm] at out
        refine ⟨⟨conditions ▸ joined, ?_, out⟩, ?_, joins.fresh⟩
        · rw [ConditionsBut, conditions]
          exact but
        · refine joins.quiet.written.trans ?_
          rw [out]
          rfl
      · have plain : Plain r code := plain_input (s := r) (k := k) (by show e.cls ≠ _; rw [shutdown]; nofun)
        have cause : (r.newMember code).stopCause = e.latch := by
          rw [member]
          show (e.latch && (e.cls == .shutdown || e.cls == .stop)) = e.latch
          rw [shutdown]
          exact Bool.and_true _
        have decided := stopDecided_joined (s := r) law isCode new'
        rw [cause] at decided
        refine ⟨stopped_reportPresent plain new' (cls.trans shutdown) running decided, frame, fun unmasked => ?_⟩
        rw [← member]
        refine member_reportPresent_shutdown plain new' (cls.trans shutdown) running ⟨?_, fun j _ masks same => ?_⟩
          fun o same => absurd same (mismatch_not_input o _ k)
        · exact input_other (by decide) k
        · have own : k = j := Fin.ext (Nat.succ.inj same)
          rw [← own] at masks
          exact Bool.false_ne_true (unmasked.symm.trans masks)
      · have plain : Plain r code := plain_input (s := r) (k := k) (by show e.cls ≠ _; rw [stop]; nofun)
        have unloads := stopUnloads_reportPresent plain new' (cls.trans stop) state notch dwell estop clear
          fun o same => absurd same (mismatch_not_input o _ k)
        rw [← member]
        exact ⟨unloads.entered, frame, unloads.claim, unloads.records, unloads.member, unloads.alarm⟩
      · have plain : Plain r code := plain_input (s := r) (k := k) (by obtain h | h := kind <;> (show e.cls ≠ _; rw [h]; nofun))
        have eq := reportPresent_cancels plain new' (by rw [cls]; exact kind) state
        have cancelled := cancelled_cancelStart (r.withMember code)
        rw [eq] at frame ⊢
        generalize cancelStart (r.withMember code) = v at *
        have calm := (Calm.refl v).handChange (r.classOf code) (reportDiffers r (r.withMember code))
        have quiet := quiet_handChange (r.classOf code) (reportDiffers r (r.withMember code)) v
        have entered := (cancelled.entered.back (s := r) rfl rfl (stoppedOrIsolated_dead _).1).quiet calm quiet
        refine ⟨entered, frame, ?_⟩
        rw [quiet.seq]
        exact cancelled.attempts
    · have reported : s.after (.protectiveInputQualification code) = reportGone code r := by
        refine after.trans ((if_neg ?_).trans (if_neg (by rw [show (i.closed != e.activeOpen) = false from gone]; nofun)))
        show active ≠ i.active
        rw [gone, before]
        nofun
      rw [reported, reportGone_of_latched (s := r) latched]
      rfl
    · have reported : s.after (.protectiveInputQualification code) = reportGone code r := by
        refine after.trans ((if_neg ?_).trans (if_neg (by rw [show (i.closed != e.activeOpen) = false from gone]; nofun)))
        show active ≠ i.active
        rw [gone, before]
        nofun
      rw [reported, reportGone_of_unlatched (s := r) (cls := .alarm) there free nofun (input_other (by decide) k)]
      exact leftBy_eq r code .alarm
  · have eq : s.after (.protectiveInputSample levels) = sampleInputs levels (List.finRange 12) s := rfl
    have sampled := inputsSampled levels (List.finRange 12) (List.nodup_finRange 12) s fun j _ => waits j
    rw [eq]
    exact ⟨sampled.rest, fun j => sampled.sampled j (List.mem_finRange j)⟩

end Sys2Proof.Machine
end


section
/-! The demand tally and its notice (R37, R83), and the frames of a peer at the table (R68 to R71, R73, R74, R80). -/

namespace Sys2Proof.Machine

section
variable {s t u : State}

/-! ### The tally (R83) -/

/-- What bringing the tally up to date changes: the tally, and with INVALID_PEERS demand and source as the majority gives them. -/
structure Tallied (s t : State) : Prop where
  view : t.view = { s.view with tally := s.countTally }
  rest : t = { s with
    view := t.view, cab := { s.cab with demand := t.cab.demand, source := t.cab.source }
    link := { s.link with statusMarked := t.link.statusMarked }, alloc := { s.alloc with reEvaluate := t.alloc.reEvaluate } }
  marked : s.link.statusMarked = true → t.link.statusMarked = true
  again : s.alloc.reEvaluate = true → t.alloc.reEvaluate = true
  still : s.cab.decoder ≠ .invalidPeers → t = { s with view := t.view }
  peers : s.cab.decoder = .invalidPeers → s.countTally ≠ s.view.tally → t.cab.demand = (majority s.countTally).getD 0
    ∧ t.cab.source = if majority s.countTally = none then .default else .peers

theorem withTriggerIf_alloc (c : Bool) (s : State) :
    (s.withTriggerIf c).alloc = { s.alloc with reEvaluate := (s.withTriggerIf c).alloc.reEvaluate } := by
  cases c <;> rfl

theorem withMarkIf_marked (c : Bool) (s : State) (marked : s.link.statusMarked = true) : (s.withMarkIf c).link.statusMarked = true := by
  cases c
  · exact marked
  · show (s.link.statusMarked || s.link.txEnabled) = true
    rw [marked]
    rfl

theorem withTriggerIf_again (c : Bool) (s : State) (again : s.alloc.reEvaluate = true) :
    (s.withTriggerIf c).alloc.reEvaluate = true := by
  cases c
  · exact again
  · show (s.alloc.reEvaluate || _ || _) = true
    rw [again]
    rfl

/-- The majority's notice at a changed tally, whatever mark and trigger come of it. -/
theorem tallied_changed {tally : List Nat} {demand : Nat} {source : DemandSource} (a b : Bool) (invalid : s.cab.decoder = .invalidPeers)
    (counted : tally = s.countTally) (voted : demand = (majority s.countTally).getD 0)
    (named : source = if majority s.countTally = none then .default else .peers) : Tallied s { s with
    view := { s.view with tally := tally }, cab := { s.cab with demand := demand, source := source }
    alloc := (s.withTriggerIf a).alloc, link := (s.withMarkIf b).link } := by
  have again := withTriggerIf_again a s
  have marked := withMarkIf_marked b s
  have alloc := withTriggerIf_alloc a s
  have link := withMarkIf_link b s
  generalize (s.withTriggerIf a).alloc = a' at *
  generalize (s.withMarkIf b).link = l at *
  exact ⟨by rw [← counted], by dsimp only; rw [← alloc, ← link], marked, again, fun valid => absurd invalid valid,
    fun _ _ => ⟨voted, named⟩⟩

theorem tallied_recomputeTally (s : State) : Tallied s (recomputeTally s) := by
  unfold recomputeTally
  dsimp only
  split
  · next same =>
    have view : s.view = { s.view with tally := s.countTally } := by rw [same]
    exact ⟨view, rfl, id, id, fun _ => rfl, fun _ differs => absurd same differs⟩
  · next differs =>
    unfold majorityNotice
    split
    · next invalid =>
      rw [changeDecoder_eq, takeMajority_eq]
      rw [withTriggerIf_alloc_congr _ (setView_alloc s _), withMarkIf_link_congr _ (setView_link s _)]
      exact tallied_changed _ _ invalid rfl rfl rfl
    · next valid => exact ⟨rfl, rfl, id, id, fun _ => rfl, fun invalid => absurd invalid valid⟩

/-- The tally is as the table stands (R83). -/
theorem tallyCounts_of_counted (counted : t.view.tally = t.countTally) : t.tallyCounts := by
  intro e small
  rw [counted]
  unfold State.countTally
  rw [List.getD_eq_getElem _ _ (by rw [List.length_map, List.length_range]; omega), List.getElem_map, List.getElem_range]
  refine List.countP_congr fun j _ => ?_
  unfold State.counts State.isSelf
  by_cases own : t.load.station = j.val + 1 <;> simp [own]

theorem countTally_congr (peers : t.view.peers = s.view.peers) (station : t.load.station = s.load.station) :
    t.countTally = s.countTally := by
  unfold State.countTally State.counts State.isSelf ConsistView.entry
  rw [peers, station]

theorem Tallied.counted (h : Tallied s t) : t.view.tally = t.countTally := by
  have station : t.load.station = s.load.station := by rw [h.rest]
  rw [countTally_congr (t := t) (s := s) (by rw [h.view]) station, h.view]

/-! ### Chains of deeds of the claim leave view and cab -/

theorem Deeds.viewAndCab {parts : List Part} (d : Deeds ⟨[], true, parts⟩ s t) (inside : parts ⊆ claimParts ++ [.rest, .minRun]) :
    t.view = s.view ∧ t.cab = s.cab ∧ t.load = s.load ∧ t.params = s.params := by
  have outside (p : Part) (apart : p ∉ claimParts ++ [.rest, .minRun]) (deed : p ∉ deedParts) : p.read t = p.read s :=
    d.read (fun mem => apart (inside mem)) deed fun _ => Scope.plain_clears
  refine ⟨?_, ?_, ?_, ?_⟩
  · refine Machine.viewKept (s := s) (t := { s with view := t.view }) fun p _ => ?_
    cases p
    case peers => exact outside .peers (by simp) (by simp [deedParts])
    case everSeen => exact outside .everSeen (by simp) (by simp [deedParts])
    case alone => exact outside .alone (by simp) (by simp [deedParts])
    case sFrozen => exact outside .sFrozen (by simp) (by simp [deedParts])
    case tally => exact outside .tally (by simp) (by simp [deedParts])
    all_goals rfl
  · refine Machine.cabKept (s := s) (t := { s with cab := t.cab }) fun p _ => ?_
    cases p
    case lines => exact outside .lines (by simp) (by simp [deedParts])
    case sampledCode => exact outside .sampledCode (by simp) (by simp [deedParts])
    case codeStability => exact outside .codeStability (by simp) (by simp [deedParts])
    case qualifiedCode => exact outside .qualifiedCode (by simp) (by simp [deedParts])
    case decoder => exact outside .decoder (by simp) (by simp [deedParts])
    case demand => exact outside .demand (by simp) (by simp [deedParts])
    case mode => exact outside .mode (by simp) (by simp [deedParts])
    case layoverCheck => exact outside .layoverCheck (by simp) (by simp [deedParts])
    case needs => exact outside .needs (by simp) (by simp [deedParts])
    all_goals rfl
  · refine Machine.loadKept (s := s) (t := { s with
        load := t.load, params := t.params, ret := { s.ret with minutes := t.ret.minutes, shadow := t.ret.shadow }
        mon := { s.mon with routing := t.mon.routing }, alloc := { s.alloc with powerSteps := t.alloc.powerSteps } })
      fun p _ => ?_
    cases p
    case straps => exact outside .straps (by simp) (by simp [deedParts])
    case windows => exact outside .windows (by simp) (by simp [deedParts])
    case hours => exact outside .hours (by simp) (by simp [deedParts])
    case config => exact outside .config (by simp) (by simp [deedParts])
    case startRecord => exact outside .startRecord (by simp) (by simp [deedParts])
    case progress => exact outside .progress (by simp) (by simp [deedParts])
    case image => exact outside .image (by simp) (by simp [deedParts])
    all_goals rfl
  · exact congrArg (fun p : Part.config.Value => p.1) (outside .config (by simp) (by simp [deedParts]))

end

end Sys2Proof.Machine
end


section
/-! The frames of a peer at the peer table (R68 to R71, R73, R80, R83). -/

namespace Sys2Proof.Machine

section
variable {s t u : State} {i : Fin 7} {f : RawFrame} {r : StatusRecord}

/-! ### The frame processor's branches (R70) -/

theorem applyFrame_peer (named : f.source.toNat = i.val + 1) (other : s.load.station ≠ i.val + 1) :
    applyFrame f s = applyPeer i f s := by
  have found : peerIndex f.source.toNat = some i := (peerIndex_eq_some_iff ..).2 named
  unfold applyFrame
  rw [if_neg (by omega), if_neg (by omega), found]

theorem after_peerFrame {b : Fin 8} {rest : List (Fin 8)} (due : s.frameDue = true) (post : s.link.postList = b :: rest)
    (named : (s.link.buffers[b]).source.toNat = i.val + 1) (other : s.load.station ≠ i.val + 1) :
    s.after .frameApplication = applyPeer i s.link.buffers[b] (s.taking b rest) :=
  (after_frameApplication due post).trans (applyFrame_peer named other)

/-! ### An entry heard (R68 to R70) -/

/-- The station with the entry of a peer that was heard replaced, a peer having been seen. -/
def State.heardAs (s : State) (i : Fin 7) (e : PeerEntry) : State := s.setView { s.view.setEntry i e with everSeen := true }

theorem heardPeer_eq (i : Fin 7) (s : State) : heardPeer i s = s.heardAs i (s.view.entry i).heard := rfl

theorem heardAs_entry (s : State) (i j : Fin 7) (e : PeerEntry) :
    (s.heardAs i e).view.entry j = if i = j then e else s.view.entry j := entry_setEntry ..

theorem heardAs_again (s : State) (i : Fin 7) (a b : PeerEntry) :
    (s.heardAs i a).setView ((s.heardAs i a).view.setEntry i b) = s.heardAs i b := by
  have entries := setEntry_setEntry s.view i a b
  have peers : (s.view.peers.set i a).set i b = s.view.peers.set i b := Vector.set_set ..
  simp only [State.heardAs, setView_view, setView_setView, ConsistView.setEntry, peers]

/-- What the table and the flags beside it show once an entry has become `e`. -/
theorem heardAs_shown {e : PeerEntry} (peers : t.view.peers = (s.heardAs i e).view.peers) :
    t.view.entry i = e ∧ OtherEntriesKept i s t := by
  have entry (j : Fin 7) : t.view.entry j = if i = j then e else s.view.entry j :=
    (congrArg (fun p : Vector PeerEntry 7 => p[j]) peers).trans (heardAs_entry ..)
  exact ⟨(entry i).trans (if_pos rfl), fun j apart => (entry j).trans (if_neg (Ne.symm apart))⟩

/-! ### ALONE at a STATUS (R80) -/

/-- A STATUS heard ends ALONE while the link is NORMAL. -/
def State.listened (s : State) : State := if s.link.linkFault then s else leaveAlone s

theorem listened_normal (hears : s.view.alone = false ∨ s.link.linkFault = true) : s.listened = s := by
  unfold State.listened leaveAlone
  obtain alone | fault := hears
  · rw [alone]
    exact ite_self _
  · exact if_pos fault

/-- The station no longer ALONE, marked for it; the offer has not been examined. -/
def State.unalone (s : State) : State := (s.setView { s.view with alone := false }).withMark

theorem leaveAlone_eq (s : State) : leaveAlone s = if s.view.alone then examineOffer s.unalone else s := by
  unfold leaveAlone State.unalone
  rw [markStatus_eq_withMark]

/-- Hearing a STATUS touches the flag, the mark, and by the examination of the offer the own claim's phase with its slot. -/
theorem listened_eq (s : State) : ∃ slot phase, s.listened = { s with
    view := { s.view with alone := s.view.alone && s.link.linkFault }
    link := { s.link with
      statusMarked := s.link.statusMarked || (s.view.alone && !s.link.linkFault && s.link.txEnabled), claimSlot := slot }
    claim := { s.claim with phase := phase } }
    ∧ (s.claim.phase ≠ .wanted → slot = s.link.claimSlot ∧ phase = s.claim.phase) := by
  by_cases normal : s.view.alone = false ∨ s.link.linkFault = true
  · refine ⟨s.link.claimSlot, s.claim.phase, ?_, fun _ => ⟨rfl, rfl⟩⟩
    rw [listened_normal normal]
    have alone : (s.view.alone && s.link.linkFault) = s.view.alone := by
      obtain alone | fault := normal
      · rw [alone, Bool.false_and]
      · rw [fault, Bool.and_true]
    have marked : (s.link.statusMarked || (s.view.alone && !s.link.linkFault && s.link.txEnabled)) = s.link.statusMarked := by
      obtain alone | fault := normal
      · rw [alone, Bool.false_and, Bool.false_and, Bool.or_false]
      · rw [fault, Bool.not_true, Bool.and_false, Bool.false_and, Bool.or_false]
    rw [alone, marked]
  · obtain ⟨alone, fault⟩ := not_or.1 normal
    have fault := (Bool.not_eq_true _).mp fault
    have alone := (Bool.not_eq_false _).mp alone
    have listened : s.listened = examineOffer s.unalone := by
      rw [State.listened, fault, leaveAlone_eq, alone]
      rfl
    have unalone : s.unalone = { s with
        view := { s.view with alone := s.view.alone && s.link.linkFault }
        link := { s.link with
          statusMarked := s.link.statusMarked || (s.view.alone && !s.link.linkFault && s.link.txEnabled) } } := by
      simp only [State.unalone, State.withMark, State.setView, alone, fault, Bool.and_false, Bool.not_false, Bool.and_self, Bool.true_and]
    by_cases wanted : s.claim.phase = .wanted
    · obtain ⟨slot, phase, eq, -⟩ := examineOffer_changes s.unalone
      refine ⟨slot, phase, ?_, fun other => absurd wanted other⟩
      rw [listened, eq, unalone]
    · refine ⟨s.link.claimSlot, s.claim.phase, ?_, fun _ => ⟨rfl, rfl⟩⟩
      have still : ¬ s.unalone.offers := fun offers => wanted offers.1
      rw [listened, examineOffer_still still, unalone]

/-! ### STATUS (R71) -/

/-- The entry that a STATUS leaves (R71): heard, with its record and with the changed mark by the change test. -/
def PeerEntry.updated (e : PeerEntry) (r : StatusRecord) : PeerEntry :=
  { e.heard with record := some r, changed := e.changed || e.presence != .present || e.differsFrom r }

theorem heard_updated (e : PeerEntry) (r : StatusRecord) : { e.heard with
    record := some r, changed := e.heard.changed || (e.presence != .present || e.heard.differsFrom r) } = e.updated r := by
  have mark : (e.heard.changed || (e.presence != .present || e.heard.differsFrom r))
      = (e.changed || e.presence != .present || e.differsFrom r) := by
    show (e.changed || e.presence != .present || (e.presence != .present || e.differsFrom r)) = _
    rw [← Bool.or_assoc, Bool.or_assoc e.changed, Bool.or_self]
  rw [mark]
  rfl

theorem recordChanged_eq (e : PeerEntry) (r : StatusRecord) : recordChanged e.record r = e.differsFrom r := by
  unfold recordChanged PeerEntry.differsFrom
  cases e.record <;> rfl

/-- A STATUS applied: the entry, the hearing, the claim flag, the tally and the trigger, one after the other. -/
theorem applyPeer_status (kind : f.kind = 2) (decoded : decodeStatus f.data = some r) : applyPeer i f s
    = (recomputeTally (applyStatusClaim (i.val + 1) r.claimHeld r.claimRemaining
        (s.heardAs i ((s.view.entry i).updated r)).listened)).withTriggerIf
          ((s.view.entry i).presence != .present || (s.view.entry i).differsFrom r) := by
  have two : f.kind.toNat = 2 := by rw [kind]; rfl
  have entry : (s.heardAs i (s.view.entry i).heard).view.entry i = (s.view.entry i).heard := by
    rw [heardAs_entry, if_pos rfl]
  unfold applyPeer
  simp only [two, decoded]
  unfold applyStatus
  dsimp only
  rw [passTriggerIf_eq_withTriggerIf, heardPeer_eq, entry, heardAs_again, recordChanged_eq, State.listened]
  rw [heard_updated]
  rfl

/-- A REPLY applied (R73): news only by a changed presence. -/
theorem applyPeer_reply (kind : f.kind = 4) : applyPeer i f s = if (s.view.entry i).presence = .present
    then s.heardAs i (s.view.entry i).heard else (recomputeTally (s.heardAs i (s.view.entry i).heard)).withTrigger := by
  have four : f.kind.toNat = 4 := by rw [kind]; rfl
  unfold applyPeer
  simp only [four, heardPeer_eq, passTrigger_eq_withTrigger]
  by_cases present : (s.view.entry i).presence = .present <;> simp [present]

end

end Sys2Proof.Machine
end


section
/-! STATUS and REPLY of a peer at the peer table (R68 to R71, R73, R80, R83): O46. -/

namespace Sys2Proof.Machine

section
variable {s t q c l : State} {i : Fin 7} {f : RawFrame} {r : StatusRecord}

theorem withTriggerIf_view (b : Bool) (s : State) : (s.withTriggerIf b).view = s.view := by cases b <;> rfl

theorem withTriggerIf_cab (b : Bool) (s : State) : (s.withTriggerIf b).cab = s.cab := by cases b <;> rfl

theorem withTriggerIf_countTally (b : Bool) (s : State) : (s.withTriggerIf b).countTally = s.countTally := by cases b <;> rfl

/-- The tally counts at the end of an application, whatever trigger follows. -/
theorem tallyCounts_of_tallied (b : Bool) (tallied : Tallied s t) : (t.withTriggerIf b).tallyCounts :=
  tallyCounts_of_counted (by rw [withTriggerIf_view, withTriggerIf_countTally]; exact tallied.counted)

/-- What the claim flag of a STATUS leaves alone. -/
theorem applyStatusClaim_apart (n remaining : Nat) (held : Bool) (s : State) :
    let t := applyStatusClaim n held remaining s
    t.view = s.view ∧ t.cab = s.cab ∧ t.load = s.load :=
  have deeds : Deeds ⟨[], true, claimParts⟩ s (applyStatusClaim n held remaining s) :=
    (Deeds.refl s (.inl rfl)).applyStatusClaim n held remaining (by simp)
  have ⟨view, cab, load, _⟩ := deeds.viewAndCab (by simp)
  ⟨view, cab, load⟩

/-- A clear claim flag of a station that is not the recorded holder is no news. -/
theorem applyStatusClaim_none {n : Nat} (remaining : Nat) (other : s.claim.holder ≠ .peer n) :
    applyStatusClaim n false remaining s = s := if_neg other

/-- A station that differs from another in view and link alone, with a trigger that depends on neither. -/
theorem triggered_frame {v : ConsistView} {k : LinkUnit} (b : Bool) (kept : t = { l with view := t.view })
    (same : l = { s with view := v, link := k }) (alloc : q.alloc = s.alloc) :
    t.withTriggerIf b = { s with view := (t.withTriggerIf b).view, alloc := (q.withTriggerIf b).alloc, link := k } := by
  have frame : t = { s with view := t.view, link := k } := by
    subst same
    exact kept
  have shown := congrArg (State.withTriggerIf b) frame
  rw [withTriggerIf_view, withTriggerIf_alloc_congr b alloc]
  refine shown.trans ?_
  cases b <;> rfl

/-- The stages of a STATUS: the listening station `l`, then `c` with the claim flag taken, then tally and trigger. -/
theorem status_shown {e : PeerEntry} (b : Bool) (heard : l = (q.heardAs i e).listened) (view : c.view = l.view) (cab : c.cab = l.cab)
    (unseen : q.view.tally = s.view.tally) (same : q.cab = s.cab) (alone : q.view.alone = s.view.alone)
    (fault : q.link.linkFault = s.link.linkFault) (frozen : q.view.sFrozen = s.view.sFrozen) (table : q.view.peers = s.view.peers) :
    let t := (recomputeTally c).withTriggerIf b
    t.view.entry i = e ∧ OtherEntriesKept i s t ∧ t.view.everSeen = true ∧ t.tallyCounts
      ∧ t.view.alone = (s.view.alone && s.link.linkFault) ∧ t.view.sFrozen = s.view.sFrozen
      ∧ (s.cab.decoder = .invalidPeers → t.view.tally ≠ s.view.tally →
          t.cab.demand = (majority t.view.tally).getD 0
            ∧ t.cab.source = (if majority t.view.tally = none then .default else .peers)) := by
  intro t
  obtain ⟨slot, phase, eq, -⟩ := listened_eq (q.heardAs i e)
  have tallied := tallied_recomputeTally c
  have shown : t.view = { l.view with tally := c.countTally } := by
    rw [← view, ← tallied.view]
    exact withTriggerIf_view ..
  have hview : l.view = { (q.heardAs i e).view with alone := q.view.alone && q.link.linkFault } := by
    rw [heard, eq]
    rfl
  have hcab : l.cab = s.cab := by
    rw [heard, eq]
    exact same
  have peers : t.view.peers = (s.heardAs i e).view.peers := by
    rw [shown, hview]
    show q.view.peers.set i e = s.view.peers.set i e
    rw [table]
  obtain ⟨entry, others⟩ := heardAs_shown peers
  refine ⟨entry, others, by rw [shown, hview]; rfl, tallyCounts_of_tallied b tallied, ?_, ?_, fun invalid changes => ?_⟩
  · rw [shown, hview, ← alone, ← fault]
  · rw [shown, hview, ← frozen]
    rfl
  · have old : c.view.tally = s.view.tally := by
      rw [view, hview, ← unseen]
      rfl
    have new : t.view.tally = c.countTally := by rw [shown]
    have same : t.cab = (recomputeTally c).cab := withTriggerIf_cab ..
    rw [new, same]
    exact tallied.peers (by rw [cab, hcab]; exact invalid) fun counts => changes (by rw [new, counts, old])

end

end Sys2Proof.Machine

open Sys2Proof.Machine in
/-- Settles O46: the entry is replaced once, and hearing, claim flag, tally and trigger leave the table. -/
theorem Sys2Proof.Machine.peerFramesUpdateTheTable : Obligations.PeerFramesUpdateTheTable := by
  intro s b rest i f e q heard due post named other
  have applied := exec_eq_after .frameApplication s
  rw [after_peerFrame due post named other] at applied
  refine ⟨fun r kind decoded => ⟨_, applied, ?_⟩, fun kind present => ⟨_, applied, ?_⟩, fun kind absent => ⟨_, applied, ?_⟩⟩
  · rw [applyPeer_status kind decoded]
    obtain ⟨view, cab, -⟩ := applyStatusClaim_apart (i.val + 1) r.claimRemaining r.claimHeld
      (q.heardAs i ((q.view.entry i).updated r)).listened
    obtain ⟨entry, others, seen, counts, alone, frozen, votes⟩ := status_shown (s := s) (q := q)
      (heard || e.differsFrom r) rfl view cab rfl rfl rfl rfl rfl rfl
    refine ⟨entry, others, seen, counts, alone, frozen, fun free holder phase valid => ?_, votes⟩
    obtain ⟨slot, phase', eq, still⟩ := listened_eq (q.heardAs i ((q.view.entry i).updated r))
    obtain ⟨rfl, rfl⟩ := still phase
    have none : applyStatusClaim (i.val + 1) r.claimHeld r.claimRemaining (q.heardAs i ((q.view.entry i).updated r)).listened
        = (q.heardAs i ((q.view.entry i).updated r)).listened := by
      rw [free]
      exact applyStatusClaim_none _ (by rw [eq]; exact holder)
    have tallied := tallied_recomputeTally (q.heardAs i ((q.view.entry i).updated r)).listened
    have kept := tallied.still (by rw [eq]; exact valid)
    rw [none]
    generalize hl : (q.heardAs i ((q.view.entry i).updated r)).listened = l at *
    exact triggered_frame (s := q) (q := s) _ kept eq rfl
  · rw [applyPeer_reply kind, if_pos present]
    obtain ⟨entry, others⟩ := heardAs_shown (t := q.heardAs i (q.view.entry i).heard) rfl
    have unchanged : e.heard = { e with age := .running 1000 } := by
      have mark : (e.changed || e.presence != .present) = e.changed := by
        rw [present, bne_self_eq_false, Bool.or_false]
      rw [PeerEntry.heard, mark, ← present]
    exact ⟨entry.trans unchanged, others, rfl, rfl, rfl⟩
  · rw [applyPeer_reply kind, if_neg absent]
    have tallied := tallied_recomputeTally (q.heardAs i (q.view.entry i).heard)
    have view : (recomputeTally (q.heardAs i (q.view.entry i).heard)).withTrigger.view
        = { (q.heardAs i (q.view.entry i).heard).view with tally := (q.heardAs i (q.view.entry i).heard).countTally } := tallied.view
    obtain ⟨entry, others⟩ := heardAs_shown (s := s) (t := (recomputeTally (q.heardAs i (q.view.entry i).heard)).withTrigger)
      (e := e.heard) (by rw [view]; rfl)
    refine ⟨entry, others, tallyCounts_of_tallied true tallied, by rw [view]; rfl, by rw [view]; rfl, fun valid => ?_⟩
    exact triggered_frame (s := q) (q := s) true (tallied.still valid) rfl rfl
end


section
/-! An aged entry and ALONE (R9, R69, R74, R79, R83): O48. -/

namespace Sys2Proof.Machine

section
variable {s t : State} {i : Fin 7}

/-! ### The entry into ALONE (R79) -/

/-- The view's own part of an entry into ALONE: the flag, and S_load frozen where the flag is new. -/
def State.aloneView (s : State) : ConsistView :=
  { s.view with alone := true, sFrozen := if s.view.alone then s.view.sFrozen else s.alloc.results.sLoad }

theorem enterAlone_already (alone : s.view.alone = true) : enterAlone s = s := if_pos alone

theorem enterAlone_new (first : s.view.alone = false) : enterAlone s = (aloneAppears (s.setView s.aloneView)).withMark := by
  unfold enterAlone
  rw [if_neg (by simp [first]), markStatus_eq_withMark, State.aloneView, if_neg (by simp [first])]

theorem aloneAppears_starting (starting : s.seq.state = .prelube ∨ s.seq.state = .claimWait) : aloneAppears s = cancelStart s := by
  unfold aloneAppears
  obtain state | state := starting <;> rw [state]

theorem aloneAppears_still (prelube : s.seq.state ≠ .prelube) (claimWait : s.seq.state ≠ .claimWait) : aloneAppears s = s := by
  unfold aloneAppears
  split
  · exact absurd ‹_› prelube
  · exact absurd ‹_› claimWait
  · rfl

/-- What an entry into ALONE shows and leaves, whatever the engine does about it. -/
theorem enterAlone_shown (s : State) : (enterAlone s).view = s.aloneView ∧ (enterAlone s).cab = s.cab
    ∧ (enterAlone s).load = s.load ∧ (enterAlone s).alloc.phase = s.alloc.phase := by
  cases alone : s.view.alone
  · rw [enterAlone_new alone]
    by_cases starting : s.seq.state = .prelube ∨ s.seq.state = .claimWait
    · rw [aloneAppears_starting (s := s.setView s.aloneView) starting]
      have cancelled := cancelled_cancelStart (s.setView s.aloneView)
      obtain ⟨cab, ⟨view, load, -, -, -, -, alloc, -⟩, -⟩ := cancelled.frame
      exact ⟨view, cab, load, (congrArg Allocator.phase alloc :)⟩
    · obtain ⟨prelube, claimWait⟩ := not_or.1 starting
      rw [aloneAppears_still (s := s.setView s.aloneView) prelube claimWait]
      exact ⟨rfl, rfl, rfl, rfl⟩
  · rw [enterAlone_already alone]
    refine ⟨?_, rfl, rfl, rfl⟩
    rw [State.aloneView, if_pos alone, ← alone]

/-- A start in PRELUBE or CLAIM_WAIT is cancelled by the entry into ALONE (R9). -/
theorem enterAlone_cancels (first : s.view.alone = false) (starting : s.seq.state = .prelube ∨ s.seq.state = .claimWait) :
    (enterAlone s).seq.state = if s.cab.isolate.qualified then .isolated else .stopped := by
  rw [enterAlone_new first, aloneAppears_starting (s := s.setView s.aloneView) starting]
  exact (cancelled_cancelStart (s.setView s.aloneView)).entered.1

/-- In every other state the engine stands. -/
theorem enterAlone_frame (prelube : s.seq.state ≠ .prelube) (claimWait : s.seq.state ≠ .claimWait) : enterAlone s = { s with
    view := s.aloneView, link := { s.link with statusMarked := (enterAlone s).link.statusMarked } } := by
  cases alone : s.view.alone
  · rw [enterAlone_new alone, aloneAppears_still (s := s.setView s.aloneView) prelube claimWait]
    rfl
  · rw [enterAlone_already alone, State.aloneView, if_pos alone, ← alone]

/-! ### The aged entry (R69) -/

/-- The station after its last present peer is gone, with ALONE entered where that is so (R79). -/
def State.forsaken (s : State) : State := if s.noPeerPresent && s.view.everSeen then enterAlone s else s

theorem ageTaken_forsaken (i : Fin 7) (s : State) : ageTaken i s = (recomputeTally (s.withLost i).forsaken).withTrigger :=
  (ageTaken_eq i s).trans (passTrigger_eq_withTrigger _)

theorem forsaken_shown (s : State) : s.forsaken.view.peers = s.view.peers ∧ s.forsaken.cab = s.cab
    ∧ s.forsaken.alloc.phase = s.alloc.phase := by
  obtain ⟨view, cab, -, phase⟩ := enterAlone_shown s
  unfold State.forsaken
  split
  · exact ⟨by rw [view]; rfl, cab, phase⟩
  · exact ⟨rfl, rfl, rfl⟩

theorem forsaken_frame (prelube : s.seq.state ≠ .prelube) (claimWait : s.seq.state ≠ .claimWait) : s.forsaken = { s with
    view := s.forsaken.view, link := { s.link with statusMarked := s.forsaken.link.statusMarked } } := by
  unfold State.forsaken
  split
  · have frame := enterAlone_frame prelube claimWait
    rw [(enterAlone_shown s).1]
    exact frame
  · rfl

/-- The end of a table change that called for a pass: the tally, then the trigger. -/
theorem Tallied.triggered (h : Tallied s t) : t.withTrigger.view = { s.view with tally := s.countTally }
    ∧ t.withTrigger.seq = s.seq ∧ t.withTrigger.tallyCounts
    ∧ (s.alloc.phase = .ready → t.withTrigger.alloc.reEvaluate = true) := by
  refine ⟨h.view, (congrArg State.seq h.rest :), tallyCounts_of_tallied true h, fun ready => ?_⟩
  have phase : t.alloc.phase = .ready := by rw [h.rest]; exact ready
  show (t.alloc.reEvaluate || t.alloc.phase == .ready || t.alloc.phase == .inPass) = true
  rw [phase]
  simp

theorem noPeerPresent_withEntry {e : PeerEntry} (absent : e.presence ≠ .present) : (s.withEntry i e).noPeerPresent = true
    ↔ ∀ j : Fin 7, j ≠ i → s.load.station ≠ j.val + 1 → (s.view.entry j).presence ≠ .present := by
  simp only [State.noPeerPresent, List.all_eq_true, List.mem_finRange, true_imp_iff, withEntry_entry, Bool.or_eq_true, bne_iff_ne]
  refine forall_congr' fun j => ?_
  have self : ((s.withEntry i e).isSelf j = true) ↔ s.load.station = j.val + 1 := by
    simp only [State.isSelf, State.withEntry, setView_load, beq_iff_eq]
  rw [self]
  by_cases same : i = j
  · simp only [same.symm, ne_eq, not_true, false_imp_iff, iff_true]
    exact .inr absent
  · simp only [if_neg same, ne_eq, Ne.symm same, not_false_iff, true_imp_iff]
    exact or_iff_not_imp_left

/-- No peer but the one at a place is PRESENT, and a peer was seen: the condition of ALONE once that one is LOST (R79). -/
def State.lastPeer (s : State) (i : Fin 7) : Prop := s.view.everSeen = true ∧ ∀ j : Fin 7, j ≠ i → s.load.station ≠ j.val + 1 →
  (s.view.entry j).presence ≠ .present

theorem forsaken_lastPeer {w : State} {e : PeerEntry} (lost : w = s.withEntry i e) (absent : e.presence ≠ .present) :
    (s.lastPeer i → w.forsaken = enterAlone w) ∧ (¬ s.lastPeer i → w.forsaken = w) := by
  have nobody : s.lastPeer i ↔ (w.noPeerPresent && w.view.everSeen) = true := by
    rw [lost, Bool.and_eq_true, noPeerPresent_withEntry absent]
    exact and_comm
  rw [nobody]
  exact ⟨fun last => if_pos last, fun other => if_neg other⟩

/-- What an entry gone LOST leads to: ALONE where it was the last one, the tally, the trigger. -/
theorem lost_shown {w : State} {e : PeerEntry} (lost : w = s.withEntry i e) (absent : e.presence ≠ .present) :
    let t := (recomputeTally w.forsaken).withTrigger
    t.view.entry i = e ∧ OtherEntriesKept i s t ∧ t.tallyCounts
      ∧ (s.alloc.phase = .ready → t.alloc.reEvaluate = true)
      ∧ (¬ s.lastPeer i → t.view.alone = s.view.alone ∧ t.view.sFrozen = s.view.sFrozen)
      ∧ (s.lastPeer i → t.view.alone = true ∧ t.view.sFrozen = if s.view.alone then s.view.sFrozen else s.alloc.results.sLoad)
      ∧ (s.view.alone = false → s.lastPeer i → s.seq.state = .prelube ∨ s.seq.state = .claimWait →
          t.seq.state = (if s.cab.isolate.qualified then .isolated else .stopped))
      ∧ (s.seq.state ≠ .prelube → s.seq.state ≠ .claimWait → s.cab.decoder ≠ .invalidPeers →
          t = { s with
            view := t.view, alloc := s.withTrigger.alloc, link := { s.link with statusMarked := t.link.statusMarked } }) := by
  intro t
  have tallied := tallied_recomputeTally w.forsaken
  obtain ⟨view, seq, counts, again⟩ := tallied.triggered
  obtain ⟨table, cab, phase⟩ := forsaken_shown w
  obtain ⟨whenLast, otherwise⟩ := forsaken_lastPeer lost absent
  have entry (j : Fin 7) : t.view.entry j = if i = j then e else s.view.entry j := by
    rw [← withEntry_entry s i j e, ← lost]
    exact congrArg (fun p : Vector PeerEntry 7 => p[j]) ((congrArg ConsistView.peers view).trans table)
  have ready : w.alloc = s.alloc := by rw [lost]; rfl
  refine ⟨(entry i).trans (if_pos rfl), fun j apart => (entry j).trans (if_neg (Ne.symm apart)), counts,
    fun r => again (by rw [phase, ready]; exact r), fun other => ?_, fun last => ?_, fun first last starting => ?_,
    fun prelube claimWait valid => ?_⟩
  · rw [view, otherwise other, lost]
    exact ⟨rfl, rfl⟩
  · rw [view, whenLast last, (enterAlone_shown w).1, lost]
    exact ⟨rfl, rfl⟩
  · rw [seq, whenLast last]
    have cancels := enterAlone_cancels (s := w) (by rw [lost]; exact first) (by rw [lost]; exact starting)
    rw [cancels, lost]
    rfl
  · have frame := forsaken_frame (s := w) (by rw [lost]; exact prelube) (by rw [lost]; exact claimWait)
    have kept := tallied.still (by rw [cab, lost]; exact valid)
    have same : w.forsaken = { s with
        view := w.forsaken.view, link := { s.link with statusMarked := w.forsaken.link.statusMarked } } := by
      rw [lost] at frame ⊢
      exact frame
    have triggered := triggered_frame (q := s) true kept same rfl
    have link : t.link = { s.link with statusMarked := w.forsaken.link.statusMarked } := congrArg State.link triggered
    have marked : t.link.statusMarked = w.forsaken.link.statusMarked := by rw [link]
    rw [marked]
    exact triggered

end
end Sys2Proof.Machine

open Sys2Proof.Machine in
/-- Settles O48: LOST is one entry's; ALONE, where it follows, cancels a start; the tally and the trigger come last. -/
theorem Sys2Proof.Machine.agedPeersAreLost : Obligations.AgedPeersAreLost := by
  intro s i e last running
  have found : peerIndex (i.val + 1) = some i := (peerIndex_eq_some_iff ..).2 rfl
  have applied := exec_eq_after (.ageExpiry (i.val + 1)) s
  rw [after_ageExpiry found running] at applied
  refine ⟨fun inPass => ?_, fun outside => ?_⟩
  · rw [if_pos inPass] at applied
    exact ⟨_, applied, (withEntry_entry ..).trans (if_pos rfl), fun j apart => (withEntry_entry ..).trans (if_neg (Ne.symm apart)), rfl⟩
  · rw [if_neg outside, ageTaken_forsaken] at applied
    refine ⟨_, applied, ?_⟩
    have lost : (s.withEntry i { e with age := .expired }).withLost i
        = s.withEntry i { e with presence := .lost, age := .expired, heldExpiry := false, changed := true } := by
      rw [withLost_eq, withEntry_withEntry, withEntry_entry, if_pos rfl]
      rfl
    rw [lost]
    exact lost_shown rfl nofun
end


section
/-! The claims of the peers at the claim record (R111 to R113, R118, R121): O49. -/

namespace Sys2Proof.Machine

section
variable {s t u : State} {i : Fin 7} {n lease : Nat} {f : RawFrame}

/-! ### A peer's claim by the holder found -/

theorem claimOnly_refl (s : State) : ClaimOnly s s := ⟨s.claim, s.link.claimSlot, s.link.statusMarked, rfl⟩

theorem claimSeesPeer_eq (s : State) : claimSeesPeer s = if s.claim.phase = .offered then { s with
    link := { s.link with claimSlot := s.link.claimSlot.withdraw }
    claim := if s.link.claimSlot.claimIsSending then { s.claim with phase := .lapsed, needStands := true }
      else { s.claim with phase := .wanted } } else s := by
  unfold claimSeesPeer
  rw [withdrawOffer_eq]

/-- With no holder recorded the peer is, and an own offer is withdrawn (R111, R118). -/
theorem peerClaims_free (free : s.claim.holder = .none) (n lease : Nat) : ClaimOnly s (peerClaims n lease s)
    ∧ ClaimRecorded n lease s (peerClaims n lease s) ∧ (peerClaims n lease s).claim.foreignMark = s.claim.foreignMark := by
  have eq : peerClaims n lease s = claimSeesPeer (s.setClaim (s.claim.held n lease)) := by
    unfold peerClaims
    rw [free]
  rw [ClaimRecorded, free, eq, claimSeesPeer_eq]
  by_cases offered : s.claim.phase = .offered
  · rw [if_pos (c := (s.setClaim (s.claim.held n lease)).claim.phase = .offered) offered]
    refine ⟨⟨_, _, s.link.statusMarked, rfl⟩, ?_, ?_⟩
    · by_cases sending : s.link.claimSlot.claimIsSending = true
      · have sends : (s.setClaim (s.claim.held n lease)).link.claimSlot.claimIsSending = true := sending
        rw [if_pos sends]
        refine ⟨rfl, rfl, rfl, fun other => absurd offered other, fun _ => ⟨fun c pending => ?_, fun c h w slot => ⟨rfl, rfl, ?_⟩⟩⟩
        · rw [pending] at sending
          cases sending
        · rw [setClaim_link, slot]
          rfl
      · have waits : ¬ (s.setClaim (s.claim.held n lease)).link.claimSlot.claimIsSending = true := sending
        rw [if_neg waits]
        refine ⟨rfl, rfl, rfl, fun other => absurd offered other, fun _ => ⟨fun c pending => ⟨rfl, ?_⟩, fun c h w slot => ?_⟩⟩
        · rw [setClaim_link, pending]
          rfl
        · rw [slot] at sending
          exact absurd rfl sending
    · dsimp only
      split <;> rfl
  · rw [if_neg (c := (s.setClaim (s.claim.held n lease)).claim.phase = .offered) offered]
    exact ⟨⟨_, s.link.claimSlot, s.link.statusMarked, rfl⟩, ⟨rfl, rfl, rfl, fun _ => ⟨rfl, rfl⟩, fun h => absurd h offered⟩, rfl⟩

/-- With a peer recorded the lower number holds (R111). -/
theorem peerClaims_peer {y : Nat} (held : s.claim.holder = .peer y) (n lease : Nat) : ClaimOnly s (peerClaims n lease s)
    ∧ ClaimRecorded n lease s (peerClaims n lease s) ∧ (peerClaims n lease s).claim.foreignMark = s.claim.foreignMark := by
  have eq : peerClaims n lease s = if n ≤ y then s.setClaim (s.claim.held n lease) else s := by
    unfold peerClaims
    rw [held]
  rw [ClaimRecorded, held, eq]
  by_cases lower : n ≤ y
  · rw [if_pos lower]
    exact ⟨⟨_, s.link.claimSlot, s.link.statusMarked, rfl⟩,
      ⟨fun _ => ⟨rfl, rfl⟩, fun higher => absurd lower (by omega), rfl, rfl, rfl⟩, rfl⟩
  · rw [if_neg lower]
    exact ⟨claimOnly_refl s, ⟨fun low => absurd low lower, fun _ => ⟨held, rfl⟩, rfl, rfl, rfl⟩, rfl⟩

theorem peerClaims_self (held : s.claim.holder = .self) (n lease : Nat) : peerClaims n lease s = conflictingClaim n lease s := by
  unfold peerClaims
  rw [held]

/-- The own claim is kept against a peer that is not lower, and outside SETTLING (R121). -/
theorem peerClaims_kept (held : s.claim.holder = .self) (kept : s.claim.phase ≠ .settling ∨ s.load.station ≤ n) (lease : Nat) :
    ClaimOnly s (peerClaims n lease s)
    ∧ ClaimRecorded n lease s (peerClaims n lease s) ∧ (peerClaims n lease s).claim.foreignMark = s.claim.foreignMark := by
  have eq : peerClaims n lease s = s.withMark := by
    rw [peerClaims_self held, conflictingClaim, if_neg, markStatus_eq_withMark]
    simp only [Bool.and_eq_true, decide_eq_true_eq]
    rintro ⟨settling, lower⟩
    obtain other | high := kept
    · exact other settling
    · omega
  rw [ClaimRecorded, held, eq]
  refine ⟨⟨s.claim, s.link.claimSlot, _, rfl⟩, ⟨held, rfl, rfl, rfl, rfl, fun enabled => ?_⟩, rfl⟩
  show (s.link.statusMarked || s.link.txEnabled) = true
  rw [enabled, Bool.or_true]

theorem peerClaims_recorded (calm : s.claim.phase ≠ .settling ∨ s.claim.holder ≠ .self ∨ s.load.station ≤ n) (lease : Nat) :
    ClaimOnly s (peerClaims n lease s)
    ∧ ClaimRecorded n lease s (peerClaims n lease s) ∧ (peerClaims n lease s).claim.foreignMark = s.claim.foreignMark := by
  match found : s.claim.holder with
  | .none => exact peerClaims_free found n lease
  | .peer y => exact peerClaims_peer found n lease
  | .self => exact peerClaims_kept found (calm.imp_right fun h => h.resolve_left fun other => other found) lease

/-- Once a claim of a peer has been recorded somebody is holder. -/
theorem ClaimRecorded.holder (h : ClaimRecorded n lease s t) : t.claim.holder ≠ .none := by
  unfold ClaimRecorded at h
  split at h
  · rw [h.1]
    nofun
  · next y _ =>
    obtain ⟨low, high, -⟩ := h
    obtain le | gt := Nat.lt_or_ge y n
    · rw [(high le).1]
      nofun
    · rw [(low gt).1]
      nofun
  · rw [h.1]
    nofun

/-! ### The own claim lost while it settles (R11, R121) -/

/-- The own claim given up to a lower peer, the RELEASE offered and STATUS marked. -/
def State.yielded (s : State) (n lease : Nat) : State := markStatus (offerRelease .abandoned (s.setClaim
  ({ s.claim with settle := .stopped, clock := .stopped, phase := .idle }.held n lease)))

theorem yielded_eq (s : State) (n lease : Nat) : s.yielded n lease = { s with
    claim := { s.claim with settle := .stopped, clock := .stopped, phase := .idle, holder := .peer n, lease := .running lease }
    link := { s.withMark.link with claimSlot := s.slotReleasing .abandoned } } := by
  unfold State.yielded
  rw [slotReleasing_eq, markStatus_eq_withMark]
  rfl

theorem peerClaims_conflict (held : s.claim.holder = .self) (settling : s.claim.phase = .settling) (lower : n < s.load.station)
    (lease : Nat) : peerClaims n lease s
      = if s.seq.state = .claimSettle then enterClaimWait (s.yielded n lease) else s.yielded n lease := by
  have state : (s.yielded n lease).seq = s.seq := by rw [yielded_eq]
  rw [peerClaims_self held, conflictingClaim, if_pos (by simp [settling, lower]), ← state]
  rfl

theorem conflictLost_peerClaims (held : s.claim.holder = .self) (settling : s.claim.phase = .settling) (lower : n < s.load.station)
    (state : s.seq.state = .claimSettle) (clear : NoStandingCause s) (lease : Nat) : ConflictLost n lease s (peerClaims n lease s) := by
  rw [peerClaims_conflict held settling lower, if_pos state]
  have yields := yielded_eq s n lease
  generalize s.yielded n lease = y at *
  have clear' : NoStandingCause y := by rw [yields]; exact clear
  have idle : y.claim.phase = .idle := by rw [yields]
  have holder : y.claim.holder = .peer n := by rw [yields]
  rw [enterClaimWait_barred clear' idle (.inl (by rw [holder]; nofun))]
  have calm := (Calm.refl y).entryBase .claimWait
  have entered := entered_entryBase .claimWait y
  have seq := entryBase_seq .claimWait y
  generalize entryBase .claimWait y = v at *
  obtain ⟨state', -, -, commands, marked, -⟩ := entered
  have attempts : v.seq.attempts = s.seq.attempts := by rw [seq, yields]
  have slot : v.link.claimSlot = s.slotReleasing .abandoned := calm.slot.trans (by rw [yields])
  subst yields
  exact ⟨state', attempts, commands, rfl, rfl, rfl, rfl, rfl, rfl, rfl, slot, marked⟩

/-- Whatever the Sequencer makes of it, the foreign-claim mark stands. -/
theorem peerClaims_foreign (n lease : Nat) (s : State) : (peerClaims n lease s).claim.foreignMark = s.claim.foreignMark := by
  by_cases lost : s.claim.phase = .settling ∧ s.claim.holder = .self ∧ n < s.load.station
  · obtain ⟨settling, held, lower⟩ := lost
    have yields : (s.yielded n lease).claim.foreignMark = s.claim.foreignMark := by rw [yielded_eq]
    rw [peerClaims_conflict held settling lower]
    split
    · next state =>
      have there : (s.yielded n lease).seq.state = .claimSettle := (congrArg (·.seq.state) (yielded_eq s n lease)).trans state
      have start : (s.yielded n lease).mayTry := State.mayTry_of_state there rfl
      obtain ⟨-, ⟨-, -, -, -, -, -, -, claim, -⟩, -⟩ := ((Deeds.plain (s.yielded n lease)).enterClaimWait rfl start).plainFrame
      rw [claim]
      exact yields
    · exact yields
  · refine (peerClaims_recorded ?_ lease).2.2
    by_cases settling : s.claim.phase = .settling
    · by_cases held : s.claim.holder = .self
      · exact .inr (.inr (Nat.not_lt.1 fun lower => lost ⟨settling, held, lower⟩))
      · exact .inr (.inl held)
    · exact .inl settling

end

end Sys2Proof.Machine
end


section
/-! The frames of the peers at the claim record (R70, R72, R80, R111 to R113): O49. -/

namespace Sys2Proof.Machine

section
variable {s t u q w : State} {i : Fin 7} {n lease : Nat} {f : RawFrame} {c : ClaimFields}

/-! ### What the tally leaves -/

/-- Stations that differ in view, demand, mark and trigger alone; the mark stands. -/
structure NewsOnly (s t : State) : Prop where
  claim : t.claim = s.claim
  seq : t.seq = s.seq
  stepper : t.stepper = s.stepper
  out : t.out = s.out
  ret : t.ret = s.ret
  slot : t.link.claimSlot = s.link.claimSlot
  marked : s.link.statusMarked = true → t.link.statusMarked = true

theorem Tallied.news (h : Tallied s t) (b : Bool) : NewsOnly s (t.withTriggerIf b) := by
  have marked := h.marked
  have rest := h.rest
  have own : NewsOnly s t :=
    ⟨(congrArg State.claim rest :), (congrArg State.seq rest :), (congrArg State.stepper rest :), (congrArg State.out rest :),
      (congrArg State.ret rest :), (congrArg (·.link.claimSlot) rest :), marked⟩
  cases b
  · exact own
  · exact ⟨own.claim, own.seq, own.stepper, own.out, own.ret, own.slot, own.marked⟩

theorem ClaimRecorded.told (h : ClaimRecorded n lease s w) (claim : t.claim = { w.claim with foreignMark := t.claim.foreignMark })
    (slot : t.link.claimSlot = w.link.claimSlot) (marked : w.link.statusMarked = true → t.link.statusMarked = true) :
    ClaimRecorded n lease s t := by
  generalize t.claim.foreignMark = b at claim
  unfold ClaimRecorded at h ⊢
  rw [claim, slot]
  split at h
  · exact h
  · exact h
  · obtain ⟨holder, lease, phase, recovery, slot, mark⟩ := h
    exact ⟨holder, lease, phase, recovery, slot, fun enabled => marked (mark enabled)⟩

theorem ConflictLost.told (h : ConflictLost n lease s w) (claim : t.claim = { w.claim with foreignMark := t.claim.foreignMark })
    (seq : t.seq = w.seq) (commands : t.standingCommands = w.standingCommands)
    (slot : t.link.claimSlot = w.link.claimSlot) (marked : w.link.statusMarked = true → t.link.statusMarked = true) :
    ConflictLost n lease s t := by
  generalize t.claim.foreignMark = b at claim
  obtain ⟨state, attempts, stands, holder, lease, phase, settle, clock, attempt, recovery, slot', mark⟩ := h
  rw [ConflictLost, claim, seq, commands, slot]
  exact ⟨state, attempts, stands, holder, lease, phase, settle, clock, attempt, recovery, slot', fun enabled => marked (mark enabled)⟩

/-! ### CLAIM (R111) -/

theorem applyPeer_claim (kind : f.kind = 0) (decoded : decodeClaim f.data = some c) : applyPeer i f s
    = (recomputeTally (applyClaim (i.val + 1) c (s.heardAs i (s.view.entry i).heard))).withTrigger := by
  have zero : f.kind.toNat = 0 := by rw [kind]; rfl
  unfold applyPeer
  simp only [zero, decoded, claimNews, passTrigger_eq_withTrigger, heardPeer_eq]

/-- A CLAIM clears the foreign-claim mark (R118). -/
theorem applyClaim_foreign (n : Nat) (c : ClaimFields) (s : State) : (applyClaim n c s).claim.foreignMark = false := by
  unfold applyClaim
  dsimp only
  split
  · obtain ⟨slot, phase, eq, -⟩ := examineOffer_changes ((peerClaims n (claimLease c.crankLimit) s).setClaim
      { (peerClaims n (claimLease c.crankLimit) s).claim with foreignMark := false })
    rw [eq]
    rfl
  · next clear => exact (Bool.not_eq_true _).mp clear

/-- With a holder recorded the examination that follows the cleared mark offers nothing. -/
theorem applyClaim_eq (held : (peerClaims n (claimLease c.crankLimit) s).claim.holder ≠ .none) : applyClaim n c s
    = (peerClaims n (claimLease c.crankLimit) s).setClaim
      { (peerClaims n (claimLease c.crankLimit) s).claim with foreignMark := false } := by
  unfold applyClaim
  generalize peerClaims n (claimLease c.crankLimit) s = p at *
  dsimp only
  split
  · exact examineOffer_still fun offers => held offers.2.1
  · next clear =>
    rw [← (Bool.not_eq_true _).mp clear]
    rfl

theorem applyClaim_apart (n : Nat) (c : ClaimFields) (s : State) : (applyClaim n c s).view = s.view
    ∧ (applyClaim n c s).alloc.phase = s.alloc.phase := by
  have deeds : Deeds ⟨[], true, claimParts⟩ s (applyClaim n c s) := (Deeds.refl s (.inl rfl)).applyClaim n c (by simp)
  exact ⟨(deeds.viewAndCab (by simp)).1, (deeds.viewKept (by simp)).2.1⟩

/-! ### RELEASE (R112) -/

theorem applyPeer_release (kind : f.kind = 1) : applyPeer i f s
    = (recomputeTally (peerReleases (i.val + 1) (s.heardAs i (s.view.entry i).heard))).withTrigger := by
  have one : f.kind.toNat = 1 := by rw [kind]; rfl
  unfold applyPeer
  simp only [one, claimNews, passTrigger_eq_withTrigger, heardPeer_eq]

/-- The claim of the recorded holder ends: no offer can follow, because recovery starts (R112, R115). -/
theorem peerReleases_eq (n : Nat) (s : State) : peerReleases n s = { s with
    claim := if s.claim.holder = .peer n then
      { s.claim with holder := .none, lease := .stopped, recovery := .running (s.params.recoveryTime * 1000) } else s.claim } := by
  unfold peerReleases
  split
  · exact examineOffer_of_recovering rfl
  · rfl

/-- A frame's table change: the entry heard, the others as they were, the tally counted, a pass called for. -/
theorem heard_shown {e : PeerEntry} (table : q.view.peers = s.view.peers) (phase : w.alloc.phase = s.alloc.phase)
    (view : w.view = (q.heardAs i e).view) : let t := (recomputeTally w).withTrigger
    t.view.entry i = e ∧ OtherEntriesKept i s t ∧ t.tallyCounts ∧ (s.alloc.phase = .ready → t.alloc.reEvaluate = true) := by
  intro t
  obtain ⟨shown, -, counts, again⟩ := (tallied_recomputeTally w).triggered
  have peers : t.view.peers = (s.heardAs i e).view.peers := by
    rw [show t.view = _ from shown, view]
    show q.view.peers.set i e = s.view.peers.set i e
    rw [table]
  obtain ⟨entry, others⟩ := heardAs_shown peers
  exact ⟨entry, others, counts, fun ready => again (phase.trans ready)⟩

end

/-! ### O49 -/

section
variable {s : State} {b : Fin 8} {rest : List (Fin 8)} {i : Fin 7} {n lease : Nat}

/-- A claim recorded and told on, as the statement asks for it. -/
theorem recorded_told {p w t : State} (only : ClaimOnly s p) (recorded : ClaimRecorded n lease s p)
    (claim : w.claim = { p.claim with foreignMark := w.claim.foreignMark }) (same : w = { p with claim := w.claim })
    (news : NewsOnly w t) : ClaimRecorded n lease s t ∧ t.seq = s.seq ∧ t.stepper = s.stepper ∧ t.out = s.out ∧ t.ret = s.ret := by
  have link : w.link = p.link := by rw [same]
  have wrec : ClaimRecorded n lease s w := recorded.told claim (by rw [link]) (by rw [link]; exact id)
  have trec : ClaimRecorded n lease s t := wrec.told (by rw [news.claim]) news.slot news.marked
  obtain ⟨c, slot, mark, eq⟩ := only
  refine ⟨trec, news.seq.trans ?_, news.stepper.trans ?_, news.out.trans ?_, news.ret.trans ?_⟩ <;> rw [same, eq]

/-- The own claim lost and told on. -/
theorem lost_told {p w t : State} (lost : ConflictLost n lease s p)
    (claim : w.claim = { p.claim with foreignMark := w.claim.foreignMark }) (same : w = { p with claim := w.claim })
    (news : NewsOnly w t) : ConflictLost n lease s t := by
  have link : w.link = p.link := by rw [same]
  have wlost : ConflictLost n lease s w := lost.told claim (by rw [same]) (by rw [same]; rfl) (by rw [link]) (by rw [link]; exact id)
  refine wlost.told (by rw [news.claim]) news.seq ?_ news.slot news.marked
  rw [State.standingCommands, State.standingCommands, news.out, news.ret]

end

end Sys2Proof.Machine

open Sys2Proof.Machine in
/-- Settles O49: the record by the holder found, then the tally and the trigger, which leave the claim. -/
theorem Sys2Proof.Machine.peerClaimsAreRecorded : Obligations.PeerClaimsAreRecorded := by
  intro s b rest i f n due post named other
  let q := s.taking b rest
  have applied := exec_eq_after .frameApplication s
  rw [after_peerFrame due post named other] at applied
  refine ⟨fun c kind decoded => ⟨_, applied, ?_⟩, fun r kind decoded held first => ⟨_, applied, ?_⟩, fun kind => ⟨_, applied, ?_⟩,
    fun r kind decoded free quiet => ⟨_, applied, ?_⟩⟩
  · rw [applyPeer_claim kind decoded]
    obtain ⟨view, phase⟩ := applyClaim_apart n c (q.heardAs i (q.view.entry i).heard)
    obtain ⟨entry, others, counts, again⟩ := heard_shown (s := s) (q := q) rfl phase view
    have news := (tallied_recomputeTally (applyClaim n c (q.heardAs i (q.view.entry i).heard))).news true
    have foreign := applyClaim_foreign n c (q.heardAs i (q.view.entry i).heard)
    refine ⟨entry, others, counts, by rw [← foreign, ← news.claim]; rfl, again, fun calm => ?_, fun settling held lower state clear => ?_⟩
    · obtain ⟨only, recorded, -⟩ := peerClaims_recorded (s := q.heardAs i (q.view.entry i).heard) (n := n) calm (claimLease c.crankLimit)
      have eq := applyClaim_eq recorded.holder
      exact recorded_told (s := q.heardAs i (q.view.entry i).heard) only recorded (by rw [eq]; rfl) (by rw [eq]; rfl) news
    · have lost := conflictLost_peerClaims (s := q.heardAs i (q.view.entry i).heard) held settling lower state clear (claimLease c.crankLimit)
      have eq := applyClaim_eq (c := c) (by rw [lost.2.2.2.1]; nofun)
      exact lost_told lost (by rw [eq]; rfl) (by rw [eq]; rfl) news
  · have normal : (q.heardAs i ((q.view.entry i).updated r)).listened = q.heardAs i ((q.view.entry i).updated r) :=
      listened_normal (.inl first)
    rw [applyPeer_status kind decoded, normal, held]
    have news := (tallied_recomputeTally (peerClaims n (statusLease r.claimRemaining) (q.heardAs i ((q.view.entry i).updated r)))).news
      ((q.view.entry i).presence != .present || (q.view.entry i).differsFrom r)
    refine ⟨(congrArg ClaimUnit.foreignMark news.claim).trans (peerClaims_foreign ..), fun calm => ?_, fun settling held lower state clear => ?_⟩
    · obtain ⟨only, recorded, -⟩ := peerClaims_recorded (s := q.heardAs i ((q.view.entry i).updated r)) (n := n) calm
        (statusLease r.claimRemaining)
      exact recorded_told (s := q.heardAs i ((q.view.entry i).updated r)) only recorded rfl rfl news
    · exact lost_told (conflictLost_peerClaims (s := q.heardAs i ((q.view.entry i).updated r)) held settling lower state clear
        (statusLease r.claimRemaining)) rfl rfl news
  · rw [applyPeer_release kind]
    have eq := peerReleases_eq n (q.heardAs i (q.view.entry i).heard)
    have news := (tallied_recomputeTally (peerReleases n (q.heardAs i (q.view.entry i).heard))).news true
    obtain ⟨entry, others, counts, again⟩ := heard_shown (s := s) (q := q) (i := i) (e := (q.view.entry i).heard)
      (w := peerReleases n (q.heardAs i (q.view.entry i).heard)) rfl (by rw [eq]; rfl) (by rw [eq])
    exact ⟨entry, others, counts, again, news.seq.trans (by rw [eq]; rfl), news.claim.trans (by rw [eq]; rfl)⟩
  · rw [applyPeer_status kind decoded, free]
    obtain ⟨slot, phase, heard, still⟩ := listened_eq (q.heardAs i ((q.view.entry i).updated r))
    have claim : (q.heardAs i ((q.view.entry i).updated r)).listened.claim = s.claim := by
      obtain first | fault | phase' := quiet
      · exact (congrArg State.claim (listened_normal (s := q.heardAs i ((q.view.entry i).updated r)) (.inl first)) :)
      · exact (congrArg State.claim (listened_normal (s := q.heardAs i ((q.view.entry i).updated r)) (.inr fault)) :)
      · obtain ⟨rfl, rfl⟩ := still phase'
        rw [heard]
        rfl
    have seq : (q.heardAs i ((q.view.entry i).updated r)).listened.seq = s.seq := by
      rw [heard]
      rfl
    have params : (q.heardAs i ((q.view.entry i).updated r)).listened.params = s.params := by
      rw [heard]
      rfl
    generalize (q.heardAs i ((q.view.entry i).updated r)).listened = l at *
    have news := (tallied_recomputeTally (peerReleases n l)).news
      ((q.view.entry i).presence != .present || (q.view.entry i).differsFrom r)
    have eq := peerReleases_eq n l
    refine ⟨news.seq.trans ?_, news.claim.trans ?_⟩
    · rw [eq]
      exact seq
    · rw [eq]
      dsimp only
      rw [claim, params]
end


section
/-! The own number heard (R52, R76, R77, R122, R124, R184): O47. -/

namespace Sys2Proof.Machine

section
variable {s t q d u v : State} {code : Nat}

/-! ### A disabled transmitter with no offer of its own -/

/-- A station that neither sends nor offers: the tweaks of the own claim pass its link by. -/
structure Silent (l : LinkUnit) (v : ConsistView) (m : Option Request) (s : State) : Prop where
  link : s.link = l
  off : l.txEnabled = false
  unoffered : s.claim.phase ≠ .offered
  view : s.view = v
  mailbox : s.mailbox = m

section
variable {l : LinkUnit} {w : ConsistView} {m : Option Request}

theorem Silent.markStatus (h : Silent l w m s) : Silent l w m (markStatus s) := by
  have off : ¬ s.link.txEnabled = true := by rw [h.link, h.off]; nofun
  unfold Machine.markStatus
  rwa [if_neg off]

theorem Silent.ite {c : Prop} [Decidable c] (ht : Silent l w m s) (hu : Silent l w m t) : Silent l w m (if c then s else t) := by
  split
  · exact ht
  · exact hu

theorem Silent.markStatusIf (h : Silent l w m s) (c : Bool) : Silent l w m (markStatusIf c s) := Silent.ite h.markStatus h

theorem Silent.passTriggerIf (h : Silent l w m s) (c : Bool) : Silent l w m (passTriggerIf c s) := by
  rw [passTriggerIf_eq]
  exact ⟨h.link, h.off, h.unoffered, h.view, h.mailbox⟩

theorem Silent.setClaim (h : Silent l w m s) {x : ClaimUnit} (unoffered : x.phase ≠ .offered) : Silent l w m (s.setClaim x) :=
  ⟨h.link, h.off, unoffered, h.view, h.mailbox⟩

theorem Silent.offerRelease (h : Silent l w m s) (o : ReleaseOutcome) : Silent l w m (offerRelease o s) := by
  have off : ¬ s.link.txEnabled = true := by rw [h.link, h.off]; nofun
  unfold Machine.offerRelease
  rwa [if_neg off]

theorem Silent.examineOffer (h : Silent l w m s) : Silent l w m (examineOffer s) := by
  have barred : ¬ s.offers := by
    rintro ⟨-, -, -, -, -, -, -, enabled, -⟩
    rw [h.link, h.off] at enabled
    cases enabled
  rwa [examineOffer_still barred]

theorem Silent.claimNeed (h : Silent l w m s) (n : Nat) : Silent l w m (claimNeed n s) := by
  unfold Machine.claimNeed
  dsimp only
  split
  · exact Silent.examineOffer (h.setClaim nofun)
  all_goals exact h.setClaim h.unoffered

theorem Silent.claimWithdrawNeed (h : Silent l w m s) : Silent l w m (claimWithdrawNeed s) := by
  unfold Machine.claimWithdrawNeed
  split
  · exact h.setClaim nofun
  · next offered => exact absurd offered h.unoffered
  · exact h.setClaim h.unoffered
  all_goals exact h

theorem Silent.claimSeesPeer (h : Silent l w m s) : Silent l w m (claimSeesPeer s) := by
  unfold Machine.claimSeesPeer
  rwa [if_neg h.unoffered]

theorem Silent.claimRelease (h : Silent l w m s) (o : ReleaseOutcome) : Silent l w m (claimRelease o s) := by
  unfold Machine.claimRelease
  split
  · refine Silent.offerRelease (Silent.markStatus (h.setClaim ?_)) o
    nofun
  · exact h

theorem Silent.act (h : Silent l w m s) (a : Act s t) : Silent l w m t := by
  cases a
  case mark enabled =>
    rw [h.link, h.off] at enabled
    cases enabled
  case offer => exact h.examineOffer
  case release o => exact h.claimRelease o
  case need n => exact h.claimNeed n
  case withdraw => exact h.claimWithdrawNeed
  case sees => exact h.claimSeesPeer
  case derate =>
    unfold Machine.computeDerate
    dsimp only
    split
    · refine Silent.markStatusIf (Silent.passTriggerIf ?_ _) _
      exact ⟨h.link, h.off, h.unoffered, h.view, h.mailbox⟩
    · exact h
  case proving o p => cases o <;> exact ⟨h.link, h.off, h.unoffered, h.view, h.mailbox⟩
  all_goals exact ⟨h.link, h.off, h.unoffered, h.view, h.mailbox⟩

end

/-- Link, view and mailbox stand through every cascade of a silent station. -/
theorem Acts.silent (a : Acts s t) (off : s.link.txEnabled = false) (unoffered : s.claim.phase ≠ .offered) :
    t.link = s.link ∧ t.view = s.view ∧ t.mailbox = s.mailbox := by
  have silent : Silent s.link s.view s.mailbox t :=
    a.keeps (P := Silent s.link s.view s.mailbox) (fun _ _ act h => h.act act) ⟨rfl, off, unoffered, rfl, rfl⟩
  exact ⟨silent.link, silent.view, silent.mailbox⟩

/-! ### The transmitter disabled (R52, R124, R184) -/

/-- The Link Controller with the transmitter disabled: the slots are emptied now, or at the outcome of the frame in transmission. -/
def LinkUnit.disabled (l : LinkUnit) : LinkUnit :=
  let silent : LinkUnit := { l with txEnabled := false, heartbeat := .stopped }
  if l.sending.isSome then { silent with disablePending := true } else silent.cleared

/-- The own claim's phase once the transmitter is disabled. -/
def ClaimUnit.unheard (c : ClaimUnit) : ClaimPhase :=
  match c.phase with
  | .offered => .wanted
  | .lapsed => if c.needStands then .wanted else .idle
  | p => p

/-- The station with its transmitter disabled. -/
def State.silenced (s : State) : State :=
  { s with link := s.link.disabled, mailbox := none, claim := { s.claim with phase := s.claim.unheard } }

theorem claimWithoutTransmitter_eq (s : State) :
    claimWithoutTransmitter s = s.setClaim { s.claim with phase := s.claim.unheard } := by
  unfold claimWithoutTransmitter ClaimUnit.unheard
  cases phase : s.claim.phase <;> dsimp only
  all_goals
    rw [← phase]
    rfl

theorem disableTransmitter_eq (s : State) : disableTransmitter s = s.silenced := by
  unfold disableTransmitter
  rw [claimWithoutTransmitter_eq]
  rfl

theorem disabled_off (l : LinkUnit) : l.disabled.txEnabled = false := by
  unfold LinkUnit.disabled
  dsimp only
  split <;> rfl

theorem unheard_unoffered (c : ClaimUnit) : c.unheard ≠ .offered ∧ c.unheard ≠ .lapsed := by
  unfold ClaimUnit.unheard
  split
  · exact ⟨nofun, nofun⟩
  · split <;> exact ⟨nofun, nofun⟩
  · next offered lapsed => exact ⟨offered, lapsed⟩

/-- A frame with the station's own number disables the transmitter, and ADDRESS_CONFLICT joins or has its cause confirmed (R76). -/
theorem applyFrame_own {f : RawFrame} (own : f.source.toNat = s.load.station) (numbered : s.load.station ≠ 0) :
    applyFrame f s = reportPresent codeAddressConflict s.silenced := by
  unfold applyFrame addressConflict
  rw [if_neg (by omega), if_pos own, disableTransmitter_eq]

/-- What a report of ADDRESS_CONFLICT at a silenced station leaves of link, mailbox and view. -/
theorem conflict_silent (s : State) : (reportPresent codeAddressConflict s.silenced).link = s.link.disabled
    ∧ (reportPresent codeAddressConflict s.silenced).mailbox = none ∧ (reportPresent codeAddressConflict s.silenced).view = s.view :=
  have ⟨link, view, mailbox⟩ := ((Acts.refl s.silenced).reportPresent (code := codeAddressConflict) rfl).silent
    (disabled_off s.link) (unheard_unoffered s.claim).1
  ⟨link, mailbox, view⟩

theorem conflict_plain (s : State) : Plain s codeAddressConflict := plain_of_fixed (by decide) (by decide) (by decide) (by decide) s

theorem conflict_member (s : State) : s.newMember codeAddressConflict = ⟨34, .stop, true, true, 0⟩ := newMember_of_fixed (by decide) s

theorem conflict_class (s : State) : s.classOf codeAddressConflict = .stop := congrArg Member.cls (conflict_member s)

/-- ADDRESS_CONFLICT stands after whatever transition its joining brings. -/
theorem conflict_stands {cls : CondClass} {differs : Bool} (frame : TransitionFrame [] (s.withMember codeAddressConflict) v) :
    ⟨34, .stop, true, true, 0⟩ ∈ (handChange cls differs v).mon.conditions ∧ (handChange cls differs v).out.alarm = true := by
  have stays := newMember_frame_stays (code := codeAddressConflict) (by decide) frame
  rw [conflict_member] at stays
  exact ⟨by rw [handChange_conditions]; exact stays, handChange_alarm stays⟩

end

end Sys2Proof.Machine
end


section
/-! ADDRESS_CONFLICT at the engine (R4, R9, R11, R18, R76, R124): O47. -/

namespace Sys2Proof.Machine

section
variable {s t q v : State}

theorem mismatch_not_conflict (o : ProvedOutput) (c : Bool) : mismatchCode o c ≠ codeAddressConflict := by
  cases o <;> cases c <;> decide

/-! ### Where R4 gives the condition no effect -/

theorem conflict_still (new : hasCode q.mon.conditions 34 = false)
    (still : q.seq.state ∈ [.init, .isolated, .stopped, .cranking, .stopping, .faulted]) :
    let t := reportPresent codeAddressConflict q.silenced
    t = { q with
        mon := { q.mon with conditions := t.mon.conditions }
        out := { q.out with alarm := true }, alloc := q.withTrigger.alloc, mailbox := none
        claim := { q.claim with phase := q.claim.unheard }
        link := q.link.disabled }
      ∧ ⟨34, .stop, true, true, 0⟩ ∈ t.mon.conditions ∧ ConditionsBut [34] q t := by
  intro t
  have unmoved : joiningAppears codeAddressConflict (q.silenced.classOf codeAddressConflict) (q.silenced.withMember codeAddressConflict)
      = q.silenced.withMember codeAddressConflict := by
    rw [conflict_class]
    show stopAppears (q.silenced.withMember codeAddressConflict) = _
    have state : (q.silenced.withMember codeAddressConflict).seq.state ∈ [.init, .isolated, .stopped, .cranking, .stopping, .faulted] :=
      still
    simp only [List.mem_cons, List.not_mem_nil, or_false] at state
    obtain e | e | e | e | e | e := state <;> simp only [stopAppears, e]
  have joined : t = q.silenced.joinedBy codeAddressConflict := reportPresent_unmoved (conflict_plain _) new unmoved
  have eq := joinedBy_eq q.silenced codeAddressConflict
  have link : t.link = q.link.disabled := (conflict_silent q).1
  have member := joinedBy_member q.silenced codeAddressConflict
  have others := joinedBy_conditionsBut q.silenced codeAddressConflict
  rw [← joined] at eq member others
  rw [conflict_member] at member
  have slot : { q.silenced.link with statusMarked := t.link.statusMarked } = q.link.disabled := by
    rw [link]
    rfl
  rw [slot, conflict_class] at eq
  exact ⟨eq, member, others⟩

/-! ### Before the start (R9, R11) -/

theorem conflict_cancels (new : hasCode q.mon.conditions 34 = false) (starting : q.seq.state ∈ [.prelube, .claimWait, .claimSettle]) :
    let t := reportPresent codeAddressConflict q.silenced
    t.seq.state = (if q.cab.isolate.qualified then .isolated else .stopped)
      ∧ t.seq.attempts = 0 ∧ t.standingCommands = ⟨false, false, false, false⟩
      ∧ ⟨34, .stop, true, true, 0⟩ ∈ t.mon.conditions ∧ t.out.alarm = true
      ∧ t.claim = (dropClaim (q.silenced.withMember codeAddressConflict)).claim := by
  intro t
  have state : q.seq.state = .prelube ∨ q.seq.state = .claimWait ∨ q.seq.state = .claimSettle := by
    simpa only [List.mem_cons, List.not_mem_nil, or_false] using starting
  have eq : t = _ := reportPresent_cancels (conflict_plain q.silenced) new (.inl (conflict_class _)) state
  have cancelled := cancelled_cancelStart (q.silenced.withMember codeAddressConflict)
  have commands : (q.silenced.withMember codeAddressConflict).stoppedOrIsolated.commands
      (q.silenced.withMember codeAddressConflict).ret.fuelLatch = ⟨false, false, false, false⟩ := by
    unfold State.stoppedOrIsolated
    split <;> rfl
  generalize cancelStart (q.silenced.withMember codeAddressConflict) = v at eq cancelled
  obtain ⟨member, alarm⟩ := conflict_stands (cls := q.silenced.classOf codeAddressConflict)
    (differs := reportDiffers q.silenced (q.silenced.withMember codeAddressConflict)) cancelled.frame
  have calm := (Calm.refl v).handChange (q.silenced.classOf codeAddressConflict)
    (reportDiffers q.silenced (q.silenced.withMember codeAddressConflict))
  have quiet := quiet_handChange (q.silenced.classOf codeAddressConflict)
    (reportDiffers q.silenced (q.silenced.withMember codeAddressConflict)) v
  have entered := cancelled.entered.quiet calm quiet
  rw [← eq] at member alarm calm quiet entered
  obtain ⟨state', -, -, standing, -⟩ := entered
  refine ⟨state', (congrArg Sequencer.attempts quiet.seq).trans cancelled.attempts, standing.trans commands, member, alarm,
    calm.claim.trans cancelled.claim⟩

/-- The own claim at a cancelled start: given up in SETTLING, its need withdrawn in CLAIM_WAIT (R118, R122). -/
theorem conflict_claim : (q.seq.state = .claimSettle → q.claim.phase = .settling →
      (dropClaim (q.silenced.withMember codeAddressConflict)).claim = q.claim.givenUp q.params)
    ∧ (q.seq.state = .claimWait → q.claim.phase = .offered ∨ q.claim.phase = .wanted ∨ q.claim.phase = .lapsed →
      (dropClaim (q.silenced.withMember codeAddressConflict)).claim = { q.claim with phase := .idle }) := by
  refine ⟨fun state settling => ?_, fun state needs => ?_⟩
  · have same : q.claim.unheard = .settling := by
      unfold ClaimUnit.unheard
      rw [settling]
    rw [dropClaim_of_held (s := q.silenced.withMember codeAddressConflict) (.inl state) (.inl same)]
    rfl
  · have state' : (q.silenced.withMember codeAddressConflict).seq.state = .claimWait := state
    have back : q.claim.unheard = .wanted ∨ q.claim.unheard = .idle := by
      unfold ClaimUnit.unheard
      obtain e | e | e := needs <;> rw [e]
      · exact .inl rfl
      · exact .inl rfl
      · dsimp only
        split
        · exact .inl rfl
        · exact .inr rfl
    obtain wanted | idle := back
    · rw [dropClaim_of_wanted state' wanted]
      rfl
    · have idle' : (q.silenced.withMember codeAddressConflict).claim.phase = .idle := idle
      simp only [dropClaim, state', claimWithdrawNeed, idle']
      show { q.claim with phase := q.claim.unheard } = _
      rw [idle]

/-! ### The running engine (R18 to R20) -/

/-- ADDRESS_CONFLICT joins with what the Sequencer makes of it. -/
theorem conflict_reacts (new : hasCode s.mon.conditions 34 = false)
    (reacts : joiningAppears codeAddressConflict .stop (s.withMember codeAddressConflict) = v) :
    reportPresent codeAddressConflict s = handChange .stop (reportDiffers s (s.withMember codeAddressConflict)) v := by
  rw [reportPresent_of_new (code := codeAddressConflict) (s := s) new, joinCondition_of_plain (conflict_plain s), conflict_class, reacts]

/-- UNLOADING and COOLDOWN go on with reason CONDITION. -/
theorem conflict_goesOn (new : hasCode q.mon.conditions 34 = false) (running : q.seq.state ∈ [.unloading, .cooldown]) :
    let t := reportPresent codeAddressConflict q.silenced
    t.seq = { q.seq with stopReason := .condition } ∧ t.stepper = q.stepper
      ∧ t.ret = q.ret ∧ t.standingCommands = q.standingCommands
      ∧ ⟨34, .stop, true, true, 0⟩ ∈ t.mon.conditions ∧ ConditionsBut [34] q t ∧ t.out.alarm = true := by
  intro t
  have reacts : joiningAppears codeAddressConflict .stop (q.silenced.withMember codeAddressConflict)
      = setStopReason .condition (q.silenced.withMember codeAddressConflict) := by
    show stopAppears (q.silenced.withMember codeAddressConflict) = _
    have state : (q.silenced.withMember codeAddressConflict).seq.state ∈ [.unloading, .cooldown] := running
    simp only [List.mem_cons, List.not_mem_nil, or_false] at state
    obtain e | e := state <;> simp only [stopAppears, e]
  have eq : t = handChange .stop (reportDiffers q.silenced (q.silenced.withMember codeAddressConflict))
      (setStopReason .condition (q.silenced.withMember codeAddressConflict)) := by
    exact conflict_reacts new reacts
  have member : (⟨34, .stop, true, true, 0⟩ : Member) ∈ (setStopReason .condition (q.silenced.withMember codeAddressConflict)).mon.conditions := by
    rw [← conflict_member q.silenced]
    exact newMember_mem q.silenced codeAddressConflict
  have others : ConditionsBut [34] q (setStopReason .condition (q.silenced.withMember codeAddressConflict)) :=
    conditionsBut_withMember (List.mem_singleton_self _) q.silenced
  have quiet := quiet_handChange .stop (reportDiffers q.silenced (q.silenced.withMember codeAddressConflict))
    (setStopReason .condition (q.silenced.withMember codeAddressConflict))
  have conditions := handChange_conditions .stop (reportDiffers q.silenced (q.silenced.withMember codeAddressConflict))
    (setStopReason .condition (q.silenced.withMember codeAddressConflict))
  have alarm := handChange_alarm (cls := .stop) (differs := reportDiffers q.silenced (q.silenced.withMember codeAddressConflict)) member
  rw [← eq] at quiet conditions alarm
  rw [ConditionsBut, conditions]
  exact ⟨quiet.seq, quiet.stepper, quiet.ret, (standingCommands_of_quiet quiet :), member, others, alarm⟩

/-- An ONLINE engine with a notch to shed goes to UNLOADING. -/
theorem conflict_unloads (new : hasCode q.mon.conditions 34 = false) (state : q.seq.state = .online) (notch : q.stepper.notch ≠ 0)
    (dwell : q.params.dwellDown ≠ 0) (estop : q.cab.estop.qualified = false) (shutdown : ∀ m ∈ q.mon.conditions, m.cls ≠ .shutdown) :
    let t := reportPresent codeAddressConflict q.silenced
    t.seq.state = .unloading ∧ t.seq.stopReason = .condition ∧ t.standingCommands = ⟨false, true, false, false⟩
      ∧ ⟨34, .stop, true, true, 0⟩ ∈ t.mon.conditions ∧ t.out.alarm = true := by
  intro t
  have unloads := stopUnloads_reportPresent (s := q.silenced) (conflict_plain _) new (conflict_class _) state notch dwell estop shutdown
    fun o same => absurd same (mismatch_not_conflict _ _)
  have member := unloads.member
  rw [conflict_member] at member
  obtain ⟨state', -, -, commands, -⟩ := unloads.entered
  exact ⟨state', by rw [unloads.records], commands, member, unloads.alarm⟩

/-- The transition to COOLDOWN from RUNUP, WARMUP and ONLINE at notch 0. -/
def State.coolsDown (s : State) : State :=
  if s.seq.state = .online then enterUnloading (setStopReason .condition s) else enterCooldown (setStopReason .condition s)

theorem stopAppears_cools (cools : s.seq.state ∈ [.runup, .warmup] ∨ s.seq.state = .online ∧ s.stepper.notch = 0) :
    stopAppears s = s.coolsDown := by
  unfold State.coolsDown
  obtain running | ⟨online, -⟩ := cools
  · simp only [List.mem_cons, List.not_mem_nil, or_false] at running
    obtain e | e := running <;> simp [stopAppears, e]
  · simp only [stopAppears, online, if_true]

theorem cooled_coolsDown (cools : s.seq.state ∈ [.runup, .warmup] ∨ s.seq.state = .online ∧ s.stepper.notch = 0)
    (calm : Unhurried (setStopReason .condition s)) (time : s.params.cooldown ≠ 0) : Cooled .condition s s.coolsDown := by
  unfold State.coolsDown
  obtain running | ⟨online, notch⟩ := cools
  · rw [if_neg (by simp only [List.mem_cons, List.not_mem_nil, or_false] at running; obtain e | e := running <;> simp [e])]
    exact cooled_enterCooldown calm time
  · rw [if_pos online]
    exact cooled_enterUnloading calm notch time

theorem stopped_coolsDown {latched : Bool} (cools : s.seq.state ∈ [.runup, .warmup] ∨ s.seq.state = .online ∧ s.stepper.notch = 0)
    (calm : Unhurried (setStopReason .condition s)) (time : s.params.cooldown = 0) (decided : StopDecided s latched) :
    Stopped .cooldown latched s s.coolsDown := by
  unfold State.coolsDown
  obtain running | ⟨online, notch⟩ := cools
  · rw [if_neg (by simp only [List.mem_cons, List.not_mem_nil, or_false] at running; obtain e | e := running <;> simp [e])]
    exact (stopped_coolDown calm time decided).1
  · rw [if_pos online]
    exact (stopped_enterUnloading calm notch time decided).1

theorem coolsDown_frame (s : State) : TransitionFrame [] s s.coolsDown := by
  unfold State.coolsDown
  split
  · exact (((Deeds.plain s).setStopReason .condition).enterUnloading rfl).plainFrame
  · exact (((Deeds.plain s).setStopReason .condition).enterCooldown rfl).plainFrame

/-- STOPPING and what it leads to command every output off (R2). -/
theorem stoppingLeads_commands (latched latch : Bool) (s : State) :
    (stoppingLeads latched s).commands latch = ⟨false, false, false, false⟩ := by
  unfold stoppingLeads
  split
  · split
    · rfl
    · split <;> rfl
  · rfl

theorem conflict_cools (new : hasCode q.mon.conditions 34 = false)
    (cools : q.seq.state ∈ [.runup, .warmup] ∨ q.seq.state = .online ∧ q.stepper.notch = 0)
    (estop : q.cab.estop.qualified = false) (shutdown : ∀ m ∈ q.mon.conditions, m.cls ≠ .shutdown) :
    let t := reportPresent codeAddressConflict q.silenced
    ⟨34, .stop, true, true, 0⟩ ∈ t.mon.conditions ∧ t.out.alarm = true
      ∧ (q.params.cooldown ≠ 0 → t.seq.state = .cooldown ∧ t.seq.stopReason = .condition
          ∧ t.standingCommands = ⟨false, true, false, false⟩)
      ∧ (q.params.cooldown = 0 → Stopped .cooldown true { q with link := q.link.disabled } t
          ∧ t.standingCommands = ⟨false, false, false, false⟩) := by
  intro t
  have eq : t = handChange .stop (reportDiffers q.silenced (q.silenced.withMember codeAddressConflict))
      (q.silenced.withMember codeAddressConflict).coolsDown := by
    have reacts : joiningAppears codeAddressConflict .stop (q.silenced.withMember codeAddressConflict)
      = (q.silenced.withMember codeAddressConflict).coolsDown := stopAppears_cools cools
    exact conflict_reacts new reacts
  have unhurried := unhurried_withMember (s := q.silenced) (code := codeAddressConflict) estop shutdown (conflict_class _)
  obtain ⟨member, alarm⟩ := conflict_stands (cls := .stop)
    (differs := reportDiffers q.silenced (q.silenced.withMember codeAddressConflict))
    (coolsDown_frame (q.silenced.withMember codeAddressConflict))
  have cooled := cooled_coolsDown (s := q.silenced.withMember codeAddressConflict) cools unhurried
  have decided : StopDecided (q.silenced.withMember codeAddressConflict) true :=
    stopDecided_withMember new (by rw [conflict_member]; rfl)
  have stopped := fun time => stopped_coolsDown (s := q.silenced.withMember codeAddressConflict) cools unhurried time decided
  generalize (q.silenced.withMember codeAddressConflict).coolsDown = v at *
  have calm := (Calm.refl v).handChange .stop (reportDiffers q.silenced (q.silenced.withMember codeAddressConflict))
  have quiet := quiet_handChange .stop (reportDiffers q.silenced (q.silenced.withMember codeAddressConflict)) v
  have conditions := handChange_conditions .stop (reportDiffers q.silenced (q.silenced.withMember codeAddressConflict)) v
  rw [← eq] at member alarm calm quiet conditions
  refine ⟨member, alarm, fun time => ?_, fun time => ?_⟩
  · have cooled := cooled time
    obtain ⟨state, -, -, commands, -⟩ := cooled.entered.quiet calm quiet
    exact ⟨state, (congrArg Sequencer.stopReason quiet.seq).trans (by rw [cooled.records]), commands⟩
  · have halted : Stopped .cooldown true { q with link := q.link.disabled } v :=
      (stopped time).back ⟨rfl, rfl, rfl, rfl, rfl, rfl, rfl, rfl⟩
    have halted := halted.quiet calm quiet (by rw [conditions])
    obtain ⟨-, -, -, commands, -⟩ := halted.1
    exact ⟨halted, commands.trans (stoppingLeads_commands ..)⟩

/-! ### A second such frame -/

theorem disabled_self {l : LinkUnit} (off : l.txEnabled = false) (settled : l.disablePending = false) (idle : l.sending = none)
    (slot : l.claimSlot = .empty) (mark : l.statusMarked = false) (reply : l.replySlot = none) (beat : l.heartbeat = .stopped) :
    l.disabled = l := by
  obtain ⟨⟩ := l
  dsimp only at off settled idle slot mark reply beat
  subst off settled idle slot mark reply beat
  rfl

theorem unheard_self {c : ClaimUnit} (offered : c.phase ≠ .offered) (lapsed : c.phase ≠ .lapsed) : c.unheard = c.phase := by
  unfold ClaimUnit.unheard
  split
  · exact absurd ‹_› offered
  · exact absurd ‹_› lapsed
  · rfl

end

end Sys2Proof.Machine

open Sys2Proof.Machine in
/-- Settles O47: the transmitter is silenced first, so that whatever the engine does then leaves the link. -/
theorem Sys2Proof.Machine.ownNumberHeardDisablesTheTransmitter : Obligations.OwnNumberHeardDisablesTheTransmitter := by
  intro s b rest q silent off due post own numbered
  have applied := exec_eq_after .frameApplication s
  rw [after_frameApplication due post, applyFrame_own (s := q) own numbered] at applied
  obtain ⟨link, mailbox, view⟩ := conflict_silent q
  refine ⟨fun still new => ⟨_, applied, ?_⟩, fun state notch dwell estop shutdown new => ⟨_, applied, ?_⟩,
    fun cools estop shutdown new => ⟨_, applied, ?_⟩, fun running estop shutdown new => ⟨_, applied, ?_⟩,
    fun starting new => ⟨_, applied, ?_⟩, fun known disabled settled idle slot mark reply beat box offered lapsed => ⟨_, applied, ?_⟩⟩
  · exact conflict_still (q := q) new still
  · obtain ⟨state', reason, commands, member, alarm⟩ := conflict_unloads (q := q) new state notch dwell estop shutdown
    exact ⟨state', reason, commands, member, alarm, link, mailbox, view⟩
  · obtain ⟨member, alarm, cooled, stopped⟩ := conflict_cools (q := q) new cools estop shutdown
    exact ⟨member, alarm, link, mailbox, view, cooled, fun time _ => stopped time⟩
  · obtain ⟨seq, stepper, ret, commands, member, others, alarm⟩ := conflict_goesOn (q := q) new running
    exact ⟨seq, stepper, ret, commands, member, others, alarm, link, mailbox, view⟩
  · obtain ⟨state, attempts, commands, member, alarm, claim⟩ := conflict_cancels (q := q) new starting
    obtain ⟨settles, waits⟩ := conflict_claim (q := q)
    exact ⟨state, attempts, commands, member, alarm, link, mailbox, view, fun a b => claim.trans (settles a b),
      fun a b => claim.trans (waits a b)⟩
  · have same : q.silenced = q := by
      unfold State.silenced
      rw [disabled_self (l := q.link) disabled settled idle slot mark reply beat, unheard_self (c := q.claim) offered lapsed, ← box]
    rw [same, reportPresent_of_member (code := codeAddressConflict) (s := q) known]
    rfl
end


section
/-! The completion of an own frame (R56 to R61, R80, R119, R185): O43. -/

namespace Sys2Proof.Machine

section
variable {s t u v w : State} {kind : TxKind} {tx : Transmission}

/-! ### The completed frame in its slot -/

theorem after_transmissionCompletion (sends : s.link.sending = some tx) : s.after .transmissionCompletion
    = handCompletion tx.kind (if s.link.linkFault then linkFaultEnds (s.completed tx.kind) else s.completed tx.kind) := by
  simp only [State.after, exec, execTransmissionCompletion, sends]
  rfl

theorem completed_enabled (l : LinkUnit) (kind : TxKind) (pending : l.disablePending = false) :
    l.completed kind = l.sent.slotsAtCompletion kind := by
  unfold LinkUnit.completed LinkUnit.atOutcome
  have kept : ¬ ((({ l with
      sending := none, bitErrors := 0, linkFault := false, granted := false
      holdOff := if l.linkFault then .stopped else l.holdOff } : LinkUnit).slotsAtCompletion kind).settle 7).disablePending = true := by
    cases kind <;> (rw [Bool.not_eq_true]; exact pending)
  rw [if_neg kept]
  cases kind <;> rfl

theorem completed_disabled (l : LinkUnit) (kind : TxKind) (pending : l.disablePending = true) : l.completed kind = l.sent.cleared := by
  unfold LinkUnit.completed LinkUnit.atOutcome
  have kept : ((({ l with
      sending := none, bitErrors := 0, linkFault := false, granted := false
      holdOff := if l.linkFault then .stopped else l.holdOff } : LinkUnit).slotsAtCompletion kind).settle 7).disablePending = true := by
    cases kind <;> exact pending
  rw [if_pos kept]
  cases kind <;> rfl

/-- What a completed frame leaves of the Link Controller besides its slots. -/
theorem completed_sent (l : LinkUnit) (kind : TxKind) : ∃ slot mark reply pending, l.completed kind
    = { l.sent with claimSlot := slot, statusMarked := mark, replySlot := reply, disablePending := pending }
      ∧ (kind = .reply → reply = none) := by
  cases pending : l.disablePending
  · rw [completed_enabled l kind pending]
    cases kind
    case reply => exact ⟨l.claimSlot, l.statusMarked, none, l.disablePending, rfl, fun _ => rfl⟩
    case status => exact ⟨l.claimSlot, l.statusMarked, l.replySlot, l.disablePending, rfl, nofun⟩
    all_goals exact ⟨_, l.statusMarked, l.replySlot, l.disablePending, rfl, nofun⟩
  · rw [completed_disabled l kind pending]
    exact ⟨.empty, false, none, false, rfl, fun _ => rfl⟩

/-! ### The end of LINK_FAULT (R56, R80) -/

/-- LINK_FAULT leaves as the only member of the set: ALARM goes, and STATUS is marked for it. -/
theorem reportGone_only {cause : Bool} {ms : Nat} (only : s.mon.conditions = [⟨36, .alarm, false, cause, ms⟩]) :
    reportGone codeLinkFault s = { s with
      link := s.withMark.link, mon := { s.mon with conditions := [] }, out := { s.out with alarm := false } } := by
  have left : reportGone codeLinkFault s = s.leftBy codeLinkFault .alarm := by
    refine reportGone_of_unlatched ?_ (fun m hm _ => ?_) nofun nofun
    · rw [only]
      rfl
    · rw [only] at hm
      rw [List.mem_singleton.1 hm]
      exact ⟨rfl, rfl⟩
  have removed : removeCode codeLinkFault s.mon.conditions = [] := by
    rw [only]
    rfl
  have differs : reportDiffers s (s.setConditions []) = true := by
    have some : s.mon.conditions.isEmpty = false := by rw [only]; rfl
    have none : (s.setConditions []).mon.conditions.isEmpty = true := rfl
    unfold reportDiffers
    rw [some, none]
    simp
  rw [left, State.leftBy, removed]
  dsimp only
  rw [differs]
  rfl

theorem linkFaultEnds_heard {cause : Bool} {ms : Nat} (seen : s.view.everSeen = true)
    (only : s.mon.conditions = [⟨36, .alarm, false, cause, ms⟩]) : linkFaultEnds s = { s with
      link := s.withMark.link, mon := { s.mon with conditions := [] }, out := { s.out with alarm := false } } := by
  unfold linkFaultEnds
  dsimp only
  rw [reportGone_only only]
  exact if_pos seen

/-- The station of the statement with the completed frame's slot freed. -/
def State.freedOf (s : State) (kind : TxKind) : State := { s.completes with link := s.completes.link.slotsAtCompletion kind }

theorem completed_freed (kind : TxKind) (pending : s.link.disablePending = false)
    (calm : s.link.linkFault = false ∨ s.view.everSeen = true ∧ ∃ cause ms, s.mon.conditions = [⟨36, .alarm, false, cause, ms⟩]) :
    (if s.link.linkFault then linkFaultEnds (s.completed kind) else s.completed kind) = s.freedOf kind := by
  unfold State.freedOf State.completes
  split
  · next fault =>
    obtain ⟨seen, cause, ms, only⟩ := calm.resolve_left (by rw [fault]; nofun)
    rw [linkFaultEnds_heard (s := s.completed kind) seen only]
    unfold State.completed
    rw [completed_enabled s.link kind pending]
    cases kind <;> rfl
  · unfold State.completed
    rw [completed_enabled s.link kind pending]
    cases kind <;> rfl

/-! ### What is handed on (R57, R60, R61, R119, R185) -/

theorem after_completion_freed (sends : s.link.sending = some tx) (pending : s.link.disablePending = false)
    (calm : s.link.linkFault = false ∨ s.view.everSeen = true ∧ ∃ cause ms, s.mon.conditions = [⟨36, .alarm, false, cause, ms⟩]) :
    s.after .transmissionCompletion = handCompletion tx.kind (s.freedOf tx.kind) := by
  rw [after_transmissionCompletion sends, completed_freed tx.kind pending calm]

/-- Slots and timers of the completed station are those of the one that completes. -/
theorem completes_kept (s : State) : s.completes.link.txEnabled = s.link.txEnabled ∧ s.completes.link.claimSlot = s.link.claimSlot
    ∧ s.completes.link.heartbeat = s.link.heartbeat ∧ s.completes.mailbox = s.mailbox ∧ s.completes.claim = s.claim
    ∧ s.completes.seq = s.seq ∧ s.completes.params = s.params ∧ s.completes.cab = s.cab
    ∧ (s.completes.mon.conditions = s.mon.conditions ∨ s.completes.mon.conditions = []) := by
  unfold State.completes
  split
  · exact ⟨rfl, rfl, rfl, rfl, rfl, rfl, rfl, rfl, .inr rfl⟩
  · exact ⟨rfl, rfl, rfl, rfl, rfl, rfl, rfl, rfl, .inl rfl⟩

theorem serveMailbox_empty (empty : s.mailbox = none) : serveMailbox s = s := by
  unfold serveMailbox
  rw [empty]

theorem serveMailbox_waiting {q : Request} (waits : s.mailbox = some q) (free : s.link.replySlot = none)
    (enabled : s.link.txEnabled = true) :
    serveMailbox s = { s with link := { s.link with replySlot := some (s.replyTo q) }, mailbox := none } := by
  unfold serveMailbox
  simp only [waits, free, enabled, Option.isNone_none, Bool.and_self, if_true]
  rfl

end

end Sys2Proof.Machine
end


section
/-! The own frames that have completed, by their kind (R11, R56 to R61, R80, R119, R185): O43. -/

namespace Sys2Proof.Machine

section
variable {s t u v w q : State} {kind : TxKind} {tx : Transmission}

/-! ### The own claim (R11, R119) -/

/-- The slot that a completed CLAIM or RELEASE leaves (R58). -/
theorem freedOf_slot (frame : kind = .claim ∨ kind = .release) (done : s.link.claimSlot.complete = .empty) :
    s.freedOf kind = { s.completes with link := { s.completes.link with claimSlot := .empty } } := by
  have slot : s.completes.link.claimSlot.complete = .empty := by rw [(completes_kept s).2.1]; exact done
  have link : s.completes.link.slotsAtCompletion kind = { s.completes.link with claimSlot := s.completes.link.claimSlot.complete } := by
    obtain rfl | rfl := frame <;> rfl
  rw [State.freedOf, link, slot]

/-- An own CLAIM that lapsed while it was sent is answered with RELEASE ABANDONED, and recovery starts. -/
theorem ownClaimCompleted_lapsed (lapsed : s.claim.phase = .lapsed) (enabled : s.link.txEnabled = true) (slot : s.link.claimSlot = .empty) :
    ownClaimCompleted s = { s with
      link := { s.link with claimSlot := .releasePending .abandoned }
      claim := { s.claim with
        phase := if s.claim.needStands then .wanted else .idle, recovery := .running (s.params.recoveryTime * 1000) } } := by
  unfold ownClaimCompleted
  rw [lapsed]
  dsimp only
  rw [slotReleasing_eq]
  have releases : (s.setClaim ({ s.claim with phase := if s.claim.needStands then .wanted else .idle }.recovering s.params)).slotReleasing
      .abandoned = .releasePending .abandoned := by
    refine (if_pos enabled).trans ?_
    show s.link.claimSlot.releasing .abandoned = _
    rw [slot]
    rfl
  rw [releases]
  rfl

theorem enterClaimSettle_clear (clear : NoStandingCause s) : enterClaimSettle s = entryBase .claimSettle s := by
  have clear' := ((Calm.refl s).entryBase .claimSettle).noStandingCause clear
  unfold enterClaimSettle
  dsimp only
  rw [if_neg (by rw [hardCause_of_clear clear']; nofun), if_neg (by rw [cancelCause_of_clear clear']; nofun)]

/-- The own claim recorded: self is holder, and the settle timer and the clock run (R119). -/
def ClaimUnit.settled (c : ClaimUnit) : ClaimUnit :=
  { c with holder := .self, settle := .running 400, clock := .running 0, phase := .settling }

/-- What a completed own CLAIM that is OFFERED leads to in CLAIM_WAIT. -/
structure Settles (s t : State) : Prop where
  entered : Entered .claimSettle s t
  frame : TransitionFrame [] s t
  records : RecordsKept s t
  link : t.link = { s.link with statusMarked := true }
  claim : t.claim = s.claim.settled

theorem settles_ownClaimCompleted (offered : s.claim.phase = .offered) (enabled : s.link.txEnabled = true)
    (state : s.seq.state = .claimWait) (clear : NoStandingCause s) : Settles s (ownClaimCompleted s) := by
  have completes : ownClaimCompleted s = enterClaimSettle (markStatus (s.setClaim s.claim.settled)) := by
    unfold ownClaimCompleted
    rw [offered]
    dsimp only
    refine if_pos ?_
    rw [markStatus_eq_withMark]
    exact state
  have start : (markStatus (s.setClaim s.claim.settled)).mayTry := State.mayTry_of_state (st := .claimWait) (by
    rw [markStatus_eq_withMark]
    exact state) rfl
  have frame := (((Deeds.plain s).own s.claim.settled ⟨rfl, rfl⟩ ⟨rfl, rfl⟩).mark.enterClaimSettle rfl start).plainFrame
  have marks := markStatus_eq_withMark (s.setClaim s.claim.settled)
  rw [completes]
  generalize markStatus (s.setClaim s.claim.settled) = m at frame marks ⊢
  have clear' : NoStandingCause m := by
    rw [marks]
    exact clear
  rw [enterClaimSettle_clear clear'] at frame ⊢
  have entered := entered_entryBase .claimSettle m
  have calm := (Calm.refl m).entryBase .claimSettle
  have seq := entryBase_seq .claimSettle m
  generalize entryBase .claimSettle m = v at *
  have back : Entered .claimSettle s v := entered.back (by rw [marks]; rfl) (by rw [marks]; rfl) nofun
  have marked : v.link.statusMarked = true := back.2.2.2.2.1 enabled
  have kept := frame
  obtain ⟨-, ⟨-, -, -, -, -, link, -⟩, -⟩ := kept
  refine ⟨back, frame, ?_, ?_, ?_⟩
  · rw [RecordsKept, seq, marks]
    rfl
  · have slot : v.link.claimSlot = s.link.claimSlot := calm.slot.trans (by rw [marks]; rfl)
    rw [link, marked, slot]
  · rw [calm.claim, marks]
    rfl

/-! ### The exit from LINK_FAULT, whatever else stands in the set (R56, R80) -/

theorem hasCode_reportGone {code : Nat} (unlatched : ∀ m ∈ s.mon.conditions, m.code = code → m.latched = false) :
    hasCode (reportGone code s).mon.conditions code = false := by
  by_cases member : hasCode s.mon.conditions code = true
  · obtain ⟨m, hm, same, found⟩ := findMember_of_hasCode member
    simp only [reportGone, found, unlatched m hm same, Bool.false_eq_true, if_false]
    rw [leaveCondition_conditions, same]
    exact hasCode_removeCode_same code s.mon.conditions
  · rw [Bool.not_eq_true] at member
    rw [reportGone_of_absent member]
    exact member

/-- What the exit from LINK_FAULT shows at view, link, condition set and own claim. -/
structure FaultEnded (s t : State) : Prop where
  seq : t.seq = s.seq
  stepper : t.stepper = s.stepper
  ret : t.ret = s.ret
  mailbox : t.mailbox = s.mailbox
  link : t.link = { s.link with statusMarked := t.link.statusMarked, claimSlot := t.link.claimSlot }
  view : t.view = if s.view.everSeen then s.view else { s.view with alone := false }
  gone : (∀ m ∈ s.mon.conditions, m.code = 36 → m.latched = false) → hasCode t.mon.conditions 36 = false
  others : ConditionsBut [36] s t
  claim : t.claim = s.claim ∨ s.view.everSeen = false ∧ s.claim.phase = .wanted ∧ t.claim = { s.claim with phase := .offered }

theorem faultEnded_linkFaultEnds (s : State) : FaultEnded s (linkFaultEnds s) := by
  have quiet := (Quiet.refl s).reportGone codeLinkFault
  have gone : (∀ m ∈ s.mon.conditions, m.code = 36 → m.latched = false)
      → hasCode (reportGone codeLinkFault s).mon.conditions 36 = false := hasCode_reportGone
  have others : ConditionsBut [36] s (reportGone codeLinkFault s) := conditionsBut_reportGone (List.mem_singleton_self _) s
  unfold linkFaultEnds
  dsimp only
  rw [leaveAlone_eq]
  generalize reportGone codeLinkFault s = r at *
  rw [quiet.view]
  have link : r.link = { s.link with statusMarked := r.link.statusMarked, claimSlot := r.link.claimSlot } := by
    rw [quiet.link]
  cases seen : s.view.everSeen
  · rw [if_neg nofun]
    cases alone : s.view.alone
    · rw [if_neg nofun]
      refine ⟨quiet.seq, quiet.stepper, quiet.ret, quiet.mailbox, link, ?_, gone, others, .inl quiet.claim⟩
      rw [seen, if_neg nofun, quiet.view, ← alone]
    · rw [if_pos rfl]
      obtain ⟨slot, phase, eq, back⟩ := examineOffer_changes r.unalone
      have wanted : (examineOffer r.unalone).claim = s.claim ∨ s.view.everSeen = false ∧ s.claim.phase = .wanted
          ∧ (examineOffer r.unalone).claim = { s.claim with phase := .offered } := by
        by_cases offers : r.unalone.offers
        · have phase' : s.claim.phase = .wanted := by rw [← quiet.claim]; exact offers.1
          refine .inr ⟨seen, phase', ?_⟩
          rw [examineOffer_offers offers, ← quiet.claim]
          rfl
        · rw [examineOffer_still offers]
          exact .inl quiet.claim
      rw [eq] at wanted ⊢
      refine ⟨quiet.seq, quiet.stepper, quiet.ret, quiet.mailbox, ?_, ?_, gone, others, wanted⟩
      · have marked : r.unalone.link = { r.link with statusMarked := r.link.statusMarked || r.link.txEnabled } := rfl
        rw [quiet.link] at marked
        dsimp only
        rw [marked]
      · rw [seen, if_neg nofun, ← quiet.view]
        rfl
  · rw [if_pos rfl]
    exact ⟨quiet.seq, quiet.stepper, quiet.ret, quiet.mailbox, link, by rw [seen, if_pos rfl, quiet.view], gone, others, .inl quiet.claim⟩

/-! ### What is handed on, seen from outside (R57) -/

/-- What the handing on of a completion leaves alone. -/
structure HandedOn (kind : TxKind) (s t : State) : Prop where
  view : t.view = s.view
  link : t.link = { s.link with
    spacing := t.link.spacing, heartbeat := t.link.heartbeat, replySlot := t.link.replySlot
    claimSlot := t.link.claimSlot, statusMarked := t.link.statusMarked }
  others : ConditionsBut entryCodes s t
  engine : kind ≠ .claim → t.seq = s.seq ∧ t.stepper = s.stepper ∧ t.ret = s.ret ∧ t.mon = s.mon
  status : kind = .status → t.link.spacing = .running 50 ∧ t.claim = s.claim
  reply : kind = .reply → s.mailbox = none → t.link.replySlot = s.link.replySlot

theorem conditionsBut_of_mon {codes : List Nat} (same : t.mon = s.mon) : ConditionsBut codes s t := by
  rw [ConditionsBut, same]
  exact ⟨fun m hm _ => hm, fun m hm _ => hm⟩

theorem handedOn_refl (s : State) (kind : TxKind) (other : kind ≠ .status) : HandedOn kind s s :=
  ⟨rfl, rfl, conditionsBut_of_mon rfl, fun _ => ⟨rfl, rfl, rfl, rfl⟩, fun same => absurd same other, fun _ _ => rfl⟩

theorem handedOn_handCompletion (kind : TxKind) (s : State) : HandedOn kind s (handCompletion kind s) := by
  unfold handCompletion
  cases kind <;> dsimp only
  case claim =>
    split
    · obtain ⟨-, ⟨view, -, -, -, -, link, -⟩, others⟩ := (Deeds.plain s).ownClaimCompleted.plainFrame
      refine ⟨view, ?_, others, fun h => absurd rfl h, nofun, nofun⟩
      rw [link]
    · exact handedOn_refl s _ nofun
  case release =>
    split
    · obtain ⟨slot, phase, eq, -⟩ := examineOffer_changes s
      rw [eq]
      exact ⟨rfl, rfl, conditionsBut_of_mon rfl, fun _ => ⟨rfl, rfl, rfl, rfl⟩, nofun, nofun⟩
    · exact handedOn_refl s _ nofun
  case status => exact ⟨rfl, rfl, conditionsBut_of_mon rfl, fun _ => ⟨rfl, rfl, rfl, rfl⟩, fun _ => ⟨rfl, rfl⟩, nofun⟩
  case reply =>
    unfold serveMailbox
    split
    · exact handedOn_refl s _ nofun
    · next q waits =>
      have empty {P : Prop} (none : s.mailbox = none) : P := by rw [none] at waits; cases waits
      split
      · exact ⟨rfl, rfl, conditionsBut_of_mon rfl, fun _ => ⟨rfl, rfl, rfl, rfl⟩, nofun, fun _ => empty⟩
      · exact handedOn_refl s _ nofun

end

end Sys2Proof.Machine
end


section
/-! O43. -/

namespace Sys2Proof.Machine

section
variable {s t u v : State} {kind : TxKind} {tx : Transmission}

/-- A completion in LINK_FAULT, from the freed slot to what is handed on. -/
theorem faultCompletion_shown (sends : s.link.sending = some tx) (fault : s.link.linkFault = true) :
    let t := s.after .transmissionCompletion
    t.view = (if s.view.everSeen then s.view else { s.view with alone := false })
      ∧ t.link.linkFault = false ∧ t.link.holdOff = .stopped ∧ t.link.bitErrors = 0
      ∧ t.link.granted = false ∧ t.link.sending = none ∧ t.link.line = .settling ∧ t.link.releasedBits = 7
      ∧ ((∀ m ∈ s.mon.conditions, m.code = 36 → m.latched = false) → hasCode t.mon.conditions 36 = false)
      ∧ ConditionsBut (36 :: entryCodes) s t
      ∧ (tx.kind ≠ .claim → t.seq = s.seq ∧ t.stepper = s.stepper ∧ t.ret = s.ret ∧ ConditionsBut [36] s t)
      ∧ (tx.kind = .status → t.link.spacing = .running 50
          ∧ (t.claim = s.claim ∨ s.view.everSeen = false ∧ s.claim.phase = .wanted ∧ t.claim = { s.claim with phase := .offered }))
      ∧ (tx.kind = .reply → s.mailbox = none → t.link.replySlot = none) := by
  intro t
  have eq : t = handCompletion tx.kind (linkFaultEnds (s.completed tx.kind)) := by
    refine (after_transmissionCompletion sends).trans ?_
    rw [if_pos fault]
  obtain ⟨slot, mark, reply, pending, sent, empty⟩ := completed_sent s.link tx.kind
  have ended := faultEnded_linkFaultEnds (s.completed tx.kind)
  have link := ended.link
  have handed := handedOn_handCompletion tx.kind (linkFaultEnds (s.completed tx.kind))
  rw [← eq] at handed
  generalize linkFaultEnds (s.completed tx.kind) = v at *
  have holdOff : (if s.link.linkFault then Timer.stopped else s.link.holdOff) = .stopped := if_pos fault
  have vlink : v.link = { s.link with
      sending := none, bitErrors := 0, linkFault := false, granted := false, holdOff := .stopped, line := .settling, releasedBits := 7
      claimSlot := v.link.claimSlot, statusMarked := v.link.statusMarked, replySlot := reply, disablePending := pending } := by
    have freed : (s.completed tx.kind).link = s.link.completed tx.kind := rfl
    rw [link, freed, sent, ← holdOff]
  refine ⟨handed.view.trans ended.view, ?_, ?_, ?_, ?_, ?_, ?_, ?_, fun free => ?_, ?_, fun other => ?_, fun status => ?_,
    fun replies none => ?_⟩
  iterate 7 rw [handed.link, vlink]
  · refine (hasCode_eq_false_iff _ _).2 fun m hm same => ?_
    have before := handed.others.2 m hm (by rw [same]; decide)
    exact (hasCode_eq_false_iff _ _).1 (ended.gone free) m before same
  · refine ⟨fun m hm outside => ?_, fun m hm outside => ?_⟩
    · have entry := List.not_mem_of_not_mem_cons outside
      exact handed.others.1 m (ended.others.1 m hm (by simpa using List.ne_of_not_mem_cons outside)) entry
    · have entry := List.not_mem_of_not_mem_cons outside
      exact ended.others.2 m (handed.others.2 m hm entry) (by simpa using List.ne_of_not_mem_cons outside)
  · obtain ⟨seq, stepper, ret, mon⟩ := handed.engine other
    refine ⟨seq.trans ended.seq, stepper.trans ended.stepper, ret.trans ended.ret, ?_⟩
    rw [ConditionsBut, mon]
    exact ended.others
  · obtain ⟨spacing, claim⟩ := handed.status status
    refine ⟨spacing, ?_⟩
    rw [claim]
    exact ended.claim
  · rw [handed.reply replies (ended.mailbox.trans none), vlink]
    exact empty replies

end

end Sys2Proof.Machine

open Sys2Proof.Machine in
/-- Settles O43: the freed slot, the exit from LINK_FAULT, and by the kind what is handed on. -/
theorem Sys2Proof.Machine.completionsFreeTheirSlots : Obligations.CompletionsFreeTheirSlots := by
  intro s tx l r sends
  have done := exec_eq_after .transmissionCompletion s
  obtain ⟨enabled, slot, beat, mailbox, claim, seq, params, cab, conditions⟩ := completes_kept s
  refine ⟨fun pending calm => ?_, fun fault => ⟨_, done, faultCompletion_shown sends fault⟩, fun pending off normal empty => ⟨_, done, ?_⟩⟩
  · have after := after_completion_freed sends pending calm
    refine ⟨fun kind => ⟨_, done, ?_⟩, fun kind empty => ⟨_, done, ?_⟩, fun q kind waits on => ⟨_, done, ?_⟩,
      fun o kind on releasing => ⟨_, done, ?_⟩, fun c kind on sending lapsed => ⟨_, done, ?_⟩,
      fun c kind on sending offered state clear => ?_⟩
    · rw [after, kind]
      show statusCompleted (s.freedOf .status) = _
      rw [← enabled, ← beat]
      rfl
    · rw [after, kind]
      exact serveMailbox_empty (s := s.freedOf .reply) (mailbox.trans empty)
    · rw [after, kind]
      exact serveMailbox_waiting (s := s.freedOf .reply) (mailbox.trans waits) rfl (enabled.trans on)
    · have freed := freedOf_slot (s := s) (.inr (rfl : TxKind.release = .release)) (by rw [releasing]; rfl)
      rw [after, kind, freed]
      have hands : handCompletion .release { r with link := { r.link with claimSlot := .empty } }
          = examineOffer { r with link := { r.link with claimSlot := .empty } } := if_pos (enabled.trans on)
      rw [hands]
      exact examined_examineOffer _
    · have freed := freedOf_slot (s := s) (.inl (rfl : TxKind.claim = .claim)) (by rw [sending]; rfl)
      have hands : handCompletion .claim { r with link := { r.link with claimSlot := .empty } }
          = ownClaimCompleted { r with link := { r.link with claimSlot := .empty } } := if_pos (enabled.trans on)
      rw [after, kind, freed, hands, ownClaimCompleted_lapsed (s := { r with link := { r.link with claimSlot := .empty } })
        ((congrArg ClaimUnit.phase claim).trans lapsed) (enabled.trans on) rfl, ← claim, ← params]
    · intro q
      have freed := freedOf_slot (s := s) (.inl (rfl : TxKind.claim = .claim)) (by rw [sending]; rfl)
      have hands : handCompletion .claim q = ownClaimCompleted q := if_pos (enabled.trans on)
      have clear' : NoStandingCause q := by
        obtain ⟨estop, isolate, classes⟩ := clear
        refine ⟨(congrArg (·.estop.qualified) cab).trans estop, (congrArg (·.isolate.qualified) cab).trans isolate, fun m hm => ?_⟩
        obtain same | none := conditions
        · exact classes m (same ▸ hm)
        · have hm' : m ∈ s.completes.mon.conditions := hm
          rw [none] at hm'
          cases hm'
      have settles := settles_ownClaimCompleted (s := q) ((congrArg ClaimUnit.phase claim).trans offered) (enabled.trans on)
        ((congrArg Sequencer.state seq).trans state) clear'
      refine ⟨_, done, ?_⟩
      rw [after, kind, freed, hands]
      exact ⟨settles.entered, settles.frame, settles.records, settles.link, settles.claim.trans (congrArg ClaimUnit.settled claim)⟩
  · have after : s.after .transmissionCompletion = handCompletion tx.kind { s with link := l.cleared } := by
      rw [after_transmissionCompletion sends, if_neg (by rw [normal]; nofun), State.completed, completed_disabled s.link tx.kind pending]
      rfl
    rw [after]
    unfold handCompletion
    cases tx.kind <;> dsimp only
    case status =>
      rw [if_pos rfl]
      unfold statusCompleted
      have beats : (if s.link.txEnabled then Timer.running Config.heartbeatMs else s.link.heartbeat) = s.link.heartbeat :=
        if_neg (by rw [off]; nofun)
      show { s with link := { l.cleared with
        spacing := .running 50, heartbeat := if s.link.txEnabled then .running Config.heartbeatMs else s.link.heartbeat } } = _
      rw [beats]
    case reply =>
      rw [if_neg nofun]
      exact serveMailbox_empty (s := { s with link := l.cleared }) empty
    all_goals
      refine (if_neg (c := s.link.txEnabled = true) (by rw [off]; nofun)).trans ?_
      rw [if_neg nofun]
end


section
/-! The failure of an own frame: its slot, the line, the error count (R54 to R56, R58, R59, R63): O42. -/

namespace Sys2Proof.Machine

section
variable {s t u : State} {l : LinkUnit} {kind : TxKind} {place : BitErrorPlace} {tx : Transmission}

/-! ### The slots at a failure (R52, R54, R55, R58, R59) -/

/-- The slots when the frame waits again, for a station whose transmitter stays enabled. -/
def LinkUnit.waitsAgain (l : LinkUnit) (kind : TxKind) : LinkUnit :=
  { l with sending := none, claimSlot := l.claimSlot.failed, statusMarked := l.statusMarked || kind == .status }

/-- The slots when the frame waits again, or none when the transmitter was disabled meanwhile. -/
def LinkUnit.failedSlots (l : LinkUnit) (kind : TxKind) : LinkUnit :=
  if l.disablePending then (l.waitsAgain kind).cleared else l.waitsAgain kind

theorem failed_of_idle {x : ClaimSlot} (claim : x.claimIsSending = false) (release : x.releaseIsSending = false) : x.failed = x := by
  cases x
  case claimSending => cases claim
  case releaseSending => cases release
  all_goals rfl

theorem slotsAtFailure_eq (kind : TxKind) (agrees : (kind = .claim ∨ kind = .release) ∨ l.claimSlot.failed = l.claimSlot) :
    ({ l with sending := none } : LinkUnit).slotsAtFailure kind = l.waitsAgain kind := by
  unfold LinkUnit.waitsAgain
  cases kind <;> dsimp only [LinkUnit.slotsAtFailure]
  case claim | release =>
    have plain (b : Bool) : (b || false) = b := Bool.or_false b
    exact congrArg (fun m => ({ l with sending := none, claimSlot := l.claimSlot.failed, statusMarked := m } : LinkUnit)) (plain _).symm
  case status =>
    have marks : (l.statusMarked || TxKind.status == TxKind.status) = true := by rw [beq_self_eq_true, Bool.or_true]
    rw [agrees.resolve_left (by simp), marks]
  case reply =>
    rw [agrees.resolve_left (by simp)]
    exact congrArg (fun m => ({ l with sending := none, statusMarked := m } : LinkUnit)) (Bool.or_false _).symm

theorem atOutcome_eq (kind : TxKind) (agrees : (kind = .claim ∨ kind = .release) ∨ l.claimSlot.failed = l.claimSlot) :
    (({ l with sending := none } : LinkUnit).slotsAtFailure kind).atOutcome = l.failedSlots kind := by
  rw [slotsAtFailure_eq kind agrees]
  rfl

/-- A slot that agrees with the frame in transmission fails with it. -/
theorem slot_agrees (sends : l.sending = some tx) (agrees : l.slotSends = true) :
    (tx.kind = .claim ∨ tx.kind = .release) ∨ l.claimSlot.failed = l.claimSlot := by
  have kind : l.sendingKind = some tx.kind := by
    unfold LinkUnit.sendingKind
    rw [sends]
    rfl
  unfold LinkUnit.slotSends at agrees
  rw [kind, Bool.and_eq_true] at agrees
  obtain ⟨claim, release⟩ := agrees
  cases k : tx.kind
  · exact .inl (.inl rfl)
  · exact .inl (.inr rfl)
  all_goals
    rw [k] at claim release
    exact .inr (failed_of_idle ((eq_of_beq claim).trans rfl) ((eq_of_beq release).trans rfl))

theorem endFailed_failedSlots (sends : s.link.sending = some tx) (phase : s.claim.phase ≠ .lapsed) (agrees : s.link.slotSends = true) :
    endFailed tx.kind s = { s with link := s.link.failedSlots tx.kind } := by
  unfold endFailed
  rw [atOutcome_eq tx.kind (slot_agrees sends agrees)]
  generalize s.link.failedSlots tx.kind = l
  cases tx.kind <;> dsimp only
  case claim =>
    unfold ownClaimFailed
    exact if_neg phase
  all_goals rfl

/-- A CLAIM that fails with its withdrawal held leaves an empty slot, and the own claim goes by its need (R119). -/
theorem endFailed_lapsed {c : ClaimFields} (slot : s.link.claimSlot = .claimSending c none true) (lapsed : s.claim.phase = .lapsed)
    (pending : s.link.disablePending = false) : endFailed .claim s = { s with
      link := { s.link with sending := none, claimSlot := .empty }
      claim := { s.claim with phase := if s.claim.needStands then .wanted else .idle } } := by
  have failed : s.link.claimSlot.failed = .empty := by rw [slot]; rfl
  have link : s.link.failedSlots .claim = { s.link with sending := none, claimSlot := .empty } := by
    unfold LinkUnit.failedSlots LinkUnit.waitsAgain
    rw [if_neg (by rw [pending]; nofun), failed]
    exact congrArg (fun m => ({ s.link with sending := none, claimSlot := .empty, statusMarked := m } : LinkUnit)) (Bool.or_false _)
  unfold endFailed
  rw [atOutcome_eq .claim (.inl (.inl rfl)), link]
  exact if_pos lapsed

/-! ### Line, pool and count (R55, R56, R63) -/

theorem afterBitError_struck (l : LinkUnit) (place : BitErrorPlace) : l.afterBitError place = l.struck place := by
  unfold LinkUnit.afterBitError LinkUnit.struck LinkUnit.settle
  cases place <;> dsimp only <;> rw [takeBuffer_eq_receiving]

/-- Line and pool do not depend on the slots, and leave them. -/
theorem struck_slots (l : LinkUnit) (place : BitErrorPlace) (tx : Option Transmission) (slot : ClaimSlot) (mark : Bool)
    (reply : Option Reply) (pending : Bool) : ({ l with
      sending := tx, claimSlot := slot, statusMarked := mark, replySlot := reply, disablePending := pending } : LinkUnit).struck place
      = { l.struck place with
        sending := tx, claimSlot := slot, statusMarked := mark, replySlot := reply, disablePending := pending } := by
  obtain ⟨line, bits, enabled, _, _, _, _, _, errors, fault, holdOff, granted, beat, first, spacing, buffers, free, post, filling, nothing,
    applying, draining, left, taken⟩ := l
  cases filling <;> cases nothing <;> cases free <;> cases place <;> rfl

theorem struck_kept (l : LinkUnit) (place : BitErrorPlace) : (l.struck place).bitErrors = l.bitErrors
    ∧ (l.struck place).linkFault = l.linkFault ∧ (l.struck place).granted = l.granted ∧ (l.struck place).holdOff = l.holdOff := by
  unfold LinkUnit.struck LinkUnit.receiving
  cases l.filling <;> cases l.intoNothing <;> cases l.freeList <;> cases place <;> exact ⟨rfl, rfl, rfl, rfl⟩

/-- The count of the bit errors, LINK_FAULT, grant and hold-off, after the one that comes now (R56). -/
theorem countError_eq (l : LinkUnit) : l.countError = { l with
    bitErrors := min 8 (l.bitErrors + 1), linkFault := l.linkFault || decide (8 ≤ l.bitErrors + 1)
    granted := l.granted && !(l.linkFault || decide (8 ≤ l.bitErrors + 1))
    holdOff := if l.linkFault || decide (8 ≤ l.bitErrors + 1) then .running 1000 else l.holdOff } := by
  obtain ⟨line, bits, enabled, pending, slot, mark, reply, tx, errors, fault, holdOff, granted, beat, first, spacing, buffers, free,
    post, filling, nothing, applying, draining, left, taken⟩ := l
  cases fault
  · by_cases eighth : 8 ≤ errors + 1
    · rw [decide_eq_true eighth, Bool.or_true, Bool.not_true, Bool.and_false]
      exact if_pos eighth
    · rw [decide_eq_false eighth, Bool.or_false, Bool.not_false, Bool.and_true]
      exact if_neg eighth
  · rw [Bool.true_or, Bool.not_true, Bool.and_false]
    rfl

end

end Sys2Proof.Machine
end


section
/-! The eighth bit error: LINK_FAULT joins and the station is ALONE (R9, R56, R79): O42. -/

namespace Sys2Proof.Machine

section
variable {s t u c e : State} {l : LinkUnit} {kind : TxKind} {place : BitErrorPlace} {tx : Transmission}

/-! ### The link after a bit error -/

/-- The Link Controller after a bit error: line and pool by its place, the slots as given, the count one higher. -/
def LinkUnit.strikes (l : LinkUnit) (place : BitErrorPlace) (slot : ClaimSlot) (mark : Bool) (reply : Option Reply) (pending : Bool) :
    LinkUnit := { l.struck place with
  sending := none, claimSlot := slot, statusMarked := mark, replySlot := reply, disablePending := pending
  bitErrors := min 8 (l.bitErrors + 1), linkFault := l.linkFault || decide (8 ≤ l.bitErrors + 1)
  granted := l.granted && !(l.linkFault || decide (8 ≤ l.bitErrors + 1))
  holdOff := if l.linkFault || decide (8 ≤ l.bitErrors + 1) then .running 1000 else l.holdOff }

theorem counted_strikes (l : LinkUnit) (place : BitErrorPlace) (slot : ClaimSlot) (mark : Bool) (reply : Option Reply) (pending : Bool) :
    (({ l with sending := none, claimSlot := slot, statusMarked := mark, replySlot := reply, disablePending := pending } :
      LinkUnit).afterBitError place).countError = l.strikes place slot mark reply pending := by
  obtain ⟨errors, fault, granted, holdOff⟩ := struck_kept l place
  rw [afterBitError_struck, struck_slots, countError_eq, LinkUnit.strikes]
  dsimp only
  rw [errors, fault, granted, holdOff]

/-- A bit error: the failure and the count, and with the eighth in a row LINK_FAULT and ALONE. -/
theorem after_bitError (sends : s.link.sending = some tx) : s.after (.bitError place)
    = if ((s.errorCounted tx.kind place).link.linkFault && !s.link.linkFault) = true
      then enterAlone (reportPresent codeLinkFault (s.errorCounted tx.kind place)) else s.errorCounted tx.kind place := by
  simp only [State.after, exec, execBitError, sends]
  rfl

/-! ### LINK_FAULT joins (R56) -/

/-- What the report of LINK_FAULT changes: the set, with ALARM and a mark. -/
structure FaultReported (s t : State) : Prop where
  frame : t = { s with
    link := { s.link with statusMarked := t.link.statusMarked }
    mon := { s.mon with conditions := t.mon.conditions }, out := { s.out with alarm := t.out.alarm } }
  marked : s.link.statusMarked = true → t.link.statusMarked = true
  others : ConditionsBut [36] s t
  joined : hasCode s.mon.conditions 36 = false → ⟨36, .alarm, false, true, 0⟩ ∈ t.mon.conditions ∧ t.out.alarm = true

theorem joinedBy_marked {code : Nat} (marked : s.link.statusMarked = true) : (s.joinedBy code).link.statusMarked = true :=
  withMarkIf_marked _ s marked

theorem faultReported_reportPresent (s : State) : FaultReported s (reportPresent codeLinkFault s) := by
  cases known : hasCode s.mon.conditions 36
  · have fixed := newMember_of_fixed (code := codeLinkFault) (by decide) s
    have cls : s.classOf codeLinkFault = .alarm := congrArg Member.cls fixed
    have plain := plain_of_fixed (code := codeLinkFault) (by decide) (by decide) (by decide) (by decide) s
    have unmoved : joiningAppears codeLinkFault (s.classOf codeLinkFault) (s.withMember codeLinkFault) = s.withMember codeLinkFault := by
      rw [cls]
      show (if codeLinkFault = codeCrankOpen then crankOpenAppears (s.withMember codeLinkFault) else _) = _
      exact if_neg (by decide)
    have eq := joinedBy_eq s codeLinkFault
    have member := joinedBy_member s codeLinkFault
    have others := joinedBy_conditionsBut s codeLinkFault
    have marked := joinedBy_marked (s := s) (code := codeLinkFault)
    rw [reportPresent_unmoved plain known unmoved]
    rw [fixed] at member
    rw [cls] at eq
    have alarm : (s.joinedBy codeLinkFault).out.alarm = true := rfl
    generalize s.joinedBy codeLinkFault = v at *
    exact ⟨by rw [alarm]; exact eq, marked, others, fun _ => ⟨member, alarm⟩⟩
  · rw [reportPresent_of_member (code := codeLinkFault) known]
    exact ⟨rfl, id, conditionsBut_setCause (List.mem_singleton_self _) true s, fun new => absurd (known.symm.trans new) nofun⟩

/-! ### The entry into ALONE, seen at link, claim and conditions (R79) -/

theorem Tweak.marked (k : Tweak s t) (marked : s.link.statusMarked = true) : t.link.statusMarked = true := by
  cases k
  case mark => rfl
  all_goals exact marked

theorem Act.marked (k : Act s t) (marked : s.link.statusMarked = true) : t.link.statusMarked = true := by
  have claims (own : Act.IsClaim s t) : t.link.statusMarked = true :=
    own.tweaks.keeps (P := fun u => u.link.statusMarked = true) (fun _ _ tweak h => tweak.marked h) marked
  cases k
  case mark => rfl
  case derate => exact ((Calm.refl s).computeDerate).marked marked
  case offer => exact claims (.inl rfl)
  case release o => exact claims (.inr (.inl ⟨o, rfl⟩))
  case need n => exact claims (.inr (.inr (.inl ⟨n, rfl⟩)))
  case withdraw => exact claims (.inr (.inr (.inr (.inl rfl))))
  case sees => exact claims (.inr (.inr (.inr (.inr rfl))))
  case proving o p => cases o <;> exact marked
  all_goals exact marked

/-- A mark stands through every cascade. -/
theorem Acts.marked (a : Acts s t) (marked : s.link.statusMarked = true) : t.link.statusMarked = true :=
  a.keeps (P := fun u => u.link.statusMarked = true) (fun _ _ act h => act.marked h) marked

/-- What an entry into ALONE leaves of link, set and own claim; only a start in CLAIM_WAIT gives up its need (R9). -/
structure AloneAside (s t : State) : Prop where
  link : t.link = { s.link with claimSlot := t.link.claimSlot, statusMarked := t.link.statusMarked }
  marked : s.link.statusMarked = true → t.link.statusMarked = true
  others : ConditionsBut entryCodes s t
  alarm : AlarmLaw s → AlarmLaw t
  still : s.view.alone = true ∨ s.seq.state ≠ .claimWait → t.claim = s.claim ∧ t.link.claimSlot = s.link.claimSlot
  waiting : s.view.alone = false → s.seq.state = .claimWait → s.claim.phase = .wanted ∨ s.claim.phase = .idle →
    t.claim = { s.claim with phase := .idle } ∧ t.link.claimSlot = s.link.claimSlot

theorem aloneAside_enterAlone (s : State) : AloneAside s (enterAlone s) := by
  cases alone : s.view.alone
  · rw [enterAlone_new alone]
    by_cases starting : s.seq.state = .prelube ∨ s.seq.state = .claimWait
    · rw [aloneAppears_starting (s := s.setView s.aloneView) starting]
      have cancelled := cancelled_cancelStart (s.setView s.aloneView)
      have deeds : Deeds .plain (s.setView s.aloneView) (cancelStart (s.setView s.aloneView)) := (Deeds.plain _).cancelStart rfl
      have acts := (Acts.refl (s.setView s.aloneView)).cancelStart
      have slot := cancelled.slot
      have claim := cancelled.claim
      obtain ⟨-, ⟨-, -, -, -, -, link, -⟩, others⟩ := cancelled.frame
      generalize cancelStart (s.setView s.aloneView) = v at *
      refine {
        link := (congrArg (fun l : LinkUnit => { l with statusMarked := v.withMark.link.statusMarked }) link :)
        marked := fun m => withMarkIf_marked true v (acts.marked m)
        others := others
        alarm := fun law => AlarmLaw.deeds (s := s.setView s.aloneView) (t := v) law deeds ⟨by simp, by simp⟩
        still := fun calm => ?_
        waiting := fun _ state phase => ?_ }
      · have other : s.seq.state ≠ .claimWait := calm.resolve_left (by rw [alone]; nofun)
        have prelube : s.seq.state = .prelube := starting.resolve_right other
        have drop : dropClaim (s.setView s.aloneView) = s.setView s.aloneView :=
          dropClaim_of_claimless (s := s.setView s.aloneView) (by simp [prelube])
        rw [drop] at slot claim
        exact ⟨claim, slot⟩
      · have drop : (dropClaim (s.setView s.aloneView)).claim = { s.claim with phase := .idle }
            ∧ (dropClaim (s.setView s.aloneView)).link.claimSlot = s.link.claimSlot := by
          obtain wanted | idle := phase
          · rw [dropClaim_of_wanted (s := s.setView s.aloneView) state wanted]
            exact ⟨rfl, rfl⟩
          · have state' : (s.setView s.aloneView).seq.state = .claimWait := state
            have idle' : (s.setView s.aloneView).claim.phase = .idle := idle
            simp only [dropClaim, state', claimWithdrawNeed, idle']
            rw [← idle]
            exact ⟨rfl, rfl⟩
        exact ⟨claim.trans drop.1, slot.trans drop.2⟩
    · obtain ⟨prelube, claimWait⟩ := not_or.1 starting
      rw [aloneAppears_still (s := s.setView s.aloneView) prelube claimWait]
      exact ⟨rfl, withMarkIf_marked true s, conditionsBut_of_mon rfl, id, fun _ => ⟨rfl, rfl⟩, fun _ same => absurd same claimWait⟩
  · rw [enterAlone_already alone]
    exact ⟨rfl, id, conditionsBut_of_mon rfl, id, fun _ => ⟨rfl, rfl⟩, fun first => absurd (alone.symm.trans first) nofun⟩

end

end Sys2Proof.Machine
end


section
/-! O42. -/

namespace Sys2Proof.Machine

section
variable {s t u c e : State} {place : BitErrorPlace} {tx : Transmission}

/-- The eighth bit error in a row, from the station with the count at 8. -/
structure Eighth (s t : State) : Prop where
  link : t.link = { s.link with claimSlot := t.link.claimSlot, statusMarked := t.link.statusMarked }
  marked : s.link.statusMarked = true → t.link.statusMarked = true
  view : t.view = s.aloneView
  joined : hasCode s.mon.conditions 36 = false → ⟨36, .alarm, false, true, 0⟩ ∈ t.mon.conditions ∧ t.out.alarm = true
  still : s.view.alone = true ∨ s.seq.state ≠ .claimWait → t.claim = s.claim ∧ t.link.claimSlot = s.link.claimSlot
  waiting : s.view.alone = false → s.seq.state = .claimWait → s.claim.phase = .wanted ∨ s.claim.phase = .idle →
    t.claim = { s.claim with phase := .idle } ∧ t.link.claimSlot = s.link.claimSlot
  engine : s.seq.state ≠ .prelube → s.seq.state ≠ .claimWait → t.seq = s.seq ∧ t.stepper = s.stepper ∧ t.claim = s.claim
    ∧ t.ret = s.ret ∧ t.alloc = s.alloc ∧ t.port = s.port ∧ ConditionsBut [36] s t
  cancels : s.view.alone = false → s.seq.state = .prelube ∨ s.seq.state = .claimWait →
    t.seq.state = if s.cab.isolate.qualified then .isolated else .stopped

theorem eighth_enterAlone (s : State) : Eighth s (enterAlone (reportPresent codeLinkFault s)) := by
  have reported := faultReported_reportPresent s
  have frame := reported.frame
  generalize reportPresent codeLinkFault s = r at *
  have aside := aloneAside_enterAlone r
  obtain ⟨view, -⟩ := enterAlone_shown r
  have sameView : r.view = s.view := by rw [frame]
  have sameState : r.seq = s.seq := by rw [frame]
  have sameClaim : r.claim = s.claim := by rw [frame]
  have sameSlot : r.link.claimSlot = s.link.claimSlot := by rw [frame]
  have sameAlloc : r.alloc = s.alloc := by rw [frame]
  have sameCab : r.cab = s.cab := by rw [frame]
  have still := aside.still
  have waiting := aside.waiting
  rw [sameView, sameState, sameClaim, sameSlot] at still waiting
  refine {
    link := ?_, marked := fun m => aside.marked (reported.marked m)
    view := by rw [view, State.aloneView, sameView, sameAlloc]; rfl
    joined := fun new => ?_
    still := still
    waiting := waiting
    engine := fun prelube claimWait => ?_
    cancels := fun first starting => ?_ }
  · rw [aside.link, show r.link = { s.link with statusMarked := r.link.statusMarked } from congrArg State.link frame]
  · obtain ⟨member, alarm⟩ := reported.joined new
    have nonempty : (!r.mon.conditions.isEmpty) = true := by
      rw [Bool.not_eq_true', List.isEmpty_eq_false_iff]
      exact List.ne_nil_of_mem member
    have stays := aside.others.1 _ member (by decide)
    have law : AlarmLaw (enterAlone r) := aside.alarm (alarm.trans nonempty.symm)
    refine ⟨stays, law.trans ?_⟩
    rw [Bool.not_eq_true', List.isEmpty_eq_false_iff]
    exact List.ne_nil_of_mem stays
  · have stands := enterAlone_frame (s := r) (by rw [sameState]; exact prelube) (by rw [sameState]; exact claimWait)
    rw [stands]
    refine ⟨sameState, ?_, sameClaim, ?_, sameAlloc, ?_, reported.others⟩ <;> rw [frame]
  · rw [← sameCab]
    exact enterAlone_cancels (by rw [sameView]; exact first) (by rw [sameState]; exact starting)

/-- The station when the failed frame waits again, with line, pool and count as the bit error leaves them. -/
theorem errorCounted_strikes {slot : ClaimSlot} {mark : Bool} {reply : Option Reply} {pending : Bool} {claim : ClaimUnit}
    (failed : endFailed tx.kind s = { s with
      link := { s.link with sending := none, claimSlot := slot, statusMarked := mark, replySlot := reply, disablePending := pending }
      claim := claim }) (place : BitErrorPlace) :
    s.errorCounted tx.kind place = { s with link := s.link.strikes place slot mark reply pending, claim := claim } := by
  unfold State.errorCounted
  rw [failed, ← counted_strikes]
  rfl

theorem failedSlots_form (l : LinkUnit) (kind : TxKind) : l.failedSlots kind = { l with
    sending := none, claimSlot := (l.failedSlots kind).claimSlot, statusMarked := (l.failedSlots kind).statusMarked
    replySlot := (l.failedSlots kind).replySlot, disablePending := (l.failedSlots kind).disablePending } := by
  unfold LinkUnit.failedSlots LinkUnit.waitsAgain
  split <;> rfl

/-- The eighth in a row is the one that enters LINK_FAULT. -/
theorem enters_iff (l : LinkUnit) (place : BitErrorPlace) (slot : ClaimSlot) (mark : Bool) (reply : Option Reply) (pending : Bool) :
    ((l.strikes place slot mark reply pending).linkFault && !l.linkFault) = true ↔ l.linkFault = false ∧ 8 ≤ l.bitErrors + 1 := by
  show ((l.linkFault || decide (8 ≤ l.bitErrors + 1)) && !l.linkFault) = true ↔ _
  cases l.linkFault <;> simp

theorem after_arbitrationLoss (sends : s.link.sending = some tx) : s.after .arbitrationLoss = endFailed tx.kind s := by
  simp only [State.after, exec, execArbitrationLoss, sends]

/-- Line and pool leave the station's own slots, and a bit error that does not enter LINK_FAULT leaves that flag. -/
theorem strikes_normal {l : LinkUnit} (stays : l.linkFault = true ∨ l.bitErrors + 1 < 8) (place : BitErrorPlace) (slot : ClaimSlot) :
    l.strikes place slot l.statusMarked l.replySlot l.disablePending = { l.struck place with
      sending := none, claimSlot := slot, bitErrors := min 8 (l.bitErrors + 1), granted := l.granted && !l.linkFault
      holdOff := if l.linkFault then .running 1000 else l.holdOff } := by
  have own := struck_slots l place l.sending l.claimSlot l.statusMarked l.replySlot l.disablePending
  have own : l.struck place = { l.struck place with
    sending := l.sending, claimSlot := l.claimSlot, statusMarked := l.statusMarked, replySlot := l.replySlot
    disablePending := l.disablePending } := own
  obtain ⟨-, fault, -, -⟩ := struck_kept l place
  have flag : (l.linkFault || decide (8 ≤ l.bitErrors + 1)) = l.linkFault := by
    obtain h | h := stays
    · rw [h, Bool.true_or]
    · rw [decide_eq_false (by omega), Bool.or_false]
  unfold LinkUnit.strikes
  rw [flag]
  conv_rhs => rw [own]
  rw [← fault]

theorem after_bitError_counted {slot : ClaimSlot} {mark : Bool} {reply : Option Reply} {pending : Bool}
    (sends : s.link.sending = some tx) (counted : s.errorCounted tx.kind place = c)
    (link : c.link = s.link.strikes place slot mark reply pending) :
    (s.link.linkFault = true ∨ s.link.bitErrors + 1 < 8 → s.after (.bitError place) = c)
      ∧ (s.link.linkFault = false → 8 ≤ s.link.bitErrors + 1 → Eighth c (s.after (.bitError place))) := by
  rw [after_bitError sends, counted, link]
  have enters := enters_iff s.link place slot mark reply pending
  refine ⟨fun stays => if_neg fun now => ?_, fun fault eighth => ?_⟩
  · obtain ⟨fault, eighth⟩ := enters.1 now
    obtain h | h := stays
    · rw [h] at fault
      cases fault
    · omega
  · rw [if_pos (enters.2 ⟨fault, eighth⟩)]
    exact eighth_enterAlone c

end

end Sys2Proof.Machine

open Sys2Proof.Machine in
/-- Settles O42: how the slots fail, how line, pool and count follow, and what the eighth in a row adds. -/
theorem Sys2Proof.Machine.failedFramesWaitAgainAndAreCounted : Obligations.FailedFramesWaitAgainAndAreCounted := by
  intro s tx place slots failed l
  refine ⟨fun c sends slot lapsed pending => ⟨_, exec_eq_after _ _, ?_⟩, fun c sends slot lapsed pending => ⟨_, exec_eq_after _ _, ?_⟩,
    fun sends phase agrees => ⟨⟨_, exec_eq_after _ _, ?_⟩, _, exec_eq_after _ _, ?_⟩, fun running => ⟨_, exec_eq_after _ _, if_pos running⟩⟩
  · rw [after_arbitrationLoss sends]
    exact endFailed_lapsed slot lapsed pending
  · have counted := errorCounted_strikes (tx := ⟨.claim, tx.frame⟩) (mark := s.link.statusMarked) (reply := s.link.replySlot)
      (pending := s.link.disablePending) (endFailed_lapsed slot lapsed pending) place
    obtain ⟨normal, enters⟩ := after_bitError_counted sends counted rfl
    by_cases stays : s.link.linkFault = true ∨ s.link.bitErrors + 1 < 8
    · rw [normal stays]
      refine ⟨rfl, rfl, rfl, rfl, fun _ => ?_, fun fault eighth => ?_⟩
      · rw [strikes_normal stays]
      · obtain h | h := stays
        · exact absurd (h.symm.trans fault) nofun
        · omega
    · obtain ⟨fault, count⟩ := not_or.1 stays
      have eighth := enters ((Bool.not_eq_true _).mp fault) (by omega)
      generalize s.after (.bitError place) = t at *
      have struck := eighth.link
      have spent : (s.link.linkFault || decide (8 ≤ s.link.bitErrors + 1)) = true := by
        rw [decide_eq_true (by omega), Bool.or_true]
      have own : t.link.claimSlot = .empty ∧ t.claim = { s.claim with phase := if s.claim.needStands = true
          ∧ (s.seq.state ≠ .claimWait ∨ s.view.alone = true) then .wanted else .idle } := by
        by_cases waits : s.view.alone = false ∧ s.seq.state = .claimWait
        · obtain ⟨first, state⟩ := waits
          have back : (if s.claim.needStands then ClaimPhase.wanted else .idle) = .wanted
              ∨ (if s.claim.needStands then ClaimPhase.wanted else .idle) = .idle := by
            split
            · exact .inl rfl
            · exact .inr rfl
          obtain ⟨claim, slot⟩ := eighth.waiting first state back
          refine ⟨slot, claim.trans ?_⟩
          rw [if_neg (c := s.claim.needStands = true ∧ (s.seq.state ≠ .claimWait ∨ s.view.alone = true)) (by simp [first, state])]
        · have calm : s.view.alone = true ∨ s.seq.state ≠ .claimWait := by
            by_cases first : s.view.alone = true
            · exact .inl first
            · exact .inr fun state => waits ⟨(Bool.not_eq_true _).mp first, state⟩
          obtain ⟨claim, slot⟩ := eighth.still calm
          refine ⟨slot, claim.trans ?_⟩
          rw [if_congr (and_iff_left calm.symm) rfl rfl]
      refine ⟨own.1, (congrArg LinkUnit.sending struck :), (congrArg LinkUnit.bitErrors struck :), (congrArg LinkUnit.linkFault struck :),
        fun h => absurd h stays, fun _ _ => ⟨(congrArg LinkUnit.granted struck).trans ?_, (congrArg LinkUnit.holdOff struck).trans ?_,
          by rw [eighth.view]; rfl, own.2⟩⟩
      · show (s.link.granted && !(s.link.linkFault || decide (8 ≤ s.link.bitErrors + 1))) = false
        rw [spent, Bool.not_true, Bool.and_false]
      · exact if_pos spent
  · rw [after_arbitrationLoss sends]
    exact endFailed_failedSlots sends phase agrees
  · have ended := endFailed_failedSlots sends phase agrees
    rw [failedSlots_form] at ended
    have counted := errorCounted_strikes ended place
    obtain ⟨normal, enters⟩ := after_bitError_counted sends counted rfl
    by_cases stays : s.link.linkFault = true ∨ s.link.bitErrors + 1 < 8
    · rw [normal stays]
      refine ⟨rfl, rfl, fun _ => rfl, id, rfl, rfl, rfl, rfl, rfl, rfl, rfl, fun fault count => ⟨rfl, ?_, ?_⟩, fun fault => ⟨rfl, ?_, ?_⟩,
        fun fault eighth => ?_⟩
      · show (s.link.granted && !(s.link.linkFault || decide (8 ≤ s.link.bitErrors + 1))) = s.link.granted
        rw [fault, decide_eq_false (by omega), Bool.or_false, Bool.not_false, Bool.and_true]
      · show (if s.link.linkFault || decide (8 ≤ s.link.bitErrors + 1) then Timer.running 1000 else s.link.holdOff) = s.link.holdOff
        rw [fault, decide_eq_false (by omega)]
        rfl
      · show (s.link.granted && !(s.link.linkFault || decide (8 ≤ s.link.bitErrors + 1))) = false
        rw [fault, Bool.true_or, Bool.not_true, Bool.and_false]
      · show (if s.link.linkFault || decide (8 ≤ s.link.bitErrors + 1) then Timer.running 1000 else s.link.holdOff) = .running 1000
        rw [fault]
        rfl
      · obtain h | h := stays
        · exact absurd (h.symm.trans fault) nofun
        · omega
    · obtain ⟨fault, count⟩ := not_or.1 stays
      have eighth := enters ((Bool.not_eq_true _).mp fault) (by omega)
      generalize s.after (.bitError place) = t at *
      have struck := eighth.link
      have spent : (s.link.linkFault || decide (8 ≤ s.link.bitErrors + 1)) = true := by
        rw [decide_eq_true (by omega), Bool.or_true]
      refine ⟨(congrArg LinkUnit.sending struck :), (congrArg LinkUnit.replySlot struck :), fun some => ?_, eighth.marked,
        (congrArg LinkUnit.bitErrors struck :), (congrArg LinkUnit.linkFault struck :), (congrArg LinkUnit.line struck :),
        (congrArg LinkUnit.releasedBits struck :), (congrArg LinkUnit.filling struck :), (congrArg LinkUnit.freeList struck :),
        (congrArg LinkUnit.intoNothing struck :), fun _ few => absurd few count, fun h => absurd h fault,
        fun _ _ => ⟨(congrArg LinkUnit.granted struck).trans ?_, (congrArg LinkUnit.holdOff struck).trans (if_pos spent),
          by rw [eighth.view]; rfl, fun first => ?_, eighth.joined, eighth.engine, eighth.cancels⟩⟩
      · obtain h | h | h := some
        · exact absurd h fault
        · exact absurd h count
        · exact (eighth.still (.inr h)).2
      · show (s.link.granted && !(s.link.linkFault || decide (8 ≤ s.link.bitErrors + 1))) = false
        rw [spent, Bool.not_true, Bool.and_false]
      · rw [eighth.view]
        exact if_neg (by rw [first]; nofun)
end


section
/-! LOW_OIL, STALL and OVERSPEED stop the engine (R22, R148 to R150, R162, R164). -/

namespace Sys2Proof.Machine

section
variable {s t u v : State} {code : Nat} {st : EngineState} {latched : Bool}

/-! ### A cause that is gone -/

/-- No member with the code has its cause present. -/
def Uncaused (code : Nat) (s : State) : Prop := ∀ m ∈ s.mon.conditions, m.code = code → m.cause = false

theorem Uncaused.congr (h : Uncaused code s) (conditions : t.mon.conditions = s.mon.conditions) : Uncaused code t := by
  unfold Uncaused
  rw [conditions]
  exact h

/-- A report of a gone cause leaves members of before, some with their cause flag cleared. -/
theorem mem_reportGone {code : Nat} {m : Member} (hm : m ∈ (reportGone code s).mon.conditions) :
    m ∈ s.mon.conditions ∨ m.cause = false := by
  unfold reportGone at hm
  split at hm
  · exact .inl hm
  · next x found =>
    split at hm
    · obtain ⟨y, hy, rfl⟩ := List.mem_map.1 hm
      split
      · exact .inr rfl
      · exact .inl hy
    · rw [leaveCondition_conditions] at hm
      exact .inl (List.mem_filter.1 hm).1

theorem Uncaused.reportGone (h : Uncaused code s) (c : Nat) : Uncaused code (reportGone c s) := by
  intro m hm same
  obtain old | gone := mem_reportGone hm
  · exact h m old same
  · exact gone

/-- After the report of its gone cause no member with the code has it present. -/
theorem uncaused_reportGone (code : Nat) (s : State) : Uncaused code (reportGone code s) := by
  intro m hm same
  unfold Machine.reportGone at hm
  split at hm
  · next absent =>
    have other := List.find?_eq_none.1 absent m hm
    exact absurd same (by simpa using other)
  · next x found =>
    split at hm
    · obtain ⟨y, hy, rfl⟩ := List.mem_map.1 hm
      split at same
      · rw [if_pos ‹_›]
      · exact absurd same ‹_›
    · rw [leaveCondition_conditions] at hm
      have kept := (List.mem_filter.1 hm).2
      rw [(mem_of_findMember found).2] at kept
      exact absurd same (by simpa using kept)

theorem Uncaused.maskStartMasked (h : Uncaused code s) : Uncaused code (maskStartMasked s) := by
  have masks (t : State) (k : Fin 12) (ht : Uncaused code t) : Uncaused code (maskInput k t) := by
    unfold Machine.maskInput
    dsimp only
    split
    · refine Uncaused.reportGone ?_ _
      exact ht.congr rfl
    · exact ht.congr rfl
  have folds (l : List (Fin 12)) (t : State) (ht : Uncaused code t) : Uncaused code
      (l.foldl (fun t k => if t.mon.routing[k].enable && t.mon.routing[k].startMask then maskInput k t else t) t) := by
    induction l generalizing t with
    | nil => exact ht
    | cons k l ih =>
      refine ih _ ?_
      dsimp only
      split
      · exact masks t k ht
      · exact ht
  unfold Machine.maskStartMasked
  generalize List.finRange 12 = l
  exact folds l s h

theorem Uncaused.setRet (h : Uncaused code s) (x : RetainedStore) : Uncaused code (s.setRet x) := h

/-- A state outside the run phases reports LOW_OIL gone at its entry (R150). -/
theorem uncaused_monitorEntry (dead : st.runs = false) (s : State) : Uncaused codeLowOil (monitorEntry st s) := by
  unfold monitorEntry
  dsimp only
  rw [if_neg (by rw [dead]; nofun)]
  exact (uncaused_reportGone codeLowOil _).maskStartMasked

theorem uncaused_entryBase (dead : st.runs = false) (s : State) : Uncaused codeLowOil (entryBase st s) := by
  rw [entryBase_eq]
  exact uncaused_monitorEntry dead _

theorem uncaused_enterStopping (s : State) : Uncaused codeLowOil (enterStopping s) := by
  have exits (t : State) (ht : Uncaused codeLowOil t) : Uncaused codeLowOil (stoppingExit t) := by
    unfold stoppingExit
    split
    · split
      · rw [enterFaulted_eq]
        exact Uncaused.setRet (uncaused_entryBase rfl _) _
      · rw [enterStopped_eq]
        refine uncaused_entryBase ?_ _
        unfold State.stoppedOrIsolated
        split <;> rfl
    · exact ht
  rw [enterStopping_eq]
  refine exits _ ?_
  unfold State.stoppingEntered
  exact Uncaused.setRet (uncaused_entryBase rfl _) _

/-! ### A latched code of class SHUTDOWN joins a running engine (R22) -/

/-- The states of a running engine in which LOW_OIL is tested (R150). -/
theorem running_active (running : s.seq.state ∈ [.runup, .warmup, .online, .unloading, .cooldown]) :
    s.seq.state.active = true ∧ s.seq.state ≠ .claimWait ∧ s.seq.state ≠ .claimSettle ∧ s.seq.state ≠ .cranking := by
  simp only [List.mem_cons, List.not_mem_nil, or_false] at running
  obtain e | e | e | e | e := running <;> rw [e] <;> exact ⟨rfl, nofun, nofun, nofun⟩

theorem shutdown_plain (fixed : 12 < code) (cls : fixedClass code = .shutdown) (s : State) : Plain s code := by
  have off : code ≠ codeCoolantSensor ∧ code ≠ codeBatterySensor := by
    constructor <;> rintro rfl <;> exact absurd cls (by decide)
  exact plain_of_fixed fixed (by rw [cls]; nofun) off.1 off.2 s

theorem stopCause_of_fixed (fixed : 12 < code) (cls : fixedClass code = .shutdown) (lat : fixedLatched code = true) (s : State) :
    (s.newMember code).stopCause = true := by
  rw [newMember_of_fixed fixed, stopCause_iff, cls, lat]
  exact ⟨rfl, .inl rfl⟩

/-- A fixed latched code of class SHUTDOWN that is new stops an active engine. -/
structure ShutsDown (code : Nat) (s t : State) : Prop where
  stopped : Stopped s.seq.state true s t
  frame : TransitionFrame [code] s t
  conditions : t.mon.conditions = (goStopping (s.withMember code)).mon.conditions
  alarm : ∀ m ∈ t.mon.conditions, t.out.alarm = true

theorem shutsDown_reportPresent (fixed : 12 < code) (isCode : isConditionCode code = true) (cls : fixedClass code = .shutdown)
    (lat : fixedLatched code = true) (new : hasCode s.mon.conditions code = false) (active : s.seq.state.active = true) :
    ShutsDown code s (reportPresent code s) := by
  have plain := shutdown_plain fixed cls s
  have kind : s.classOf code = .shutdown := (congrArg Member.cls (newMember_of_fixed fixed s)).trans cls
  have decided : StopDecided (s.withMember code) true := stopDecided_withMember new (stopCause_of_fixed fixed cls lat s)
  have other : code ≠ codeCrankOpen := by rintro rfl; exact absurd cls (by decide)
  have frame := frame_reportPresent other isCode plain.coolant plain.battery s
  have stopped := stopped_reportPresent plain new kind active decided
  have goes := reportPresent_shutdown plain new kind active
  have conditions : (reportPresent code s).mon.conditions = (goStopping (s.withMember code)).mon.conditions := by
    rw [goes, handChange_conditions]
  refine ⟨stopped, frame, conditions, fun m hm => ?_⟩
  rw [conditions] at hm
  rw [goes]
  exact handChange_alarm hm

/-- A code that no entry reports gone stands with its cause. -/
theorem ShutsDown.member (h : ShutsDown code s t) (outside : code ∉ entryCodes) :
    s.newMember code ∈ t.mon.conditions ∧ t.out.alarm = true := by
  have stays := newMember_frame_stays outside ((Deeds.plain (s.withMember code)).goStopping rfl).plainFrame
  rw [← h.conditions] at stays
  exact ⟨stays, h.alarm _ stays⟩

/-- LOW_OIL in a running engine: its cause is gone with the run phase, and the latched member stands (R150, R164). -/
theorem lowOil_stops (new : hasCode s.mon.conditions 21 = false)
    (running : s.seq.state ∈ [.runup, .warmup, .online, .unloading, .cooldown]) :
    let t := reportPresent codeLowOil s
    Stopped s.seq.state true s t ∧ TransitionFrame [] s t
      ∧ ⟨21, .shutdown, true, false, 0⟩ ∈ t.mon.conditions ∧ t.out.alarm = true := by
  intro t
  obtain ⟨active, waits, settles, cranks⟩ := running_active running
  have stops : ShutsDown codeLowOil s t := shutsDown_reportPresent (by decide) rfl rfl rfl new active
  have fixed := newMember_of_fixed (code := codeLowOil) (by decide) s
  have claimless : goStopping (s.withMember codeLowOil) = enterStopping (s.withMember codeLowOil) := by
    unfold goStopping
    rw [dropClaim_of_claimless (s := s.withMember codeLowOil) ⟨waits, settles, cranks⟩]
  have calm := calm_enterStopping (s.withMember codeLowOil)
  obtain ⟨b, stays⟩ := calm.latched _ (newMember_mem s codeLowOil) fun y hy same => by
    have alone : y = s.newMember codeLowOil := withMember_alone new hy same
    rw [alone, fixed]
    rfl
  have gone : b = false := uncaused_enterStopping (s.withMember codeLowOil) _ stays (congrArg Member.code fixed)
  have member : ⟨21, .shutdown, true, false, 0⟩ ∈ t.mon.conditions := by
    rw [stops.conditions, claimless]
    rw [fixed, gone] at stays
    exact stays
  obtain ⟨cab, blocks, out, back⟩ := stops.frame
  refine ⟨stops.stopped, ⟨cab, blocks, fun m hm outside => out m hm ?_, fun m hm outside => back m hm ?_⟩, member, stops.alarm _ member⟩
  all_goals
    rw [List.singleton_append, List.mem_cons, not_or]
    exact ⟨fun same => outside (same ▸ by decide), outside⟩

end

end Sys2Proof.Machine
end


section
/-! Analog samples: the window, the sensor-fault code, what the users of a value leave alone (R144, R145): O57. -/

namespace Sys2Proof.Machine

section
variable {s t u v m : State} {c : Channel} {raw : Nat} {a : AnalogChannel}

/-! ### The window (R144, R145) -/

theorem inBand_iff (raw : Nat) : inBand raw = true ↔ 64 ≤ raw ∧ raw ≤ 960 := by
  simp only [inBand, Bool.and_eq_true, decide_eq_true_eq]
  exact Iff.rfl

theorem convert_sampleOf (c : Channel) (raw : Nat) : convert c raw = sampleOf c raw := by cases c <;> rfl

theorem channelSampled_sample (c : Channel) (raw : Nat) (a : AnalogChannel) : ChannelSampled c raw a (a.sample c raw) := by
  unfold AnalogChannel.sample
  refine ⟨fun out => if_neg ?_, fun low high fresh => ?_, fun low high faulty few => ?_⟩
  · rw [inBand_iff]
    omega
  · rw [if_pos ((inBand_iff raw).2 ⟨low, high⟩), convert_sampleOf]
    refine if_neg ?_
    rw [Bool.and_eq_true, decide_eq_true_eq]
    rintro ⟨faulty, few⟩
    obtain sound | full := fresh
    · rw [sound] at faulty
      cases faulty
    · exact absurd few (Nat.not_lt.2 full)
  · rw [if_pos ((inBand_iff raw).2 ⟨low, high⟩), convert_sampleOf]
    exact if_pos (by rw [Bool.and_eq_true, decide_eq_true_eq]; exact ⟨faulty, few⟩)

theorem sample_out (c : Channel) (a : AnalogChannel) (out : raw < 64 ∨ 960 < raw) : (a.sample c raw).fault = true :=
  congrArg AnalogChannel.fault ((channelSampled_sample c raw a).1 out)

theorem channel_setChannel (m : Monitor) (c d : Channel) (a : AnalogChannel) :
    (m.setChannel c a).channel d = if d = c then a else m.channel d := by
  cases c <;> cases d <;> rfl

/-! ### A sample and its users (R145) -/

/-- The station with the channel's sample taken. -/
def State.sampled (s : State) (c : Channel) (raw : Nat) : State := s.setMon (s.mon.setChannel c ((s.mon.channel c).sample c raw))

theorem sampled_channel (s : State) (c d : Channel) (raw : Nat) :
    (s.sampled c raw).mon.channel d = if d = c then (s.mon.channel c).sample c raw else s.mon.channel d := channel_setChannel ..

theorem after_analogSample_same (same : ((s.mon.channel c).sample c raw).fault = (s.mon.channel c).fault) :
    s.after (.analogSample c raw) = channelValue c (s.sampled c raw) := by
  simp only [State.after, exec, execAnalogSample]
  rw [if_pos same]
  rfl

theorem after_analogSample_changed (changed : ((s.mon.channel c).sample c raw).fault ≠ (s.mon.channel c).fault) :
    s.after (.analogSample c raw)
      = channelValue c (reportCause (sensorCode c) ((s.mon.channel c).sample c raw).fault (s.sampled c raw)) := by
  simp only [State.after, exec, execAnalogSample]
  rw [if_neg changed]
  rfl

/-! ### What the users of a value leave alone -/

/-- The users of a value leave the channels, raise the codes of the overtemperature tests alone, and never set a need flag. -/
structure Used (s t : State) : Prop where
  others : ConditionsBut (19 :: 20 :: entryCodes) s t
  alarm : AlarmLaw s → AlarmLaw t
  channels : ∀ d : Channel, t.mon.channel d = s.mon.channel d
  coldRun : s.cab.coldRun = false → t.cab.coldRun = false
  batteryNeed : s.cab.batteryNeed = false → t.cab.batteryNeed = false

theorem Used.refl (s : State) : Used s s := ⟨conditionsBut_refl _ s, id, fun _ => rfl, id, id⟩

theorem Used.trans (h : Used s t) (k : Used t u) : Used s u where
  others := conditionsBut_trans h.others k.others
  alarm law := k.alarm (h.alarm law)
  channels d := (k.channels d).trans (h.channels d)
  coldRun off := k.coldRun (h.coldRun off)
  batteryNeed off := k.batteryNeed (h.batteryNeed off)

theorem Used.ite {p : Prop} [Decidable p] (ht : Used s t) (hu : Used s u) : Used s (if p then t else u) := by
  split
  · exact ht
  · exact hu

/-- The chains of deeds that may raise the overtemperature codes. -/
abbrev usedScope : Scope := ⟨[19, 20], true, []⟩

theorem Used.of_deeds (d : Deeds usedScope s t) : Used s t := by
  have plain : ¬ usedScope.clears := by
    unfold Scope.clears Scope.codes
    decide
  have cab := d.cab (List.nil_subset _) plain
  refine ⟨d.conditionsBut nofun, fun law => law.deeds d ⟨nofun, nofun⟩, fun c => ?_, by rw [cab]; exact id, by rw [cab]; exact id⟩
  cases c
  · exact d.read (p := .coolant) nofun (by simp [deedParts]) nofun
  · exact d.read (p := .oil) nofun (by simp [deedParts]) nofun
  · exact d.read (p := .battery) nofun (by simp [deedParts]) nofun

theorem used_start (s : State) : Deeds usedScope s s := Deeds.refl s (.inl rfl)

theorem clearColdRun_off (s : State) : (clearColdRun s).cab.coldRun = false := by
  rw [clearColdRun, markStatusIf_eq]
  rfl

theorem clearBatteryNeed_off (s : State) : (clearBatteryNeed s).cab.batteryNeed = false := by
  rw [clearBatteryNeed, markStatusIf_eq]
  rfl

theorem used_clearColdRun (s : State) : Used s (clearColdRun s) := by
  unfold clearColdRun
  rw [markStatusIf_eq]
  exact ⟨conditionsBut_of_mon rfl, id, fun _ => rfl, fun _ => rfl, id⟩

theorem used_clearBatteryNeed (s : State) : Used s (clearBatteryNeed s) := by
  unfold clearBatteryNeed
  rw [markStatusIf_eq]
  exact ⟨conditionsBut_of_mon rfl, id, fun _ => rfl, id, fun _ => rfl⟩

theorem used_channelValue (c : Channel) (s : State) : Used s (channelValue c s) := by
  unfold channelValue
  cases c <;> dsimp only
  · have warm := Used.of_deeds (used_start s).examineWarm
    have recovery (t : State) : Used t (coldRunRecovery t) := Used.ite (used_clearColdRun t) (Used.refl t)
    have derate (t : State) : Used t (computeDerate t) := Used.of_deeds (used_start t).derate
    have tests (t : State) : Used t (overtempTests t) := Used.of_deeds ((used_start t).overtempTests (by decide) (by decide))
    exact ((warm.trans (recovery _)).trans (derate _)).trans (tests _)
  · exact Used.of_deeds (used_start s).prelubePressure.lowOilTest
  · exact Used.ite (used_clearBatteryNeed s) (Used.refl s)

/-! ### The sensor-fault code (R145) -/

theorem Quiet.channel (q : Quiet s t) (d : Channel) : t.mon.channel d = s.mon.channel d := by
  obtain ⟨mark, again, f, c, l, alarm, rfl⟩ := q.eq
  cases d <;> rfl

/-- What the report of a new sensor fault shows. -/
theorem sensorReported (c : Channel) (new : hasCode s.mon.conditions (sensorCode c) = false) :
    let t := reportPresent (sensorCode c) s
    ⟨sensorCode c, .alarm, false, true, 0⟩ ∈ t.mon.conditions ∧ AlarmLaw t ∧ (∀ d : Channel, t.mon.channel d = s.mon.channel d)
      ∧ (c = .coolant → t.cab.coldRun = false) ∧ (c = .battery → t.cab.batteryNeed = false) := by
  intro t
  have fixed : s.newMember (sensorCode c) = ⟨sensorCode c, .alarm, false, true, 0⟩ := by
    rw [newMember_of_fixed (by cases c <;> decide)]
    cases c <;> rfl
  have cls : s.classOf (sensorCode c) = .alarm := congrArg Member.cls fixed
  have still (v : State) : joiningAppears (sensorCode c) .alarm v = v := by
    show (if sensorCode c = codeCrankOpen then crankOpenAppears v else v) = v
    exact if_neg (by cases c <;> decide)
  have q := ((Quiet.refl s).withMember (sensorCode c)).handDerate (sensorCode c) .alarm
  have keeps := (handSensorFault_keeps (sensorCode c) (handDerate (sensorCode c) .alarm (s.withMember (sensorCode c)))).2.1
  have eq : t = handChange .alarm (reportDiffers s (s.withMember (sensorCode c)))
      (handSensorFault (sensorCode c) (handDerate (sensorCode c) .alarm (s.withMember (sensorCode c)))) := by
    show reportPresent (sensorCode c) s = _
    rw [reportPresent_of_new new, joinCondition, cls, still]
  have handed (v : State) := (Quiet.refl v).handChange .alarm (reportDiffers s (s.withMember (sensorCode c)))
  have conditions : t.mon.conditions = (s.withMember (sensorCode c)).mon.conditions := by
    rw [eq, handChange_conditions, keeps, handDerate_conditions]
  refine ⟨?_, ?_, fun d => ?_, fun name => ?_, fun name => ?_⟩
  · rw [conditions, ← fixed]
    exact newMember_mem s (sensorCode c)
  · rw [eq]
    exact alarmLaw_handChange ..
  · rw [eq, (handed _).channel, keeps, q.channel]
  · rw [eq, (handed _).cab, name]
    exact clearColdRun_off _
  · rw [eq, (handed _).cab, name]
    exact clearBatteryNeed_off _

end

end Sys2Proof.Machine
end


section
/-! The users of an analog value: R8, R16, R41, R145, R150 to R153: O57. -/

namespace Sys2Proof.Machine

section
variable {s t u : State}

/-! ### Marks and triggers written out -/

theorem markStatusIf_frame (c : Bool) (link : t.link = s.link) : markStatusIf c t = { t with link := (s.withMarkIf c).link } := by
  rw [← withMarkIf_link_congr c link]
  exact (markStatusIf_eq_withMarkIf c t).trans (withMarkIf_eq_link c t)

theorem passTriggerIf_frame (c : Bool) (alloc : t.alloc = s.alloc) :
    passTriggerIf c t = { t with alloc := (s.withTriggerIf c).alloc } := by
  rw [← withTriggerIf_alloc_congr c alloc]
  exact (passTriggerIf_eq_withTriggerIf c t).trans (withTriggerIf_eq_alloc c t)

/-! ### The battery value (R41) -/

/-- Battery need after the battery value that stands. -/
def State.batteryNeedLeft (s : State) : Bool :=
  s.cab.batteryNeed && !(!s.mon.battery.fault && decide ((s.params.vOk : Int) ≤ s.mon.battery.value))

theorem batteryRecovery_eq (s : State) : batteryRecovery s = { s with
    cab := { s.cab with batteryNeed := s.batteryNeedLeft }
    link := (s.withMarkIf (s.cab.batteryNeed && !s.batteryNeedLeft)).link } := by
  unfold batteryRecovery State.batteryNeedLeft
  cases !s.mon.battery.fault && decide ((s.params.vOk : Int) ≤ s.mon.battery.value)
  · rw [if_neg nofun]
    simp only [Bool.not_false, Bool.and_true, Bool.and_not_self]
    rfl
  · rw [if_pos rfl]
    refine (markStatusIf_frame (s := s) (t := s.setCab { s.cab with batteryNeed := false }) s.cab.batteryNeed rfl).trans ?_
    simp only [Bool.not_true, Bool.and_false, Bool.not_false, Bool.and_true]
    rfl

/-! ### The oil value (R8, R150) -/

theorem prelubePressure_idle (other : s.seq.state = .prelube → s.mon.oil.value < s.params.prelubePressure) : prelubePressure s = s := by
  refine if_neg ?_
  rw [Bool.and_eq_true, decide_eq_true_eq, decide_eq_true_eq]
  rintro ⟨state, reached⟩
  exact absurd reached (Int.not_le.2 (other state))

theorem lowOilTest_idle (other : s.mon.runPhase ≠ .run) : lowOilTest s = s := if_neg other

theorem lowOilTest_low (run : s.mon.runPhase = .run) (low : s.mon.oil.value < s.params.oilMinRun) :
    lowOilTest s = reportPresent codeLowOil s := by
  unfold lowOilTest
  rw [if_pos run, decide_eq_true low]
  rfl

theorem lowOilTest_enough (run : s.mon.runPhase = .run) (enough : (s.params.oilMinRun : Int) ≤ s.mon.oil.value)
    (absent : hasCode s.mon.conditions 21 = false) : lowOilTest s = s := by
  unfold lowOilTest
  rw [if_pos run, decide_eq_false (Int.not_lt.2 enough)]
  exact reportGone_of_absent absent

theorem maskStartMasked_runPhase (s : State) : (maskStartMasked s).mon.runPhase = s.mon.runPhase := by
  have masks (t : State) (k : Fin 12) : (maskInput k t).mon.runPhase = t.mon.runPhase := by
    unfold maskInput
    dsimp only
    split
    · rw [((Quiet.refl _).reportGone _).mon]
      rfl
    · rfl
  have folds (l : List (Fin 12)) (t : State) :
      (l.foldl (fun t k => if t.mon.routing[k].enable && t.mon.routing[k].startMask then maskInput k t else t) t).mon.runPhase
        = t.mon.runPhase := by
    induction l generalizing t with
    | nil => rfl
    | cons k l ih =>
      refine (ih _).trans ?_
      dsimp only
      split
      · exact masks t k
      · rfl
  unfold maskStartMasked
  generalize List.finRange 12 = l
  exact folds l s

/-- Outside the run phases the entry takes the run phase away (R147). -/
theorem entryBase_notRun {st : EngineState} (dead : st.runs = false) (s : State) : (entryBase st s).mon.runPhase = .notRun := by
  have monitored (t : State) : (monitorEntry st t).mon.runPhase = .notRun := by
    unfold monitorEntry
    dsimp only
    rw [if_neg (by rw [dead]; nofun), maskStartMasked_runPhase, ((Quiet.refl _).reportGone _).mon]
    rfl
  rw [entryBase_eq]
  exact monitored _

/-- The pressure ends PRELUBE, and the low-oil test finds no run phase (R8, R150). -/
theorem pressureReached (state : s.seq.state = .prelube) (reached : (s.params.prelubePressure : Int) ≤ s.mon.oil.value)
    (clear : NoStandingCause s) (idle : s.claim.phase = .idle) :
    channelValue .oil s = enterClaimWait s ∧ TransitionFrame [] s (enterClaimWait s) := by
  have frame := ((Deeds.plain s).enterClaimWait rfl (State.mayTry_of_state state rfl)).plainFrame
  have phase : (enterClaimWait s).mon.runPhase = .notRun := by
    rw [enterClaimWait_eq clear idle]
    have entered := entryBase_notRun (st := .claimWait) rfl s
    generalize entryBase .claimWait s = v at *
    obtain ⟨slot, phase, eq, -⟩ := examineOffer_changes (v.setClaim { s.claim with attempt := s.seq.attempts + 1, phase := .wanted })
    rw [eq]
    exact entered
  refine ⟨?_, frame⟩
  show lowOilTest (prelubePressure s) = enterClaimWait s
  have ends : prelubePressure s = enterClaimWait s := if_pos (by simp only [state, reached, decide_true, Bool.and_self])
  rw [ends]
  exact lowOilTest_idle (by rw [phase]; nofun)

/-! ### The coolant value (R16, R41, R151 to R153) -/

/-- Cold run after the coolant value that stands. -/
def State.coldRunLeft (s : State) : Bool :=
  s.cab.coldRun && !(!s.mon.coolant.fault && decide ((s.params.tWarmStop : Int) ≤ s.mon.coolant.value))

theorem coldRunRecovery_eq (s : State) : coldRunRecovery s = { s with
    cab := { s.cab with coldRun := s.coldRunLeft }
    link := (s.withMarkIf (s.cab.coldRun && !s.coldRunLeft)).link } := by
  unfold coldRunRecovery State.coldRunLeft
  cases !s.mon.coolant.fault && decide ((s.params.tWarmStop : Int) ≤ s.mon.coolant.value)
  · rw [if_neg nofun]
    simp only [Bool.not_false, Bool.and_true, Bool.and_not_self]
    rfl
  · rw [if_pos rfl]
    refine (markStatusIf_frame (s := s) (t := s.setCab { s.cab with coldRun := false }) s.cab.coldRun rfl).trans ?_
    simp only [Bool.not_true, Bool.and_false, Bool.not_false, Bool.and_true]
    rfl

/-- The capacity that follows from the factor that coolant and conditions give (R152). -/
def State.derateCapacity (s : State) : Nat := s.params.ratedPower * s.derateFactor / 256

theorem computeDerate_loaded (loaded : s.loaded = true) : computeDerate s = { s with
    mon := { s.mon with derate := s.derateFactor, capacity := s.derateCapacity }
    link := (s.withMarkIf (s.derateCapacity != s.mon.capacity)).link
    alloc := (s.withTriggerIf (s.derateFactor != s.mon.derate || s.derateCapacity != s.mon.capacity)).alloc } := by
  refine (if_pos loaded).trans ?_
  have told := passTriggerIf_frame (s := s) (t := s.setMon { s.mon with derate := s.derateFactor, capacity := s.derateCapacity })
    (s.derateFactor != s.mon.derate || s.derateCapacity != s.mon.capacity) rfl
  refine (congrArg (markStatusIf (s.derateCapacity != s.mon.capacity)) told).trans ?_
  exact markStatusIf_frame (s := s) _ rfl

/-- Two marks in turn are one. -/
theorem withMarkIf_twice {a b : Bool} (h : t.link = (s.withMarkIf a).link) : (t.withMarkIf b).link = (s.withMarkIf (a || b)).link := by
  rw [withMarkIf_link_congr (s := s.withMarkIf a) b h]
  cases a <;> cases b <;> simp [State.withMarkIf, State.withMark]

/-- Cold run, F and C after a coolant value. -/
def State.coolantKnown (s : State) : State := { s with
    mon := { s.mon with derate := s.derateFactor, capacity := s.derateCapacity }
    cab := { s.cab with coldRun := s.coldRunLeft }
    link := (s.withMarkIf ((s.cab.coldRun && !s.coldRunLeft) || s.derateCapacity != s.mon.capacity)).link
    alloc := (s.withTriggerIf (s.derateFactor != s.mon.derate || s.derateCapacity != s.mon.capacity)).alloc }

theorem coolantTaken (loaded : s.loaded = true) : computeDerate (coldRunRecovery s) = s.coolantKnown := by
  have eq := coldRunRecovery_eq s
  rw [computeDerate_loaded (by rw [eq]; exact loaded), withMarkIf_twice (s := s) (by rw [eq]), withTriggerIf_alloc_congr (s := s) _ (by rw [eq]), eq]
  rfl

/-- Neither test raises or clears a code below T_TRIP (R153). -/
theorem overtempTests_cool (cool : s.mon.coolant.value < s.params.tTrip) (none19 : hasCode s.mon.conditions 19 = false)
    (none20 : hasCode s.mon.conditions 20 = false) : overtempTests s = s := by
  unfold overtempTests
  dsimp only
  rw [decide_eq_false (Int.not_le.2 cool), decide_eq_false (by omega)]
  simp only [reportCause, Bool.false_eq_true, if_false]
  rw [reportGone_of_absent (code := codeOvertemp) none19, reportGone_of_absent (code := codeOvertempSevere) none20, ite_self]

theorem overtempTests_hot (loaded : s.loaded = true) (hot : (s.params.tTrip : Int) ≤ s.mon.coolant.value) : overtempTests s =
    reportCause codeOvertempSevere (decide ((s.params.tTrip : Int) + 5 ≤ s.mon.coolant.value)) (reportPresent codeOvertemp s) := by
  unfold overtempTests
  rw [if_pos loaded, decide_eq_true hot]
  rfl

/-- OVERTEMP joins without a reaction of the engine (R153, R162). -/
theorem overtempJoins (new : hasCode s.mon.conditions 19 = false) :
    let t := reportPresent codeOvertemp s
    t.mon.conditions = (s.withMember codeOvertemp).mon.conditions ∧ Quiet s t ∧ AlarmLaw t
      ∧ ⟨19, .unload, false, true, 0⟩ ∈ t.mon.conditions := by
  intro t
  have fixed : s.newMember codeOvertemp = ⟨19, .unload, false, true, 0⟩ := newMember_of_fixed (by decide) s
  have cls : s.classOf codeOvertemp = .unload := congrArg Member.cls fixed
  have eq : t = handChange .unload (reportDiffers s (s.withMember codeOvertemp)) (s.withMember codeOvertemp) := by
    show reportPresent codeOvertemp s = _
    rw [reportPresent_of_new (code := codeOvertemp) new, joinCondition_of_plain (plain_of_fixed (by decide) (by decide) (by decide) (by decide) s), cls]
    rfl
  have conditions : t.mon.conditions = (s.withMember codeOvertemp).mon.conditions := by rw [eq, handChange_conditions]
  refine ⟨conditions, ?_, ?_, ?_⟩
  · rw [eq]
    exact ((Quiet.refl s).withMember codeOvertemp).handChange _ _
  · rw [eq]
    exact alarmLaw_handChange ..
  · rw [conditions, ← fixed]
    exact newMember_mem s codeOvertemp

/-- The severe code joins, whatever the engine's state (R153). -/
theorem severeMember (new : hasCode s.mon.conditions 20 = false) :
    ⟨20, .shutdown, true, true, 0⟩ ∈ (reportPresent codeOvertempSevere s).mon.conditions := by
  have fixed : s.newMember codeOvertempSevere = ⟨20, .shutdown, true, true, 0⟩ := newMember_of_fixed (by decide) s
  have cls : s.classOf codeOvertempSevere = .shutdown := congrArg Member.cls fixed
  rw [reportPresent_of_new (code := codeOvertempSevere) new, joinCondition_of_plain (shutdown_plain (by decide) rfl s), handChange_conditions, cls, ← fixed]
  exact newMember_frame_stays (by decide) ((Deeds.plain (s.withMember codeOvertempSevere)).hardAppears).plainFrame

end

end Sys2Proof.Machine
end


section
/-! Analog samples fill their windows, and the filtered values act on engine, derate and needs: O57. -/

namespace Sys2Proof.Machine

section
variable {s t u : State} {c : Channel} {raw : Nat}

/-! ### What a chain of deeds leaves of the condition set -/

theorem absent_of_but {codes : List Nat} {code : Nat} (but : ConditionsBut codes s t) (outside : code ∉ codes)
    (absent : hasCode s.mon.conditions code = false) : hasCode t.mon.conditions code = false := by
  rw [hasCode_eq_false_iff] at absent ⊢
  intro m hm same
  exact absent m (but.2 m hm (same ▸ outside)) same

theorem alarm_of_member {m : Member} (law : AlarmLaw s) (member : m ∈ s.mon.conditions) : s.out.alarm = true := by
  have nonempty : s.mon.conditions.isEmpty = false := by
    rw [List.isEmpty_eq_false_iff]
    exact List.ne_nil_of_mem member
  rw [law, nonempty]
  rfl

/-! ### The channels and the sensor-fault code (R145) -/

theorem reportCause_channel (c d : Channel) (present : Bool) (s : State) :
    (reportCause (sensorCode c) present s).mon.channel d = s.mon.channel d := by
  cases present
  · exact ((Quiet.refl s).reportGone _).channel d
  · cases new : hasCode s.mon.conditions (sensorCode c) with
    | false => exact (sensorReported c new).2.2.1 d
    | true =>
      show (reportPresent (sensorCode c) s).mon.channel d = s.mon.channel d
      rw [reportPresent_of_member new]
      cases d <;> rfl

theorem after_analogSample_channel (s : State) (c d : Channel) (raw : Nat) :
    (s.after (.analogSample c raw)).mon.channel d = if d = c then (s.mon.channel c).sample c raw else s.mon.channel d := by
  rw [← sampled_channel]
  by_cases same : ((s.mon.channel c).sample c raw).fault = (s.mon.channel c).fault
  · rw [after_analogSample_same same, (used_channelValue c _).channels]
  · rw [after_analogSample_changed same, (used_channelValue c _).channels, reportCause_channel]

/-- A sample outside the band at a sound channel: the code joins, and the need flag of the channel is cleared (R41, R145). -/
theorem faultJoins (sound : (s.mon.channel c).fault = false) (out : raw < 64 ∨ 960 < raw)
    (new : hasCode s.mon.conditions (sensorCode c) = false) :
    let t := s.after (.analogSample c raw)
    ⟨sensorCode c, .alarm, false, true, 0⟩ ∈ t.mon.conditions ∧ t.out.alarm = true
      ∧ (c = .coolant → t.cab.coldRun = false) ∧ (c = .battery → t.cab.batteryNeed = false) := by
  intro t
  have faulty := sample_out c (s.mon.channel c) out
  have eq : t = channelValue c (reportPresent (sensorCode c) (s.sampled c raw)) := by
    refine (after_analogSample_changed (by rw [faulty, sound]; nofun)).trans ?_
    rw [faulty]
    rfl
  have absent : hasCode (s.sampled c raw).mon.conditions (sensorCode c) = false := by
    cases c <;> exact new
  obtain ⟨member, law, -, cold, battery⟩ := sensorReported c absent
  have used := used_channelValue c (reportPresent (sensorCode c) (s.sampled c raw))
  rw [← eq] at used
  have stays := used.others.1 _ member (by cases c <;> decide)
  exact ⟨stays, alarm_of_member (used.alarm law) stays, fun name => used.coldRun (cold name), fun name => used.batteryNeed (battery name)⟩

/-- A channel that recovers: the code leaves, unless it is latched (R145, R159). -/
theorem faultLeaves (faulty : (s.mon.channel c).fault = true) (sound : ((s.mon.channel c).sample c raw).fault = false)
    (unlatched : ∀ m ∈ s.mon.conditions, m.code = sensorCode c → m.latched = false) :
    hasCode (s.after (.analogSample c raw)).mon.conditions (sensorCode c) = false := by
  rw [after_analogSample_changed (by rw [faulty, sound]; nofun), sound]
  refine absent_of_but (used_channelValue c _).others (by cases c <;> decide) ?_
  show hasCode (reportGone (sensorCode c) (s.sampled c raw)).mon.conditions (sensorCode c) = false
  refine hasCode_reportGone ?_
  cases c <;> exact unlatched

/-! ### The coolant value -/

theorem examineWarm_idle (other : s.seq.state ≠ .warmup) : examineWarm s = s := by
  refine if_neg ?_
  rw [decide_eq_false other]
  nofun

theorem examineWarm_frame (s : State) : TransitionFrame [] s (examineWarm s) ∧ (examineWarm s).mon.coolant = s.mon.coolant :=
  ⟨((Deeds.plain s).examineWarm).plainFrame, (Used.of_deeds (used_start s).examineWarm).channels .coolant⟩

/-- A coolant value below T_TRIP outside WARMUP (R41, R151, R152). -/
theorem coolantNormal (loaded : s.loaded = true) (other : s.seq.state ≠ .warmup) (cool : s.mon.coolant.value < s.params.tTrip)
    (none19 : hasCode s.mon.conditions 19 = false) (none20 : hasCode s.mon.conditions 20 = false) :
    channelValue .coolant s = s.coolantKnown := by
  show overtempTests (computeDerate (coldRunRecovery (examineWarm s))) = _
  rw [examineWarm_idle other, coolantTaken loaded]
  exact overtempTests_cool (s := s.coolantKnown) cool none19 none20

/-- A coolant value below T_TRIP leaves the Sequencer to the warm-up test (R16). -/
theorem coolantWarm (loaded : s.loaded = true) (cool : s.mon.coolant.value < s.params.tTrip)
    (none19 : hasCode s.mon.conditions 19 = false) (none20 : hasCode s.mon.conditions 20 = false) :
    (channelValue .coolant s).seq = (examineWarm s).seq := by
  show (overtempTests (computeDerate (coldRunRecovery (examineWarm s)))).seq = _
  obtain ⟨⟨-, ⟨-, load, params, -⟩, but⟩, coolant⟩ := examineWarm_frame s
  have absent19 := absent_of_but but (by decide) none19
  have absent20 := absent_of_but but (by decide) none20
  generalize examineWarm s = w at *
  rw [coolantTaken (by rw [State.loaded, load]; exact loaded), overtempTests_cool (s := w.coolantKnown) ?_ absent19 absent20]
  · rfl
  · show w.mon.coolant.value < w.params.tTrip
    rw [coolant, params]
    exact cool

/-- The warm-up test of R16 in WARMUP. -/
theorem examineWarm_leads (state : s.seq.state = .warmup) (clear : NoStandingCause s) (stays : s.allocationStop = false) :
    (examineWarm s).seq.state = if s.params.warmMin * 1000 ≤ s.seq.stateTimer
      ∧ ((s.params.tWarm : Int) ≤ s.mon.coolant.value ∨ s.params.warmMax * 1000 ≤ s.seq.stateTimer) then .online else .warmup := by
  by_cases least : s.params.warmMin * 1000 ≤ s.seq.stateTimer
  · rw [examineWarm_of_reached state least]
    by_cases warm : (s.params.tWarm : Int) ≤ s.mon.coolant.value ∨ s.params.warmMax * 1000 ≤ s.seq.stateTimer
    · rw [if_pos warm, if_pos ⟨least, warm⟩, enterOnline_eq clear stays]
      exact (entered_entryBase .online s).1
    · rw [if_neg warm, if_neg fun both => warm both.2]
      exact state
  · rw [if_neg fun both => least both.1, ← state]
    refine congrArg (fun u : State => u.seq.state) (if_neg ?_)
    rw [decide_eq_false least]
    simp

theorem stoppingLeads_congr {latched : Bool} (speed : t.mon.speed = s.mon.speed) (isolate : t.cab.isolate = s.cab.isolate) :
    stoppingLeads latched t = stoppingLeads latched s := by
  rw [stoppingLeads, stoppingLeads, speed, isolate]

/-- The chains of deeds of the severe overtemperature test. -/
abbrev severeScope : Scope := ⟨[20], true, []⟩

/-- A coolant value from T_TRIP on: OVERTEMP joins, and from T_TRIP + 5 on the severe code, which stops the engine (R153). -/
theorem coolantHot (loaded : s.loaded = true) (hot : (s.params.tTrip : Int) ≤ s.mon.coolant.value)
    (none19 : hasCode s.mon.conditions 19 = false) :
    let t := channelValue .coolant s
    ⟨19, .unload, false, true, 0⟩ ∈ t.mon.conditions ∧ t.out.alarm = true
      ∧ ((s.params.tTrip : Int) + 5 ≤ s.mon.coolant.value → hasCode s.mon.conditions 20 = false →
          ⟨20, .shutdown, true, true, 0⟩ ∈ t.mon.conditions
            ∧ (s.seq.state ∈ [.online, .unloading, .cooldown] → t.seq.state = stoppingLeads true s)) := by
  intro t
  obtain ⟨⟨cab, ⟨-, load, params, -⟩, but⟩, coolant⟩ := examineWarm_frame s
  have idle := examineWarm_idle (s := s)
  have shape : t = overtempTests (computeDerate (coldRunRecovery (examineWarm s))) := rfl
  generalize examineWarm s = w at *
  have loaded' : w.loaded = true := by rw [State.loaded, load]; exact loaded
  rw [coolantTaken loaded'] at shape
  generalize taken : w.coolantKnown = u at shape
  have value : u.mon.coolant.value = s.mon.coolant.value := by rw [← taken, ← coolant]; rfl
  have trip : u.params.tTrip = s.params.tTrip := by rw [← taken, ← params]; rfl
  have conditions : u.mon.conditions = w.mon.conditions := by rw [← taken]; rfl
  have absent {code : Nat} (outside : code ∉ entryCodes) (h : hasCode s.mon.conditions code = false) :
      hasCode u.mon.conditions code = false := by
    rw [conditions]
    exact absent_of_but but outside h
  rw [overtempTests_hot (by rw [← taken]; exact loaded') (by rw [value, trip]; exact hot), value, trip] at shape
  obtain ⟨joined, quiet, law, member⟩ := overtempJoins (absent (by decide) none19)
  generalize reportPresent codeOvertemp u = v at *
  have deeds : Deeds severeScope v t := by
    rw [shape]
    exact (Deeds.refl (r := severeScope) v (.inl rfl)).reportCause (code := codeOvertempSevere)
      (covers_of_mem (List.mem_append_left _ (List.mem_singleton_self 20)) (by decide)) (by decide) _
  have stays := (deeds.conditionsBut nofun).1 _ member (by decide)
  refine ⟨stays, alarm_of_member (law.deeds deeds ⟨nofun, nofun⟩) stays, fun severe none20 => ?_⟩
  rw [decide_eq_true severe] at shape
  have new : hasCode v.mon.conditions 20 = false := by
    rw [joined]
    exact absent_of_but (conditionsBut_withMember (codes := [codeOvertemp]) (List.mem_singleton_self _) u) (by decide) (absent (by decide) none20)
  refine ⟨by rw [shape]; exact severeMember new, fun running => ?_⟩
  have other : s.seq.state ≠ .warmup ∧ s.seq.state.active = true := by
    simp only [List.mem_cons, List.not_mem_nil, or_false] at running
    obtain e | e | e := running <;> rw [e] <;> exact ⟨nofun, rfl⟩
  have seq : v.seq = s.seq := by rw [quiet.seq, ← taken, ← idle other.1]; rfl
  have stops := shutsDown_reportPresent (s := v) (code := codeOvertempSevere) (by decide) rfl rfl rfl new (by rw [seq]; exact other.2)
  rw [shape]
  refine stops.stopped.1.1.trans (stoppingLeads_congr ?_ ?_)
  · rw [quiet.mon, ← taken, ← idle other.1]
    rfl
  · rw [quiet.cab, ← taken, ← cab]
    rfl

/-! ### The oil value -/

/-- Low oil in RUN stops a running engine (R150). -/
theorem oilLow (run : s.mon.runPhase = .run) (running : s.seq.state ∈ [.runup, .warmup, .online, .unloading, .cooldown])
    (low : s.mon.oil.value < s.params.oilMinRun) : channelValue .oil s = reportPresent codeLowOil s := by
  show lowOilTest (prelubePressure s) = _
  have other : s.seq.state ≠ .prelube := by
    intro state
    rw [state] at running
    exact absurd running (by decide)
  rw [prelubePressure_idle (s := s) fun state => absurd state other, lowOilTest_low run low]

end

/-- Settles O57: the window of the sampled channel, its sensor fault, then the users of each channel's value. -/
theorem analogSamplesFillTheirWindows : Obligations.AnalogSamplesFillTheirWindows := by
  intro s c raw
  refine ⟨_, exec_eq_after _ _, ?_⟩
  have sampled : (s.after (.analogSample c raw)).mon.channel c = (s.mon.channel c).sample c raw := by
    rw [after_analogSample_channel, if_pos rfl]
  have others (d : Channel) (other : d ≠ c) : (s.after (.analogSample c raw)).mon.channel d = s.mon.channel d := by
    rw [after_analogSample_channel, if_neg other]
  rw [sampled]
  refine ⟨channelSampled_sample c raw _, others, ?_⟩
  intro r v code
  have name : code = sensorCode c := by cases c <;> rfl
  rw [name]
  refine ⟨faultJoins, fun faulty sound => faultLeaves faulty sound, fun same => ?_⟩
  have eq : s.after (.analogSample c raw) = channelValue c r := after_analogSample_same same
  rw [eq]
  refine ⟨?_, ?_, ?_, ?_, ?_, ?_, ?_, ?_⟩
  · rintro rfl
    have need : r.batteryNeedLeft = (s.cab.batteryNeed && !(!s.mon.battery.fault && decide ((s.params.vOk : Int) ≤ v))) := by
      have fault : r.mon.battery.fault = s.mon.battery.fault := same
      rw [State.batteryNeedLeft, fault]
      rfl
    have known : channelValue .battery r = _ := batteryRecovery_eq r
    rw [withMarkIf_link_congr (s := s) (t := r) _ rfl] at known
    rw [← need, known]
  · rintro rfl other still
    show lowOilTest (prelubePressure r) = r
    rw [prelubePressure_idle (s := r) fun state => absurd state other]
    exact lowOilTest_idle still
  · rintro rfl run other none21 enough
    show lowOilTest (prelubePressure r) = r
    rw [prelubePressure_idle (s := r) fun state => absurd state other]
    exact lowOilTest_enough run enough none21
  · rintro rfl run running none21 low
    have low' := oilLow (s := r) run running low
    rw [low']
    exact lowOil_stops (s := r) none21 running
  · rintro rfl state still
    refine ⟨fun low => ?_, fun reached clear idle => ?_⟩
    · show lowOilTest (prelubePressure r) = r
      rw [prelubePressure_idle (s := r) fun _ => low]
      exact lowOilTest_idle still
    · obtain ⟨ends, frame⟩ := pressureReached (s := r) state reached clear idle
      have waits := waits_enterClaimWait (s := r) clear idle
      rw [ends]
      exact ⟨waits.entered, frame, waits.records, congrArg ClaimUnit.attempt waits.claim⟩
  · rintro rfl loaded other cool none19 none20
    have known := coolantNormal (s := r) loaded other cool none19 none20
    have cold : r.coldRunLeft = (s.cab.coldRun && !(!s.mon.coolant.fault && decide ((s.params.tWarmStop : Int) ≤ v))) := by
      have fault : r.mon.coolant.fault = s.mon.coolant.fault := same
      rw [State.coldRunLeft, fault]
      rfl
    rw [State.coolantKnown, withMarkIf_link_congr (s := s) (t := r) _ rfl, withTriggerIf_alloc_congr (s := s) (t := r) _ rfl] at known
    rw [← cold, known]
    exact ⟨rfl, rfl, rfl⟩
  · rintro rfl loaded hot none19
    exact coolantHot (s := r) loaded hot none19
  · rintro rfl state loaded cool none19 none20 clear stays
    exact (congrArg Sequencer.state (coolantWarm (s := r) loaded cool none19 none20)).trans
      (examineWarm_leads (s := r) state clear stays)

end Sys2Proof.Machine
end


section
/-! The running time of a speed value (R181) and the HOURS_WRITE that an hour asks for (R136, R180): O58. -/

namespace Sys2Proof.Machine

section
variable {s t u : State} {r : Scope}

/-! ### HOURS_WRITE is pending or on the way (R136) -/

/-- A HOURS_WRITE is pending or in flight. -/
def HoursAsked (s : State) : Prop := s.port.pendHoursWrite = true ∨ s.port.inFlight = some .hoursWrite

theorem HoursAsked.of_port (h : HoursAsked s) (port : t.port = s.port) : HoursAsked t := by
  rw [HoursAsked, port]
  exact h

theorem HoursAsked.portGrant (h : HoursAsked s) : HoursAsked (Machine.portGrant s) := by
  unfold Machine.portGrant
  dsimp only
  split
  · exact h
  · next free =>
    have pending : s.port.pendHoursWrite = true := h.resolve_right fun flies => free (by rw [flies]; rfl)
    split
    · exact .inl pending
    split
    · exact .inl pending
    · exact .inr rfl

theorem HoursAsked.portMark (h : HoursAsked s) (k : PortKind) : HoursAsked (Machine.portMark k s) := by
  have marked : HoursAsked (s.setPort (s.port.withMark k)) := by
    cases k
    case hoursWrite => exact .inl rfl
    all_goals exact h
  exact marked.portGrant

theorem hoursAsked_portMark (s : State) : HoursAsked (portMark .hoursWrite s) := by
  have marked : HoursAsked (s.setPort (s.port.withMark .hoursWrite)) := .inl rfl
  exact marked.portGrant

theorem HoursAsked.deriveSetpoint (h : HoursAsked s) : HoursAsked (Machine.deriveSetpoint s) := by
  unfold Machine.deriveSetpoint
  dsimp only
  split
  · exact h
  · split
    · have held : HoursAsked (s.setStepper { s.stepper with setpoint := setpointOf s.params s.stepper.notch s.seq.state }) := h
      exact held.portMark _
    · exact h

theorem HoursAsked.setNotch (h : HoursAsked s) (n : Nat) : HoursAsked (Machine.setNotch n s) := by
  unfold Machine.setNotch
  split
  · exact h
  · have derived : HoursAsked (Machine.deriveSetpoint (s.setStepper { s.stepper with notch := n })) :=
      HoursAsked.deriveSetpoint h
    exact derived.of_port (Quiet.markStatus_self _).port

theorem HoursAsked.stepNotch (h : HoursAsked s) (n : Nat) : HoursAsked (Machine.stepNotch n s) :=
  HoursAsked.setNotch (s := s.setStepper { s.stepper with dwell := .restarted }) h n

theorem HoursAsked.examineStep (h : HoursAsked s) : HoursAsked (Machine.examineStep s) := by
  unfold Machine.examineStep
  repeat' split
  any_goals exact h.stepNotch _
  all_goals exact h

theorem HoursAsked.stepperEntry (h : HoursAsked s) (st : EngineState) : HoursAsked (Machine.stepperEntry st s) := by
  unfold Machine.stepperEntry
  dsimp only
  have timed : HoursAsked (s.setStepper { s.stepper with dwell := if st.steps then Dwell.restarted else Dwell.halted }) := h
  refine HoursAsked.examineStep (HoursAsked.deriveSetpoint ?_)
  split
  · exact timed.setNotch 0
  · exact timed

/-- The Sequencer and the Stepper never take a HOURS_WRITE back. -/
theorem HoursAsked.deeds (h : HoursAsked s) (d : Deeds r s t) (parts : Part.port ∉ r.parts) : HoursAsked t := by
  induction d with
  | refl => exact h
  | @entered s t d st _ _ ih =>
    obtain ⟨-, -, -, -, -, port, -⟩ := entryTold_keeps st t
    exact ((ih h).of_port port).stepperEntry st
  | @mark s t d ih => exact (ih h).of_port (Quiet.markStatus_self t).port
  | @trigger s t d ih => exact (ih h).of_port (Quiet.passTrigger_self t).port
  | step d n ih => exact (ih h).stepNotch n
  | hoursWrite d ih => exact (ih h).portMark .hoursWrite
  | @commands s t d c ih =>
    obtain ⟨-, -, -, -, port, -⟩ := commandSet_frame c t
    exact (ih h).of_port port
  | @derate s t d ih => exact (ih h).of_port (Quiet.refl t).computeDerate.port
  | @join s t u d code mem isCode new k ih ihk =>
    have reacted : HoursAsked u := ihk ((ih h).of_port (((Quiet.refl t).withMember code).handDerate code (t.classOf code)).port)
    obtain ⟨-, -, port, -⟩ := handedOn_keeps code (t.classOf code) (reportDiffers t (t.withMember code)) u
    exact reacted.of_port port
  | @leave s t d m _ _ ih => exact (ih h).of_port ((Quiet.refl t).leaveCondition m).port
  | @other s t u d o state ih =>
    have port := o .port parts
    have same : (u.port.pendHoursWrite, u.port.inFlight) = (t.port.pendHoursWrite, t.port.inFlight) :=
      congrArg (fun p : Part.port.Value => (p.2.2.1, p.2.2.2.2.2.1)) port
    rw [HoursAsked, (Prod.mk.inj same).1, (Prod.mk.inj same).2]
    exact ih h
  | records d _ _ _ _ _ ih | slot d _ ih | own d _ _ _ ih | store d _ _ ih | phases d _ _ _ ih | input d _ _ ih | cause d _ _ ih
  | cleared d _ _ _ ih | dwell d _ ih => exact ih h

/-! ### The running time (R181) -/

/-- A speed value counts for the running time. -/
def State.runningCounts (s : State) : Prop := s.loaded = true ∧ s.params.fireSpeed ≤ s.mon.speed

/-- The Loader and the Retained Store after a speed value, by what the windows, the minutes and the hours allow (R181). -/
structure TimeCounted (s t : State) : Prop where
  stands : ¬ s.runningCounts → t.load = s.load ∧ t.ret.minutes = s.ret.minutes ∧ t.ret.shadow = s.ret.shadow
  window : s.runningCounts → s.load.runningWindows + 1 < 600 →
    t.load = { s.load with runningWindows := s.load.runningWindows + 1 } ∧ t.ret.minutes = s.ret.minutes
      ∧ t.ret.shadow = s.ret.shadow
  minute : s.runningCounts → 600 ≤ s.load.runningWindows + 1 → s.ret.minutes + 1 < 60 →
    t.load = { s.load with runningWindows := 0 } ∧ t.ret.minutes = s.ret.minutes + 1 ∧ t.ret.shadow = s.ret.shadow
  hour : s.runningCounts → 600 ≤ s.load.runningWindows + 1 → 60 ≤ s.ret.minutes + 1 →
    t.ret.minutes = 0
      ∧ (s.load.hours < 999999 →
          t.load = { s.load with runningWindows := 0, hours := s.load.hours + 1 } ∧ t.ret.shadow = s.load.hours + 1
            ∧ (s.load.markerFault = false → HoursAsked t))
      ∧ (999999 ≤ s.load.hours → t.load = { s.load with runningWindows := 0 } ∧ t.ret.shadow = s.ret.shadow)

/-- What the running time leaves alone. -/
structure Timed (s t : State) : Prop where
  eq : t = { s with load := t.load, ret := t.ret, port := t.port }
  kept : t.ret = { s.ret with minutes := t.ret.minutes, shadow := t.ret.shadow }

theorem timed_portMark {k : PortKind} (h : Timed s t) : Timed s (portMark k t) := by
  obtain ⟨eq, -⟩ := portGrant_setPort t (t.port.withMark k)
  have marked : portMark k t = portGrant (t.setPort (t.port.withMark k)) := rfl
  rw [marked]
  generalize portGrant (t.setPort (t.port.withMark k)) = v at eq ⊢
  obtain ⟨eq', kept⟩ := h
  have ret : v.ret = t.ret := (congrArg State.ret eq :)
  refine ⟨?_, by rw [ret]; exact kept⟩
  rw [eq, eq']
  rfl

theorem timed_runningTime (s : State) : Timed s (runningTime s) := by
  unfold runningTime countWindow hourPasses
  dsimp only
  split
  · split
    · exact ⟨rfl, rfl⟩
    · split
      · exact ⟨rfl, rfl⟩
      · split
        · split
          · exact ⟨rfl, rfl⟩
          · exact timed_portMark ⟨rfl, rfl⟩
        · exact ⟨rfl, rfl⟩
  · exact ⟨rfl, rfl⟩

theorem portMark_kept (k : PortKind) (s : State) : (portMark k s).load = s.load ∧ (portMark k s).ret = s.ret :=
  have stepped := (Stepped.refl s).portMark k
  ⟨stepped.load, stepped.ret⟩

theorem timeCounted_runningTime (s : State) : TimeCounted s (runningTime s) := by
  have running (counts : s.runningCounts) : runningTime s = countWindow s := by
    obtain ⟨loaded, fires⟩ := counts
    exact if_pos (by rw [loaded, decide_eq_true fires]; rfl)
  refine ⟨fun idle => ?_, fun counts fewer => ?_, fun counts full fewer => ?_, fun counts full minutes => ?_⟩
  · have eq : runningTime s = s := if_neg (by rw [Bool.and_eq_true, decide_eq_true_eq]; exact idle)
    rw [eq]
    exact ⟨rfl, rfl, rfl⟩
  · have eq : countWindow s = _ := if_pos fewer
    rw [running counts, eq]
    exact ⟨rfl, rfl, rfl⟩
  · have eq : countWindow s = _ := (if_neg (Nat.not_lt.2 full)).trans (if_pos fewer)
    rw [running counts, eq]
    exact ⟨rfl, rfl, rfl⟩
  · have eq : countWindow s = hourPasses (s.setLoad { s.load with runningWindows := 0 }) :=
      (if_neg (Nat.not_lt.2 full)).trans (if_neg (Nat.not_lt.2 minutes))
    rw [running counts, eq]
    unfold hourPasses
    dsimp only
    by_cases fewer : s.load.hours < 999999
    · rw [if_pos (c := (s.setLoad { s.load with runningWindows := 0 }).load.hours < Config.maxHours) fewer]
      split
      · next faulty => exact ⟨rfl, fun _ => ⟨rfl, rfl, fun sound => absurd faulty (by rw [show _ = false from sound]; nofun)⟩,
          fun more => absurd fewer (Nat.not_lt.2 more)⟩
      · rw [(portMark_kept _ _).1, (portMark_kept _ _).2]
        exact ⟨rfl, fun _ => ⟨rfl, rfl, fun _ => hoursAsked_portMark _⟩, fun more => absurd fewer (Nat.not_lt.2 more)⟩
    · rw [if_neg (c := (s.setLoad { s.load with runningWindows := 0 }).load.hours < Config.maxHours) fewer]
      exact ⟨rfl, fun less => absurd less fewer, fun _ => ⟨rfl, rfl⟩⟩

end

end Sys2Proof.Machine
end


section
/-! Inputs that become unmasked (R155): which stability timers start, by one pass over the twelve inputs: O33, O58. -/

namespace Sys2Proof.Machine

section
variable {s t u : State}

/-- Input Dk becomes unmasked with the inputs of its start mask. -/
def State.unmasks (s : State) (startMask : Bool) (k : Fin 12) : Bool :=
  s.mon.routing[k].enable && s.mon.routing[k].startMask == startMask

/-- Input Dk with its stability timer started. -/
def State.inputStarted (s : State) (k : Fin 12) : ProtectiveInput :=
  { s.mon.inputs[k] with stability := s.mon.routing[k].stabilityTimer }

/-- Of the inputs in `l` those with the start mask are unmasked, and nothing but inputs differs. -/
structure UnmaskedIn (l : List (Fin 12)) (startMask : Bool) (s t : State) : Prop where
  eq : t = { s with mon := { s.mon with inputs := t.mon.inputs } }
  inputs : ∀ k : Fin 12, t.mon.inputs[k] = if k ∈ l ∧ s.unmasks startMask k = true then s.inputStarted k else s.mon.inputs[k]

theorem unmaskInput_input (j k : Fin 12) (s : State) :
    (unmaskInput j s).mon.inputs[k] = if k = j then s.inputStarted k else s.mon.inputs[k] := by
  show (s.mon.inputs.set j (s.inputStarted j))[k] = _
  by_cases same : k = j
  · subst same
    rw [if_pos rfl]
    exact Vector.getElem_set_self _
  · rw [if_neg same]
    exact Vector.getElem_set_ne _ _ fun h => same (Fin.ext h.symm)

theorem UnmaskedIn.step {l : List (Fin 12)} {b : Bool} (j : Fin 12) (h : UnmaskedIn l b s t) :
    UnmaskedIn (j :: l) b s (if t.mon.routing[j].enable && t.mon.routing[j].startMask == b then unmaskInput j t else t) := by
  obtain ⟨eq, inputs⟩ := h
  have routing : t.mon.routing = s.mon.routing := by rw [eq]
  have same : (t.mon.routing[j].enable && t.mon.routing[j].startMask == b) = s.unmasks b j := by rw [routing]; rfl
  rw [same]
  by_cases unmasks : s.unmasks b j = true
  · rw [if_pos unmasks]
    refine ⟨?_, fun k => ?_⟩
    · have mon : (unmaskInput j t).mon = { s.mon with inputs := (unmaskInput j t).mon.inputs } := by
        show ({ t.mon with inputs := (unmaskInput j t).mon.inputs } : Monitor) = _
        rw [eq]
      rw [← mon]
      show t.setMon (unmaskInput j t).mon = _
      rw [eq]
      rfl
    · rw [unmaskInput_input]
      by_cases here : k = j
      · subst here
        rw [if_pos rfl, if_pos ⟨List.mem_cons_self, unmasks⟩, State.inputStarted, inputs k, routing]
        by_cases before : k ∈ l ∧ s.unmasks b k = true
        · rw [if_pos before]
          rfl
        · rw [if_neg before]
          rfl
      · rw [if_neg here, inputs k]
        simp only [List.mem_cons, here, false_or]
  · rw [if_neg unmasks]
    refine ⟨eq, fun k => ?_⟩
    rw [inputs k]
    by_cases here : k = j
    · subst here
      rw [if_neg fun both => unmasks both.2, if_neg fun both => unmasks both.2]
    · simp only [List.mem_cons, here, false_or]

theorem unmaskedIn_foldl (b : Bool) (done l : List (Fin 12)) (h : UnmaskedIn done b s t) :
    UnmaskedIn (l.reverse ++ done) b s
      (l.foldl (fun t k => if t.mon.routing[k].enable && t.mon.routing[k].startMask == b then unmaskInput k t else t) t) := by
  induction l generalizing done t with
  | nil => exact h
  | cons j l ih =>
    have rest := ih _ (h.step j)
    rw [List.reverse_cons, List.append_assoc]
    exact rest

theorem unmaskedIn_unmaskInputs (b : Bool) (s : State) : UnmaskedIn (List.finRange 12).reverse b s (unmaskInputs b s) := by
  have start : UnmaskedIn [] b s s := ⟨rfl, fun k => (if_neg (by simp)).symm⟩
  have done := unmaskedIn_foldl b [] (List.finRange 12) start
  rw [List.append_nil] at done
  exact done

/-- The inputs that become unmasked start their timers (R155). -/
theorem unmaskInputs_eq (b : Bool) (s : State) :
    unmaskInputs b s = { s with mon := { s.mon with inputs := (unmaskInputs b s).mon.inputs } } := (unmaskedIn_unmaskInputs b s).eq

theorem unmaskInputs_input (b : Bool) (s : State) (k : Fin 12) :
    (unmaskInputs b s).mon.inputs[k] = if s.unmasks b k = true then s.inputStarted k else s.mon.inputs[k] := by
  have all := (unmaskedIn_unmaskInputs b s).inputs k
  simpa only [List.mem_reverse, List.mem_finRange, true_and] using all

end

end Sys2Proof.Machine
end


section
/-! A speed value at the protection and at the Sequencer (R15, R23, R26, R146 to R149): O58. -/

namespace Sys2Proof.Machine

section
variable {s t u v : State} {pulses : Nat} {left : EngineState} {latched : Bool}

/-! ### The tests of a speed value (R26, R148, R149) -/

/-- The stall timer after a speed value (R149). -/
def State.stallTimer (s : State) : Timer :=
  if s.params.idleSpeed / 2 ≤ s.mon.speed then .stopped
  else if s.seq.state ∈ [.online, .unloading, .cooldown] ∧ s.mon.stall = .stopped then .running 2000
  else s.mon.stall

theorem stalls_iff (st : EngineState) : st.stalls = true ↔ st ∈ [EngineState.online, .unloading, .cooldown] := by
  cases st <;> decide

theorem stallTest_eq (s : State) : stallTest s = s.setMon { s.mon with stall := s.stallTimer } := by
  unfold stallTest State.stallTimer
  by_cases turning : s.params.idleSpeed / 2 ≤ s.mon.speed
  · rw [if_pos turning, if_pos turning]
  · rw [if_neg turning, if_neg turning]
    have same : (s.seq.state.stalls && s.mon.stall == .stopped) = true
        ↔ s.seq.state ∈ [.online, .unloading, .cooldown] ∧ s.mon.stall = .stopped := by
      rw [Bool.and_eq_true, stalls_iff, beq_iff_eq]
    by_cases starts : s.seq.state ∈ [.online, .unloading, .cooldown] ∧ s.mon.stall = .stopped
    · rw [if_pos starts, if_pos (same.2 starts)]
      rfl
    · rw [if_neg starts, if_neg fun h => starts (same.1 h)]
      rfl

theorem overspeedTest_slow (slow : s.loaded = true → s.mon.speed < s.params.overspeed) (absent : hasCode s.mon.conditions 22 = false) :
    overspeedTest s = s := by
  unfold overspeedTest
  split
  · next loaded =>
    rw [decide_eq_false (Nat.not_le.2 (slow loaded))]
    exact reportGone_of_absent absent
  · rfl

theorem overspeedTest_fast (loaded : s.loaded = true) (fast : s.params.overspeed ≤ s.mon.speed) :
    overspeedTest s = reportPresent codeOverspeed s := by
  unfold overspeedTest
  rw [if_pos loaded, decide_eq_true fast]
  rfl

theorem failToStopCause_idle (absent : hasCode s.mon.conditions 26 = false) : failToStopCause s = s :=
  if_neg (by rw [show hasCode s.mon.conditions codeFailToStop = false from absent]; nofun)

/-- A speed value below OVERSPEED, with neither code in the set. -/
structure State.Calmly (s : State) (pulses : Nat) : Prop where
  slow : s.loaded = true → speedOf s.params.teeth pulses < s.params.overspeed
  absent22 : hasCode s.mon.conditions 22 = false
  absent26 : hasCode s.mon.conditions 26 = false

theorem tested_of_calmly (calmly : s.Calmly pulses) :
    s.tested pulses = (s.measured pulses).setMon { (s.measured pulses).mon with stall := (s.measured pulses).stallTimer } := by
  obtain ⟨slow, absent22, absent26⟩ := calmly
  unfold State.tested
  rw [overspeedTest_slow (s := s.measured pulses) slow absent22, stallTest_eq]
  exact failToStopCause_idle absent26

/-- What the Sequencer finds after a calm speed value. -/
structure Presented (s t : State) : Prop where
  seq : t.seq = s.seq
  cab : t.cab = s.cab
  link : t.link = s.link
  alloc : t.alloc = s.alloc
  claim : t.claim = s.claim
  stepper : t.stepper = s.stepper
  out : t.out = s.out
  params : t.params = s.params
  latch : t.ret.fuelLatch = s.ret.fuelLatch
  conditions : t.mon.conditions = s.mon.conditions
  speed : t.mon.speed = s.mon.speed

theorem Timed.presented (h : Timed s t) : Presented s t := by
  obtain ⟨eq, kept⟩ := h
  refine ⟨?_, ?_, ?_, ?_, ?_, ?_, ?_, ?_, by rw [kept], ?_, ?_⟩
  all_goals rw [eq]

theorem presented_of_calmly (calmly : s.Calmly pulses) : Presented (s.measured pulses) (runningTime (s.tested pulses)) := by
  have presented := (timed_runningTime (s.tested pulses)).presented
  have tested := tested_of_calmly calmly
  generalize runningTime (s.tested pulses) = y at presented ⊢
  rw [tested] at presented
  exact { presented with }

/-! ### The running time within the whole event (R181) -/

theorem TimeCounted.back (h : TimeCounted t u) (counts : t.runningCounts ↔ s.runningCounts) (load : t.load = s.load)
    (minutes : t.ret.minutes = s.ret.minutes) (shadow : t.ret.shadow = s.ret.shadow) : TimeCounted s u := by
  obtain ⟨stands, window, minute, hour⟩ := h
  rw [load, minutes, shadow, counts] at stands window
  rw [load, minutes, counts, shadow] at minute
  rw [load, minutes, counts, shadow] at hour
  exact ⟨stands, window, minute, hour⟩

theorem TimeCounted.onward (h : TimeCounted s t) (load : u.load = t.load) (minutes : u.ret.minutes = t.ret.minutes)
    (shadow : u.ret.shadow = t.ret.shadow) (asked : HoursAsked t → HoursAsked u) : TimeCounted s u := by
  obtain ⟨stands, window, minute, hour⟩ := h
  refine ⟨fun idle => ?_, fun counts fewer => ?_, fun counts full fewer => ?_, fun counts full minutes' => ?_⟩
  · rw [load, minutes, shadow]
    exact stands idle
  · rw [load, minutes, shadow]
    exact window counts fewer
  · rw [load, minutes, shadow]
    exact minute counts full fewer
  · obtain ⟨zero, below, atEnd⟩ := hour counts full minutes'
    rw [load, minutes, shadow]
    refine ⟨zero, fun fewer => ?_, atEnd⟩
    obtain ⟨counted, shadowed, marks⟩ := below fewer
    exact ⟨counted, shadowed, fun sound => asked (marks sound)⟩

/-- The running time of a speed value (R181). -/
theorem timeCounted_speedValue (s : State) (pulses : Nat) : TimeCounted (s.measured pulses) (s.after (.speedValue pulses)) := by
  obtain ⟨-, ⟨-, load, params, -, -, -, -, -, -, mon, -, ret⟩, -⟩ := (deeds_tested s pulses).frame (List.nil_subset _) (by
    unfold Scope.clears Scope.codes
    decide)
  have sequenced := deeds_sequencerSpeed (runningTime (s.tested pulses))
  obtain ⟨-, ⟨-, load', -, -, -, -, -, -, -, -, -, ret'⟩, -⟩ := sequenced.frame (by simp) (by
    unfold Scope.clears Scope.codes
    decide)
  have counted : TimeCounted (s.measured pulses) (runningTime (s.tested pulses)) := by
    refine (timeCounted_runningTime (s.tested pulses)).back ?_ load (by rw [ret]) (by rw [ret])
    rw [State.runningCounts, State.runningCounts, State.loaded, State.loaded, load, params, mon]
  exact counted.onward load' (by rw [after_speedValue, ret']) (by rw [after_speedValue, ret']) fun asked =>
    asked.deeds sequenced (by simp)

/-! ### The Sequencer at a speed value (R15, R23) -/

/-- The states in which a speed value means nothing to the Sequencer. -/
theorem sequencerSpeed_idle (idle : s.seq.state ∈ [.isolated, .stopped, .prelube, .claimWait, .claimSettle, .warmup, .online,
    .unloading, .cooldown, .faulted]) : sequencerSpeed s = s := by
  unfold sequencerSpeed
  cases state : s.seq.state <;> rw [state] at idle
  case init | cranking | runup | stopping => exact absurd idle (by decide)

/-- RUNUP ends in WARMUP at 90 % of idle, without a standing cause (R15). -/
theorem enterWarmup_eq (clear : NoStandingCause s) (warms : s.params.warmMin ≠ 0) : enterWarmup s = entryBase .warmup s := by
  have calm := (Calm.refl s).entryBase .warmup
  have clear' := calm.noStandingCause clear
  have params := (((Deeds.plain s).entryBase rfl .warmup).plainFrame).2.1.2.2.1
  have seq := entryBase_seq .warmup s
  unfold enterWarmup
  dsimp only
  generalize entryBase .warmup s = v at *
  obtain ⟨-, isolate, classes⟩ := clear'
  have stop : hasClass v.mon.conditions .stop = false := (hasClass_eq_false_iff _ _).2 fun m hm => (classes m hm).2.1
  rw [hardCause_of_clear (calm.noStandingCause clear), if_neg nofun, coolOrElse, State.isolateActive, isolate, if_neg nofun, stop,
    if_neg nofun]
  refine if_neg ?_
  rw [seq, params]
  have later : ¬ s.params.warmMin * 1000 ≤ 0 := by omega
  simp [later]

/-- A speed below 30 rpm ends STOPPING (R23). -/
theorem stoppingExit_leads (slow : s.mon.speed < 30) : (stoppingExit s).seq.state
    = if s.stopLatched then .faulted else if s.cab.isolate.qualified then .isolated else .stopped := by
  have exits : stoppingExit s = if s.stopLatched then enterFaulted s else enterStopped s := if_pos slow
  rw [exits]
  split
  · rw [enterFaulted_seq]
  · rw [enterStopped_seq]
    rfl

theorem stoppingExit_idle (turns : 30 ≤ s.mon.speed) : stoppingExit s = s := if_neg (Nat.not_lt.2 turns)

/-! ### OVERSPEED (R148) -/

/-- A stop stands under what comes after it, when the blocks that it names stand. -/
theorem Stopped.presented (h : Stopped left latched s t) (shown : Presented t u) (record : u.ret.record = t.ret.record)
    (wasRunning : u.ret.wasRunning = t.ret.wasRunning) : Stopped left latched s u := by
  obtain ⟨seq, -, link, alloc, -, stepper, out, -, latch, conditions, -⟩ := shown
  have commands : u.standingCommands = t.standingCommands := by rw [State.standingCommands, State.standingCommands, latch, out]
  rw [Stopped, Entered, seq, commands, link, alloc, stepper, record, wasRunning, conditions]
  exact h

/-- Where the stop has led, the Sequencer has nothing more to do at this speed (R23). -/
theorem sequencerSpeed_stopped (led : t.seq.state = stoppingLeads true s) (speed : t.mon.speed = s.mon.speed) : sequencerSpeed t = t := by
  by_cases slow : s.mon.speed < Config.stoppedRpm
  · have state : t.seq.state = .faulted := led.trans (if_pos slow)
    exact sequencerSpeed_idle (by rw [state]; decide)
  · have state : t.seq.state = .stopping := led.trans (if_neg slow)
    unfold sequencerSpeed
    rw [state]
    exact stoppingExit_idle (by rw [speed]; exact Nat.not_lt.1 slow)

theorem overspeedStops (loaded : s.loaded = true) (fast : s.params.overspeed ≤ speedOf s.params.teeth pulses)
    (absent22 : hasCode s.mon.conditions 22 = false) (absent26 : hasCode s.mon.conditions 26 = false)
    (active : s.seq.state.active = true) :
    let t := s.after (.speedValue pulses)
    Stopped s.seq.state true (s.measured pulses) t ∧ ⟨22, .shutdown, true, true, 0⟩ ∈ t.mon.conditions ∧ t.out.alarm = true := by
  intro t
  have shape : t = sequencerSpeed (runningTime (failToStopCause (stallTest (reportPresent codeOverspeed (s.measured pulses))))) := by
    rw [← overspeedTest_fast (s := s.measured pulses) loaded fast]
    rfl
  have stops := shutsDown_reportPresent (s := s.measured pulses) (code := codeOverspeed) (by decide) rfl rfl rfl absent22 active
  obtain ⟨member, alarm⟩ := stops.member (by decide)
  rw [newMember_of_fixed (by decide)] at member
  have stopped := stops.stopped
  have speed : (reportPresent codeOverspeed (s.measured pulses)).mon.speed = (s.measured pulses).mon.speed := by
    obtain ⟨-, ⟨-, -, -, -, -, -, -, -, -, mon, -⟩, -⟩ := stops.frame
    rw [mon]
  have still : hasCode (reportPresent codeOverspeed (s.measured pulses)).mon.conditions 26 = false :=
    absent_of_but stops.frame.2.2 (by decide) absent26
  generalize reportPresent codeOverspeed (s.measured pulses) = w at *
  rw [stallTest_eq, failToStopCause_idle (s := w.setMon { w.mon with stall := w.stallTimer }) still] at shape
  have timed := timed_runningTime (w.setMon { w.mon with stall := w.stallTimer })
  generalize runningTime (w.setMon { w.mon with stall := w.stallTimer }) = y at timed shape
  have shown : Presented w y := { timed.presented with }
  have record : y.ret.record = w.ret.record ∧ y.ret.wasRunning = w.ret.wasRunning := by
    rw [timed.kept]
    exact ⟨rfl, rfl⟩
  have ends : Stopped s.seq.state true (s.measured pulses) y := Stopped.presented stopped shown record.1 record.2
  rw [sequencerSpeed_stopped ends.1.1 (shown.speed.trans speed)] at shape
  rw [shape, shown.conditions, shown.out]
  exact ⟨ends, member, alarm⟩

/-! ### FAIL_TO_STOP in FAULTED (R26, R164) -/

/-- While FAIL_TO_STOP is in the set its cause follows the speed. -/
theorem failToStop_cause (latched : ∀ m ∈ s.mon.conditions, m.code = 26 → m.latched = true) :
    ∀ m ∈ (failToStopCause s).mon.conditions, m.code = 26 → m.cause = decide (30 ≤ s.mon.speed) := by
  have caused (b : Bool) : ∀ m ∈ setCause 26 b s.mon.conditions, m.code = 26 → m.cause = b := by
    intro m hm same
    obtain ⟨x, -, rfl⟩ := List.mem_map.1 hm
    split at same
    · next here => rw [if_pos here]
    · next other => exact absurd same other
  unfold failToStopCause
  cases member : hasCode s.mon.conditions codeFailToStop with
  | false =>
    rw [if_neg nofun]
    exact fun m hm same => absurd same ((hasCode_eq_false_iff _ _).1 member m hm)
  | true =>
    rw [if_pos rfl]
    have set : reportCause codeFailToStop (decide (Config.stoppedRpm ≤ s.mon.speed)) s
        = s.setConditions (setCause 26 (decide (30 ≤ s.mon.speed)) s.mon.conditions) := by
      cases turns : decide (30 ≤ s.mon.speed) with
      | true =>
        rw [show decide (Config.stoppedRpm ≤ s.mon.speed) = true from turns]
        exact reportPresent_of_member member
      | false =>
        rw [show decide (Config.stoppedRpm ≤ s.mon.speed) = false from turns]
        exact reportGone_of_latched latched
    rw [set]
    exact caused _

theorem failToStopCause_seq (s : State) : (failToStopCause s).seq = s.seq := by
  unfold failToStopCause
  split
  · next member =>
    cases decide (Config.stoppedRpm ≤ s.mon.speed) with
    | false => exact ((Quiet.refl s).reportGone _).seq
    | true => exact (congrArg State.seq (reportPresent_of_member member) :)
  · rfl

theorem faultedCause (loaded : s.loaded = true) (slow : speedOf s.params.teeth pulses < s.params.overspeed)
    (state : s.seq.state = .faulted) (latched : ∀ m ∈ s.mon.conditions, m.code = 26 → m.latched = true) :
    ∀ m ∈ (s.after (.speedValue pulses)).mon.conditions, m.code = 26 → m.cause = decide (30 ≤ speedOf s.params.teeth pulses) := by
  have gone : overspeedTest (s.measured pulses) = reportGone codeOverspeed (s.measured pulses) := by
    refine (if_pos loaded).trans ?_
    rw [decide_eq_false (p := (s.measured pulses).params.overspeed ≤ (s.measured pulses).mon.speed) (Nat.not_le.2 slow)]
    rfl
  have quiet := (Quiet.refl (s.measured pulses)).reportGone codeOverspeed
  have latched' : ∀ m ∈ (reportGone codeOverspeed (s.measured pulses)).mon.conditions, m.code = 26 → m.latched = true := by
    intro m hm same
    have old := (conditionsBut_reportGone (List.mem_singleton_self codeOverspeed) (s.measured pulses)).2 m hm (by rw [same]; decide)
    exact latched m old same
  rw [after_speedValue, State.tested, gone]
  generalize reportGone codeOverspeed (s.measured pulses) = w at *
  rw [stallTest_eq]
  have cause := failToStop_cause (s := w.setMon { w.mon with stall := w.stallTimer }) latched'
  have steady : _ = w.seq := failToStopCause_seq (w.setMon { w.mon with stall := w.stallTimer })
  generalize failToStopCause (w.setMon { w.mon with stall := w.stallTimer }) = x at *
  have shown := (timed_runningTime x).presented
  rw [sequencerSpeed_idle, shown.conditions]
  · have speed : w.mon.speed = speedOf s.params.teeth pulses := by
      rw [quiet.mon]
      rfl
    rw [← speed]
    exact cause
  · rw [shown.seq, steady, quiet.seq]
    show s.seq.state ∈ _
    rw [state]
    decide

end

end Sys2Proof.Machine
end


section
/-! STALL (R149), the end of OIL_GRACE (R147, R150), and the speed value as a whole: O58. -/

namespace Sys2Proof.Machine

section
variable {s t u : State} {pulses : Nat}

/-! ### STALL (R149, R164) -/

/-- A latched code of a stopping is reported gone at once: it stands without its cause. -/
theorem stallStops (new : hasCode s.mon.conditions 23 = false) (running : s.seq.state ∈ [.online, .unloading, .cooldown]) :
    let t := reportGone codeStall (reportPresent codeStall s)
    Stopped s.seq.state true s t ∧ TransitionFrame [23] s t ∧ ⟨23, .shutdown, true, false, 0⟩ ∈ t.mon.conditions
      ∧ t.out.alarm = true := by
  intro t
  have runs : s.seq.state ∈ [.runup, .warmup, .online, .unloading, .cooldown] := by
    simp only [List.mem_cons, List.not_mem_nil, or_false] at running ⊢
    exact .inr (.inr running)
  obtain ⟨active, waits, settles, cranks⟩ := running_active runs
  have frame : TransitionFrame [23] s t := by
    have deeds : Deeds ⟨[23], true, []⟩ s t :=
      (((Deeds.refl (r := ⟨[23], true, []⟩) s (.inl rfl)).reportCause (code := codeStall)
        (covers_of_mem (List.mem_append_left _ (List.mem_singleton_self 23)) (by decide)) (by decide) true).reportCause (code := codeStall)
        (covers_of_mem (List.mem_append_left _ (List.mem_singleton_self 23)) (by decide)) (by decide) false)
    exact deeds.frame (List.nil_subset _) (by
      unfold Scope.clears Scope.codes
      decide)
  have stops := shutsDown_reportPresent (s := s) (code := codeStall) (by decide) rfl rfl rfl new active
  obtain ⟨member, alarm⟩ := stops.member (by decide)
  have fixed : s.newMember codeStall = ⟨23, .shutdown, true, true, 0⟩ := newMember_of_fixed (by decide) s
  have claimless : goStopping (s.withMember codeStall) = enterStopping (s.withMember codeStall) := by
    unfold goStopping
    rw [dropClaim_of_claimless (s := s.withMember codeStall) ⟨waits, settles, cranks⟩]
  have latched : ∀ m ∈ (reportPresent codeStall s).mon.conditions, m.code = codeStall → m.latched = true := by
    intro m hm same
    rw [stops.conditions, claimless] at hm
    obtain ⟨x, hx, b, rfl⟩ := (calm_enterStopping (s.withMember codeStall)).member m hm
    have alone : x = s.newMember codeStall := withMember_alone new hx same
    rw [alone, fixed]
  have gone : t = _ := reportGone_of_latched latched
  have calm := (Calm.refl (reportPresent codeStall s)).reportGone codeStall
  have quiet := (Quiet.refl (reportPresent codeStall s)).reportGone codeStall
  have stopped := stops.stopped.quiet calm quiet (by rw [reportGone_of_latched latched]; exact recordCause_setCause ..)
  refine ⟨stopped, frame, ?_, ?_⟩
  · rw [gone]
    refine List.mem_map.2 ⟨_, member, ?_⟩
    rw [fixed]
    rfl
  · rw [gone]
    exact alarm

/-! ### The end of OIL_GRACE (R147, R150) -/

theorem setRet_runPhase (s : State) (x : RetainedStore) : (s.setRet x).mon.runPhase = s.mon.runPhase := rfl

theorem enterStopping_notRun (s : State) : (enterStopping s).mon.runPhase = .notRun := by
  have exits (t : State) (ht : t.mon.runPhase = .notRun) : (stoppingExit t).mon.runPhase = .notRun := by
    unfold stoppingExit
    split
    · split
      · rw [enterFaulted_eq, setRet_runPhase]
        exact entryBase_notRun (st := .faulted) rfl _
      · rw [enterStopped_eq]
        refine entryBase_notRun ?_ _
        unfold State.stoppedOrIsolated
        split <;> rfl
    · exact ht
  rw [enterStopping_eq]
  refine exits _ ?_
  unfold State.stoppingEntered
  rw [setRet_runPhase]
  exact entryBase_notRun (st := .stopping) rfl _

/-- The stop that low oil leads to takes the run phase away (R147). -/
theorem lowOil_notRun (new : hasCode s.mon.conditions 21 = false) (active : s.seq.state.active = true) :
    (reportPresent codeLowOil s).mon.runPhase = .notRun := by
  have fixed : s.newMember codeLowOil = ⟨21, .shutdown, true, true, 0⟩ := newMember_of_fixed (by decide) s
  rw [reportPresent_shutdown (code := codeLowOil) (shutdown_plain (by decide) rfl s) new (congrArg Member.cls fixed) active]
  have stopped : (goStopping (s.withMember codeLowOil)).mon.runPhase = .notRun := by
    unfold goStopping
    exact enterStopping_notRun _
  generalize goStopping (s.withMember codeLowOil) = w at stopped ⊢
  rw [((Quiet.refl w).handChange _ _).mon]
  exact stopped

/-- OIL_GRACE has ended (R147). -/
def State.graceEnded (s : State) : State := s.setMon { s.mon with runPhase := .run, grace := .expired }

theorem after_graceTimerExpiry (runs : s.mon.grace.isRunning = true) : s.after .graceTimerExpiry
    = if (lowOilTest s.graceEnded).mon.runPhase = .run then unmaskInputs true (lowOilTest s.graceEnded)
      else lowOilTest s.graceEnded := if_pos runs

theorem unmasks_iff (b : Bool) (k : Fin 12) :
    s.unmasks b k = true ↔ s.mon.routing[k].enable = true ∧ s.mon.routing[k].startMask = b := by
  rw [State.unmasks, Bool.and_eq_true, beq_iff_eq]

/-! ### The Sequencer's reading of a calm speed value (R12, R15, R23) -/

/-- CRANKING confirms the fire (R12). -/
theorem cranksOn {r y : State} (shown : Presented r y) (state : r.seq.state = .cranking) :
    let t := sequencerSpeed y
    t.seq = { r.seq with
        fireConfirm := if r.mon.speed < r.params.fireSpeed then .stopped
          else if r.seq.fireConfirm = .stopped then .running 500 else r.seq.fireConfirm }
      ∧ t.stepper = r.stepper ∧ t.out = r.out ∧ t.claim = r.claim := by
  intro t
  have state' : y.seq.state = .cranking := by rw [shown.seq, state]
  have reads : t = if r.params.fireSpeed ≤ r.mon.speed then
      if r.seq.fireConfirm = .stopped then y.setSeq { r.seq with fireConfirm := .running 500 } else y
      else y.setSeq { r.seq with fireConfirm := .stopped } := by
    show sequencerSpeed y = _
    unfold sequencerSpeed
    rw [state']
    dsimp only
    rw [shown.seq, shown.params, shown.speed]
    rfl
  by_cases slow : r.mon.speed < r.params.fireSpeed
  · rw [reads, if_neg (Nat.not_le.2 slow), if_pos slow]
    exact ⟨rfl, shown.stepper, shown.out, shown.claim⟩
  · rw [reads, if_pos (Nat.not_lt.1 slow), if_neg slow]
    split
    · exact ⟨rfl, shown.stepper, shown.out, shown.claim⟩
    · exact ⟨shown.seq, shown.stepper, shown.out, shown.claim⟩

theorem sequencerSpeed_runup (state : s.seq.state = .runup) :
    sequencerSpeed s = if s.params.idleSpeed * 9 ≤ s.mon.speed * 10 then enterWarmup s else s := by
  unfold sequencerSpeed
  rw [state]

theorem sequencerSpeed_stopping (state : s.seq.state = .stopping) : sequencerSpeed s = stoppingExit s := by
  unfold sequencerSpeed
  rw [state]

/-- RUNUP goes on to WARMUP (R15). -/
theorem runsUp {r y : State} (shown : Presented r y) (state : r.seq.state = .runup)
    (fast : r.params.idleSpeed * 9 ≤ r.mon.speed * 10) (clear : NoStandingCause r) (warms : r.params.warmMin ≠ 0) :
    let t := sequencerSpeed y
    Entered .warmup r t ∧ RecordsKept r t ∧ ClaimKept r t := by
  intro t
  have clear' : NoStandingCause y := by
    rw [NoStandingCause, shown.cab, shown.conditions]
    exact clear
  have eq : t = entryBase .warmup y := by
    show sequencerSpeed y = _
    rw [sequencerSpeed_runup (by rw [shown.seq, state]), if_pos (by rw [shown.params, shown.speed]; exact fast)]
    exact enterWarmup_eq clear' (by rw [shown.params]; exact warms)
  have calm := (Calm.refl y).entryBase .warmup
  have entered := (entered_entryBase .warmup y).back (s := r) (by rw [shown.link]) (by rw [shown.alloc]) nofun
  have seq := entryBase_seq .warmup y
  rw [shown.seq] at seq
  rw [eq]
  exact ⟨entered, recordsKept_of_seq seq, calm.claim.trans shown.claim, calm.slot.trans (by rw [shown.link])⟩

end

/-- Settles O58: the speed value, the stall timer and the grace timer. -/
theorem speedValuesCountAndProtect : Obligations.SpeedValuesCountAndProtect := by
  intro s pulses speed r counts quiet
  refine ⟨⟨_, exec_eq_after _ _, ?_⟩, fun runs new running => ⟨_, exec_eq_after _ _, ?_⟩, fun runs new => ?_⟩
  · have timed := timeCounted_speedValue s pulses
    have measured := after_speedValue_speed s pulses
    have calmly (q : quiet) : s.Calmly pulses := ⟨q.1, q.2.1, q.2.2⟩
    have shown (q : quiet) := presented_of_calmly (calmly q)
    refine ⟨congrArg Prod.fst measured, congrArg Prod.snd measured, timed.stands, timed.window, timed.minute, timed.hour,
      fun q idle state => ?_, fun loaded fast absent22 absent26 active => overspeedStops loaded fast absent22 absent26 active,
      fun q state => ?_, fun q state slow => ?_, fun q state fast clear warms => ?_, fun q state turns => ?_, fun q state slow => ?_,
      faultedCause⟩
    · have shape : s.after (.speedValue pulses) = sequencerSpeed (runningTime (s.tested pulses)) := rfl
      have tested := tested_of_calmly (calmly q)
      have still : runningTime (s.tested pulses) = s.tested pulses := by
        rw [tested]
        refine if_neg ?_
        rw [Bool.and_eq_true, decide_eq_true_eq]
        exact idle
      rw [shape, still, tested]
      exact sequencerSpeed_idle state
    · exact cranksOn (shown q) state
    · have slow' : ¬ (s.measured pulses).params.idleSpeed * 9 ≤ (s.measured pulses).mon.speed * 10 := Nat.not_le.2 slow
      rw [after_speedValue, sequencerSpeed_runup (by rw [(shown q).seq]; exact state), (shown q).params, (shown q).speed, if_neg slow']
      exact (shown q).seq
    · exact runsUp (shown q) state fast clear warms
    · rw [after_speedValue, sequencerSpeed_stopping (by rw [(shown q).seq]; exact state),
        stoppingExit_idle (by rw [(shown q).speed]; exact turns)]
      exact (shown q).seq
    · rw [after_speedValue, sequencerSpeed_stopping (by rw [(shown q).seq]; exact state),
        stoppingExit_leads (by rw [(shown q).speed]; exact slow), State.stopLatched, (shown q).conditions, (shown q).cab]
      rfl
  · have eq : s.after .stallTimerExpiry = reportGone codeStall (reportPresent codeStall (s.setMon { s.mon with stall := .expired })) :=
      if_pos runs
    rw [eq]
    exact stallStops (s := s.setMon { s.mon with stall := .expired }) new running
  · intro g
    have eq := after_graceTimerExpiry runs
    refine ⟨fun enough => ⟨_, exec_eq_after _ _, ?_⟩, fun low running => ⟨_, exec_eq_after _ _, ?_⟩⟩
    · rw [lowOilTest_enough (s := s.graceEnded) rfl enough new, if_pos (show s.graceEnded.mon.runPhase = .run from rfl)] at eq
      rw [eq]
      refine ⟨unmaskInputs_eq true s.graceEnded, fun k => ?_⟩
      rw [unmaskInputs_input]
      simp only [unmasks_iff]
      rfl
    · rw [lowOilTest_low (s := s.graceEnded) rfl low, lowOil_notRun (s := s.graceEnded) new (running_active (s := s.graceEnded) running).1,
        if_neg nofun] at eq
      rw [eq]
      obtain ⟨stopped, frame, member, alarm⟩ := lowOil_stops (s := s.graceEnded) new running
      exact ⟨stopped, frame, alarm, member⟩

end Sys2Proof.Machine
end


section
/-! The completion of the load, step by step (R176 to R180): parameters, hours, CONFIG_FAULT, F and C, the inputs: O33, O34. -/

namespace Sys2Proof.Machine

section
variable {s t u v : State}

/-! ### What the image and the station give -/

/-- The image carries the format marker (R176). -/
def State.goodImage (s : State) : Bool := imgByte s.load.image 0 == 0x4B

/-- CONFIG_FAULT is raised at the load (R176). -/
def State.loadFault (s : State) : Bool := !s.goodImage || s.load.station == 0

/-- CONFIG_FAULT as it joins (R158, R164). -/
def configFaultMember : Member := ⟨35, .shutdown, true, true, 0⟩

/-- The routing table after the load (R176). -/
def State.routingAfter (s : State) : Vector RoutingEntry 12 := if s.goodImage then routingOf s.load.image else s.mon.routing

/-- The Loader after the load. -/
def State.loadAfter (s : State) : Loader := { s.load with
  progress := .done, markerFault := !s.goodImage, hours := s.hoursAfterLoad
  startRecord := ⟨s.load.resetKind, s.ret.wasRunning⟩ }

/-- The hours that the image holds (R180, R189). -/
def State.hoursStored (s : State) : Nat := min 999999 (imgWord s.load.image 124 * 65536 + imgWord s.load.image 126)

theorem hoursOf_image (s : State) : hoursOf s.load.image = s.hoursStored := by
  unfold hoursOf clampTo storedHours State.hoursStored Config.maxHours
  omega

theorem loadedHours_eq (s : State) : (loadParameters s).loadedHours = s.hoursAfterLoad := by
  show (match s.load.resetKind, !s.goodImage with
    | .powerOn, false => hoursOf s.load.image
    | .core, false => max (hoursOf s.load.image) s.ret.shadow
    | .powerOn, true => 0
    | .core, true => s.ret.shadow) = match s.load.resetKind, s.goodImage with
    | .powerOn, true => s.hoursStored
    | .core, true => max s.hoursStored s.ret.shadow
    | .powerOn, false => 0
    | .core, false => s.ret.shadow
  rw [hoursOf_image]
  cases s.load.resetKind <;> cases s.goodImage <;> rfl

/-- HOURS_WRITE is marked at the load (R180). -/
def State.writesHours (s : State) : Bool := s.load.resetKind == .core && s.goodImage && decide (s.hoursStored < s.hoursAfterLoad)

/-! ### Hours and the port (R136, R180) -/

theorem Granted.retimed {p q : Port} (h : Granted s p q) (x : Timer) :
    Granted s { p with statusTimer := x } { q with statusTimer := x } := by
  unfold Granted at h ⊢
  dsimp only
  split at h
  · rw [if_pos ‹_›, h]
  rw [if_neg ‹_›]
  split at h
  · rw [if_pos ‹_›, h]
  rw [if_neg ‹_›]
  split at h
  · rw [if_pos ‹_›, h]
  rw [if_neg ‹_›]
  split at h
  · rw [if_pos ‹_›, h]
  rw [if_neg ‹_›]
  split at h
  · rw [if_pos ‹_›, h]
  · rw [if_neg ‹_›, h]

/-- The port after the hours are loaded. -/
structure HoursHanded (s : State) (q : Port) : Prop where
  marked : s.writesHours = true → ∀ v : State, v.stepper = s.stepper → v.load.hours = s.hoursAfterLoad →
    Granted v { s.port with pendHoursWrite := true } q
  still : s.writesHours = false → q = s.port

/-- The station with parameters, routing table and power steps loaded (R176). -/
theorem loadParameters_eq (s : State) : loadParameters s = { s with
    params := paramsOf s.load.image, load := { s.load with progress := .done, markerFault := !s.goodImage }
    alloc := { s.alloc with powerSteps := powerStepsOf (paramsOf s.load.image) }, mon := { s.mon with routing := s.routingAfter } } := by
  have good : markerGood s.load.image = s.goodImage := rfl
  unfold loadParameters State.routingAfter
  dsimp only
  rw [good]
  rfl

theorem loadHours_of_hours {hours : Nat} {behind : Bool} (loaded : s.loadedHours = hours) (late : s.hoursBehind = behind) :
    loadHours s = if behind then portMark .hoursWrite ((s.setLoad { s.load with
        hours := hours, startRecord := ⟨s.load.resetKind, s.ret.wasRunning⟩ }).setRet { s.ret with shadow := hours })
      else (s.setLoad { s.load with
        hours := hours, startRecord := ⟨s.load.resetKind, s.ret.wasRunning⟩ }).setRet { s.ret with shadow := hours } := by
  unfold loadHours
  rw [loaded, late]

/-- Parameters, routing table, power steps and hours are loaded (R176 to R180). -/
theorem loadHours_handed (s : State) : ∃ q, HoursHanded s q ∧ loadHours (loadParameters s) = { s with
    params := paramsOf s.load.image, load := s.loadAfter, ret := { s.ret with shadow := s.hoursAfterLoad }, port := q
    alloc := { s.alloc with powerSteps := powerStepsOf (paramsOf s.load.image) }, mon := { s.mon with routing := s.routingAfter } } := by
  have behind : (loadParameters s).hoursBehind = s.writesHours := by
    show (s.load.resetKind == .core && !(!s.goodImage) && decide (hoursOf s.load.image < (loadParameters s).loadedHours)) = _
    rw [loadedHours_eq, hoursOf_image, Bool.not_not]
    rfl
  generalize set : ({ s with
    params := paramsOf s.load.image, load := s.loadAfter, ret := { s.ret with shadow := s.hoursAfterLoad }
    alloc := { s.alloc with powerSteps := powerStepsOf (paramsOf s.load.image) }, mon := { s.mon with routing := s.routingAfter } } : State) = w
  have shape : loadHours (loadParameters s) = if s.writesHours then portMark .hoursWrite w else w := by
    rw [loadHours_of_hours (loadedHours_eq s) behind, loadParameters_eq, ← set]
    rfl
  rw [shape]
  cases writes : s.writesHours with
  | false =>
    refine ⟨s.port, ⟨fun h => (by rw [writes] at h; cases h), fun _ => rfl⟩, ?_⟩
    rw [if_neg nofun, ← set]
  | true =>
    obtain ⟨eq, granted⟩ := portGrant_setPort w (w.port.withMark .hoursWrite)
    have marked : portMark .hoursWrite w = portGrant (w.setPort (w.port.withMark .hoursWrite)) := rfl
    rw [if_pos rfl, marked]
    generalize (portGrant (w.setPort (w.port.withMark .hoursWrite))).port = q at eq granted
    refine ⟨q, ⟨fun _ v stepper hours => ?_, fun h => (by rw [writes] at h; cases h)⟩, ?_⟩
    · rw [← set] at granted
      exact granted.of_same (by rw [stepper]) (by rw [hours]; rfl)
    · rw [eq, ← set]
      rfl

/-! ### CONFIG_FAULT (R176) -/

theorem withTriggerIf_waiting (b : Bool) (phase : s.alloc.phase = .waitLoad) : (s.withTriggerIf b).alloc = s.alloc := by
  cases b
  · rfl
  · show ({ s.alloc with reEvaluate := s.alloc.reEvaluate || s.alloc.phase == .ready || s.alloc.phase == .inPass } : Allocator) = _
    rw [phase, show (AllocPhase.waitLoad == .ready) = false from rfl, show (AllocPhase.waitLoad == .inPass) = false from rfl,
      Bool.or_false, Bool.or_false]

/-- A mark at a disabled transmitter is none (R52). -/
theorem withMarkIf_disabled (b : Bool) (disabled : s.link.txEnabled = false) :
    (s.withMarkIf b).link.statusMarked = s.link.statusMarked := by
  cases b
  · rfl
  · show (s.link.statusMarked || s.link.txEnabled) = _
    rw [disabled, Bool.or_false]

/-- The load is judged while the Allocator waits for it: at most CONFIG_FAULT joins, and the engine stands (R176, R4). -/
theorem judgeConfig_waiting (state : s.seq.state = .init) (phase : s.alloc.phase = .waitLoad) (new : hasCode s.mon.conditions 35 = false)
    (fault : Bool) (judged : (s.load.markerFault || s.load.station == 0) = fault) :
    ∃ m, (s.link.txEnabled = false → m = s.link.statusMarked) ∧ judgeConfig s = { s with
      link := { s.link with statusMarked := m }
      mon := { s.mon with conditions := if fault then insertMember configFaultMember s.mon.conditions else s.mon.conditions }
      out := { s.out with alarm := fault || s.out.alarm } } := by
  unfold judgeConfig
  rw [judged]
  cases fault with
  | false => exact ⟨s.link.statusMarked, fun _ => rfl, rfl⟩
  | true =>
    have fixed : s.newMember codeConfigFault = configFaultMember := newMember_of_fixed (by decide) s
    have cls : s.classOf codeConfigFault = .shutdown := congrArg Member.cls fixed
    have idle : joiningAppears codeConfigFault (s.classOf codeConfigFault) (s.withMember codeConfigFault) = s.withMember codeConfigFault := by
      rw [cls]
      refine if_neg ?_
      show ¬ s.seq.state.active = true
      rw [state]
      nofun
    have joined := reportPresent_unmoved (code := codeConfigFault) (shutdown_plain (by decide) rfl s) new idle
    have conditions : (s.joinedBy codeConfigFault).mon.conditions = insertMember configFaultMember s.mon.conditions := by
      rw [← fixed]
      rfl
    rw [if_pos rfl, joined]
    refine ⟨(s.joinedBy codeConfigFault).link.statusMarked, fun disabled => withMarkIf_disabled _ disabled, ?_⟩
    rw [joinedBy_eq, withTriggerIf_waiting _ phase, conditions]
    rfl

/-! ### F and C, and the inputs that become unmasked (R151, R152, R155) -/

theorem computeDerate_unmaskInputs (loaded : s.loaded = true) (phase : s.alloc.phase = .waitLoad)
    (taken : unmaskInputs false (computeDerate s) = t) :
    ∃ m, (s.link.txEnabled = false → m = s.link.statusMarked) ∧ t = { s with
        link := { s.link with statusMarked := m }
        mon := { s.mon with
          derate := t.derateFactor, capacity := s.params.ratedPower * t.derateFactor / 256, inputs := t.mon.inputs } }
      ∧ ∀ k : Fin 12, t.mon.inputs[k] = if s.unmasks false k = true then s.inputStarted k else s.mon.inputs[k] := by
  have computed := computeDerate_loaded loaded
  rw [withTriggerIf_waiting _ phase, withMarkIf_link] at computed
  have inputs := unmaskInputs_input false (computeDerate s)
  have eq := unmaskInputs_eq false (computeDerate s)
  rw [taken] at inputs eq
  generalize t.mon.inputs = i at inputs eq ⊢
  rw [computed] at eq inputs
  have params : t.params = s.params := (congrArg State.params eq :)
  have coolant : t.mon.coolant = s.mon.coolant := (congrArg (fun u => u.mon.coolant) eq :)
  have conditions : t.mon.conditions = s.mon.conditions := (congrArg (fun u => u.mon.conditions) eq :)
  have routing : t.mon.routing = s.mon.routing := (congrArg (fun u => u.mon.routing) eq :)
  have factor : t.derateFactor = s.derateFactor :=
    derateFactor_congr params (by rw [coolant]) (by rw [conditions]) fun f => by rw [conditions, routing]
  rw [factor]
  exact ⟨_, fun disabled => withMarkIf_disabled _ disabled, eq, inputs⟩

/-! ### The configuration handed on (R179, steps 1 to 4) -/

/-- What the load has handed on before the transmitter and the timers. -/
structure ConfigHanded (s t : State) (m : Bool) (q : Port) : Prop where
  eq : t = { s with
    params := paramsOf s.load.image, load := s.loadAfter, ret := { s.ret with shadow := s.hoursAfterLoad }, port := q
    alloc := { s.alloc with powerSteps := powerStepsOf (paramsOf s.load.image) }
    link := { s.link with statusMarked := m }
    mon := { s.mon with
      routing := s.routingAfter, derate := t.derateFactor, capacity := (paramsOf s.load.image).ratedPower * t.derateFactor / 256
      inputs := t.mon.inputs
      conditions := if s.loadFault then insertMember configFaultMember s.mon.conditions else s.mon.conditions }
    out := { s.out with alarm := s.loadFault || s.out.alarm } }
  port : HoursHanded s q
  marked : s.link.txEnabled = false → m = s.link.statusMarked
  inputs : ∀ k : Fin 12, t.mon.inputs[k] = if s.routingAfter[k].enable && !s.routingAfter[k].startMask then
    { s.mon.inputs[k] with stability := s.routingAfter[k].starts } else s.mon.inputs[k]

theorem loadHanded_config (state : s.seq.state = .init) (phase : s.alloc.phase = .waitLoad) (new : hasCode s.mon.conditions 35 = false) :
    ∃ m q, ConfigHanded s (loadHanded s) m q := by
  obtain ⟨q, port, hours⟩ := loadHours_handed s
  have shape : loadHanded s = unmaskInputs false (computeDerate (judgeConfig (loadHours (loadParameters s)))) := rfl
  obtain ⟨m, marked, judged⟩ := judgeConfig_waiting (s := loadHours (loadParameters s)) (by rw [hours]; exact state)
    (by rw [hours]; exact phase) (by rw [hours]; exact new) s.loadFault (by rw [hours]; rfl)
  have loaded : (judgeConfig (loadHours (loadParameters s))).loaded = true := by rw [judged, hours]; rfl
  have waiting : (judgeConfig (loadHours (loadParameters s))).alloc.phase = .waitLoad := by rw [judged, hours]; exact phase
  obtain ⟨m', marked', eq, inputs⟩ := computeDerate_unmaskInputs loaded waiting shape.symm
  generalize loadHanded s = t at eq inputs ⊢
  rw [judged, hours] at eq marked' inputs
  rw [hours] at marked
  refine ⟨m', q, eq, port, fun disabled => (marked' disabled).trans (marked disabled), fun k => (inputs k).trans ?_⟩
  have unmasks (e : RoutingEntry) : (e.enable && e.startMask == false) = (e.enable && !e.startMask) := by cases e.startMask <;> rfl
  exact if_congr (by rw [← unmasks]; rfl) rfl rfl

end

end Sys2Proof.Machine
end


section
/-! The end of INIT (R5): the first case that holds: O34. -/

namespace Sys2Proof.Machine

section
variable {s t u v : State} {fault latched : Bool} {speed : Nat} {p : Params}

/-- What the end of INIT finds of the station at the event: the two stations agree in what R5 reads. -/
structure InitFinds (fault latched : Bool) (speed : Nat) (p : Params) (s u : State) : Prop where
  state : u.seq.state = .init
  latch : u.ret.fuelLatch = s.ret.fuelLatch
  speed : u.mon.speed = speed
  isolate : u.cab.isolate = s.cab.isolate
  estop : u.cab.estop = s.cab.estop
  notch : u.stepper.notch = s.stepper.notch
  target : u.alloc.results.target = s.alloc.results.target
  params : u.params = p
  judged : hasCode u.mon.conditions codeConfigFault = fault
  decided : StopDecided u latched
  conditions : fault = false → u.mon.conditions = s.mon.conditions

/-! ### Onto STOPPING, FAULTED or STOPPED -/

/-- Where STOPPING has led from INIT (R5, R22, R23). -/
theorem initStops (finds : InitFinds fault latched speed p s u) (taken : enterStopping u = t) :
    t.seq.state = (if speed < 30 then (if latched then .faulted else if s.cab.isolate.qualified then .isolated else .stopped)
      else .stopping)
      ∧ t.standingCommands = ⟨false, false, false, false⟩ ∧ t.seq.snapshot = ⟨.init, speed, s.stepper.notch⟩
      ∧ t.ret.wasRunning = false := by
  have stopped := stopped_of_decided finds.decided
  rw [taken] at stopped
  obtain ⟨⟨state, -, -, commands, -⟩, snapshot, -, running, -⟩ := stopped
  refine ⟨?_, commands.trans (stoppingLeads_commands latched u.ret.fuelLatch u), ?_, running⟩
  · rw [state, stoppingLeads, finds.speed, finds.isolate]
    rfl
  · rw [snapshot, finds.state, finds.speed, finds.notch]

/-- A marker fault or number 0 with the latch off leads to FAULTED (R5, R24). -/
theorem initFaults (finds : InitFinds fault latched speed p s u) : let t := enterFaulted (takeSnapshot u)
    t.seq.state = .faulted ∧ t.standingCommands = ⟨false, false, false, false⟩ ∧ t.seq.snapshot = ⟨.init, speed, s.stepper.notch⟩
      ∧ t.ret.record.map (·.state) = some .init := by
  intro t
  have entered : Entered .faulted (takeSnapshot u) t := entered_enterFaulted _
  have snapshot : t.seq.snapshot = ⟨.init, speed, s.stepper.notch⟩ := by
    show (enterFaulted (takeSnapshot u)).seq.snapshot = _
    rw [enterFaulted_seq]
    show (⟨u.seq.state, u.mon.speed, u.stepper.notch⟩ : StopSnapshot) = _
    rw [finds.state, finds.speed, finds.notch]
  refine ⟨entered.1, entered.2.2.2.1, snapshot, ?_⟩
  show (enterFaulted (takeSnapshot u)).ret.record.map (·.state) = _
  rw [enterFaulted_ret]
  show some u.seq.state = some .init
  rw [finds.state]

/-- STOPPED or ISOLATED with the latch off (R5, R6). -/
theorem initRests (finds : InitFinds fault latched speed p s u) : let t := enterStopped u
    t.seq.state = (if s.cab.isolate.qualified then .isolated else .stopped)
      ∧ t.standingCommands = ⟨false, false, false, false⟩ ∧ t.seq.attempts = 0 ∧ t.seq.stopReason = .none := by
  intro t
  have entered : Entered u.stoppedOrIsolated u t := entered_enterStopped u
  have seq : t.seq = _ := enterStopped_seq u
  refine ⟨?_, entered.2.2.2.1.trans ?_, by rw [seq], by rw [seq]⟩
  · rw [entered.1, State.stoppedOrIsolated, finds.isolate]
  · unfold State.stoppedOrIsolated
    split <;> rfl

/-! ### The resume (R5) -/

/-- The station at the resume, before ONLINE is entered (R5, R107, R147, R182). -/
def State.resumed (s : State) : State := { s with
  seq := { s.seq with resumed := true, minRun := .running (s.params.minRun * 1000) }
  mon := { s.mon with runPhase := .grace, grace := .running (s.params.oilGrace * 1000) }
  ret := { s.ret with wasRunning := true } }

/-- At the entry to ONLINE with notch 0 and target 0 no step is taken (R128, R130). -/
theorem entryBase_online_stepper (notch : s.stepper.notch = 0) (target : s.alloc.results.target = 0) :
    (entryBase .online s).stepper = ⟨0, .restarted, some s.params.idleSpeed⟩ := by
  have told := entryTold_keeps .online s
  obtain ⟨seq, -, -, -, stepper, -, -, -, -, -, params, -⟩ := told
  have results : (entryTold .online s).alloc.results = s.alloc.results := by
    unfold entryTold
    dsimp only
    rw [passTrigger_eq, markStatus_eq]
    split <;> rfl
  obtain ⟨w, eq, stepped, at'⟩ := stepperEntry_eq .online (entryTold .online s) (by rw [seq])
  have at0 : w.stepper = ⟨0, .restarted, some s.params.idleSpeed⟩ := by
    rw [at', entryTold_stepperAt, State.stepperAt, notch]
    rfl
  have level : w.effectiveTarget = 0 := by
    rw [State.effectiveTarget, stepped.seq, stepped.alloc, results, target]
    exact ite_self _
  have idle : examineStep w = w := by
    unfold examineStep
    rw [at0, level]
    split <;> rfl
  rw [entryBase_stepper, eq, idle, at0]

theorem initResumes (finds : InitFinds false latched speed p s u) (clear : NoStandingCause s) (notch : s.stepper.notch = 0)
    (target : s.alloc.results.target = 0) : let t := enterOnline u.resumed
    t.seq.state = .online ∧ t.standingCommands = ⟨false, true, false, true⟩ ∧ t.stepper.notch = 0
      ∧ t.stepper.setpoint = some p.idleSpeed ∧ t.seq.resumed = true ∧ t.seq.minRun = .running (p.minRun * 1000)
      ∧ t.mon.runPhase = .grace ∧ t.mon.grace = .running (p.oilGrace * 1000) ∧ t.ret.wasRunning = true := by
  intro t
  have clear' : NoStandingCause u.resumed := by
    show u.cab.estop.qualified = false ∧ u.cab.isolate.qualified = false ∧ ∀ m ∈ u.mon.conditions, _
    rw [finds.estop, finds.isolate, finds.conditions rfl]
    exact clear
  have stays : u.resumed.allocationStop = false := by
    unfold State.allocationStop
    have running : u.resumed.seq.minRun.isExpired = false := rfl
    split <;> simp [running]
  have eq : t = entryBase .online u.resumed := enterOnline_eq clear' stays
  have entered := entered_entryBase .online u.resumed
  have seq := entryBase_seq .online u.resumed
  have phase := entryBase_phase (st := .online) rfl u.resumed
  have stepper := entryBase_online_stepper (s := u.resumed) (finds.notch.trans notch) (finds.target.trans target)
  have ret := entryBase_ret .online u.resumed
  rw [eq]
  generalize entryBase .online u.resumed = w at *
  rw [stepper, seq, phase.1, phase.2, ret, ← finds.params]
  exact ⟨rfl, entered.2.2.2.1, rfl, rfl, rfl, rfl, rfl, rfl, rfl⟩

/-! ### The first case that holds -/

theorem initEnds_initExit (finds : InitFinds fault latched speed p s u) : InitEnds fault latched speed p s (initExit u) := by
  have exits : initExit u = if fault then (if s.ret.fuelLatch then enterStopping u else enterFaulted (takeSnapshot u))
      else if s.ret.fuelLatch then (if p.idleSpeed / 2 ≤ speed then enterOnline u.resumed else enterStopping u)
      else enterStopped u := by
    rw [← finds.judged, ← finds.latch, ← finds.params, ← finds.speed]
    rfl
  rw [exits]
  refine ⟨fun stops => ?_, fun faulty off => ?_, fun sound latch turns clear notch target => ?_, fun sound off => ?_⟩
  · have goes : (if fault = true then (if s.ret.fuelLatch = true then enterStopping u else enterFaulted (takeSnapshot u))
        else if s.ret.fuelLatch = true then (if p.idleSpeed / 2 ≤ speed then enterOnline u.resumed else enterStopping u)
        else enterStopped u) = enterStopping u := by
      obtain ⟨faulty, latch⟩ | ⟨sound, latch, slow⟩ := stops
      · rw [if_pos faulty, if_pos latch]
      · rw [if_neg (by rw [sound]; nofun), if_pos latch, if_neg (Nat.not_le.2 slow)]
    rw [goes]
    exact initStops finds rfl
  · rw [if_pos faulty, if_neg (by rw [off]; nofun)]
    exact initFaults finds
  · subst sound
    rw [if_neg nofun, if_pos latch, if_pos turns]
    exact initResumes finds clear notch target
  · rw [if_neg (by rw [sound]; nofun), if_neg (by rw [off]; nofun)]
    exact initRests finds

end

end Sys2Proof.Machine
end


section
/-! The load as handed on: transmitter, timers, and the station before INIT is examined (R179): O33. -/

namespace Sys2Proof.Machine

section
variable {s t u : State}

/-! ### The transmitter and the timers (R179, steps 5 to 9) -/

/-- The station's transmitter is enabled by the load (R52; log 19). -/
def State.loadEnables (s : State) : Bool := s.load.station != 0 && !hasCode s.mon.conditions 34

/-- The station at the end of the load, before INIT is examined. -/
structure LoadEnded (s u : State) : Prop where
  eq : u = { s with
    params := paramsOf s.load.image, load := s.loadAfter, ret := { s.ret with shadow := s.hoursAfterLoad }, port := u.port
    alloc := { s.alloc with powerSteps := powerStepsOf (paramsOf s.load.image), phase := .listening, listen := .running 1200 }
    link := u.link
    mon := { s.mon with
      routing := s.routingAfter, derate := u.mon.derate, capacity := u.mon.capacity, inputs := u.mon.inputs
      conditions := u.mon.conditions }
    out := { s.out with alarm := s.loadFault || s.out.alarm }
    claim := { s.claim with recovery := .running ((paramsOf s.load.image).recoveryTime * 1000) }
    cab := if s.cab.mode = .layover then
      { s.cab with layoverCheck := .running ((paramsOf s.load.image).layoverCheck * 60000) } else s.cab }
  conditions : u.mon.conditions = if s.loadFault then insertMember configFaultMember s.mon.conditions else s.mon.conditions
  derate : u.mon.derate = u.derateFactor
  capacity : u.mon.capacity = (paramsOf s.load.image).ratedPower * u.derateFactor / 256
  inputs : ∀ k : Fin 12, u.mon.inputs[k] = if s.routingAfter[k].enable && !s.routingAfter[k].startMask then
    { s.mon.inputs[k] with stability := s.routingAfter[k].starts } else s.mon.inputs[k]
  marked : s.link.txEnabled = false → u.link.statusMarked = s.link.statusMarked
  link : u.link = if s.loadEnables then
      { s.link with statusMarked := u.link.statusMarked, txEnabled := true, heartbeat := .running (25 * s.load.station) }
    else { s.link with statusMarked := u.link.statusMarked }
  asked : s.writesHours = true → Granted u { s.port with pendHoursWrite := true, statusTimer := .running 200 } u.port
  unasked : s.writesHours = false → u.port = { s.port with statusTimer := .running 200 }

theorem enableTransmitter_eq (s : State) : enableTransmitter s = s.setLink (if s.loadEnables then
    { s.link with txEnabled := true, heartbeat := .running (25 * s.load.station) } else s.link) := by
  show (if s.loadEnables then s.setLink { s.link with txEnabled := true, heartbeat := .running (25 * s.load.station) } else s) = _
  cases s.loadEnables <;> rfl

theorem loadEnded_of_config {m : Bool} {q : Port} (h : ConfigHanded s t m q) : LoadEnded s (startLoadTimers (enableTransmitter t)) := by
  obtain ⟨eq, port, marked, inputs⟩ := h
  rw [enableTransmitter_eq]
  have conditions : t.mon.conditions = if s.loadFault then insertMember configFaultMember s.mon.conditions else s.mon.conditions :=
    (congrArg (fun u => u.mon.conditions) eq :)
  have station : t.load.station = s.load.station := (congrArg (fun u => u.load.station) eq :)
  have enables : t.loadEnables = s.loadEnables := by
    have same : hasCode t.mon.conditions 34 = hasCode s.mon.conditions 34 := by
      rw [conditions]
      split
      · exact hasCode_insertMember ..
      · rfl
    rw [State.loadEnables, State.loadEnables, station, same]
  rw [enables, station]
  have derate : t.mon.derate = t.derateFactor := (congrArg (fun u => u.mon.derate) eq :)
  have capacity : t.mon.capacity = (paramsOf s.load.image).ratedPower * t.derateFactor / 256 :=
    (congrArg (fun u => u.mon.capacity) eq :)
  have factor (l : LinkUnit) : (startLoadTimers (t.setLink l)).derateFactor = t.derateFactor :=
    derateFactor_congr rfl rfl rfl fun _ => rfl
  have link : t.link = { s.link with statusMarked := m } := (congrArg State.link eq :)
  have port' : t.port = q := (congrArg State.port eq :)
  have timers (l : LinkUnit) : startLoadTimers (t.setLink l) = { s with
      params := paramsOf s.load.image, load := s.loadAfter, ret := { s.ret with shadow := s.hoursAfterLoad }
      port := { q with statusTimer := .running 200 }
      alloc := { s.alloc with powerSteps := powerStepsOf (paramsOf s.load.image), phase := .listening, listen := .running 1200 }
      link := l
      mon := { s.mon with
        routing := s.routingAfter, derate := t.mon.derate, capacity := t.mon.capacity, inputs := t.mon.inputs
        conditions := t.mon.conditions }
      out := { s.out with alarm := s.loadFault || s.out.alarm }
      claim := { s.claim with recovery := .running ((paramsOf s.load.image).recoveryTime * 1000) }
      cab := if s.cab.mode = .layover then
        { s.cab with layoverCheck := .running ((paramsOf s.load.image).layoverCheck * 60000) } else s.cab } := by
    generalize t.derateFactor = f at eq
    generalize t.mon.inputs = i at eq ⊢
    subst eq
    rfl
  generalize chosen : (if s.loadEnables then { t.link with txEnabled := true, heartbeat := .running (25 * s.load.station) } else t.link)
    = l
  have shown := timers l
  have factor' := factor l
  generalize startLoadTimers (t.setLink l) = w at shown factor'
  have at' : w.link = l := (congrArg State.link shown :)
  have held : w.port = { q with statusTimer := .running 200 } := (congrArg State.port shown :)
  have kept : w.mon.derate = t.mon.derate ∧ w.mon.capacity = t.mon.capacity ∧ w.mon.inputs = t.mon.inputs
      ∧ w.mon.conditions = t.mon.conditions := by
    rw [shown]
    exact ⟨rfl, rfl, rfl, rfl⟩
  obtain ⟨keptDerate, keptCapacity, keptInputs, keptConditions⟩ := kept
  have mark : l.statusMarked = m := by
    rw [← chosen, link]
    split <;> rfl
  exact {
    eq := by
      rw [at', held, keptDerate, keptCapacity, keptInputs, keptConditions]
      exact shown
    conditions := keptConditions.trans conditions
    derate := by rw [keptDerate, factor', derate]
    capacity := by rw [keptCapacity, factor', capacity]
    inputs := fun k => by rw [keptInputs]; exact inputs k
    marked := fun off => by rw [at', mark]; exact marked off
    link := by
      rw [at', mark, ← chosen, link]
    asked := fun writes => by
      rw [held]
      exact (port.marked writes w (by rw [shown]) (by rw [shown]; rfl)).retimed _
    unasked := fun writes => by rw [held, port.still writes] }

/-- The station at the end of the load from INIT, before INIT is examined (R179). -/
def State.loadEnd (s : State) : State := startLoadTimers (enableTransmitter (loadHanded s))

theorem loadEnded (state : s.seq.state = .init) (phase : s.alloc.phase = .waitLoad) (new : hasCode s.mon.conditions 35 = false) :
    LoadEnded s s.loadEnd := by
  obtain ⟨m, q, config⟩ := loadHanded_config state phase new
  exact loadEnded_of_config config

theorem after_load (reading : s.load.progress = .reading 16) : s.after .configLoadCompletion = examineInit s.loadEnd :=
  (after_configLoadCompletion s).trans (if_pos reading)

theorem loadFault_iff (s : State) : s.loadFault = true ↔ s.goodImage = false ∨ s.load.station = 0 := by
  simp [State.loadFault]

/-- Before the first speed value INIT stands (R5). -/
theorem examineInit_early (early : s.mon.speedYet = false) : examineInit s = s := if_neg (by rw [early, Bool.and_false]; nofun)

/-- CONFIG_FAULT is in the set after the load exactly with a marker fault or number 0 (R176). -/
theorem LoadEnded.hasCode (h : LoadEnded s u) (new : Machine.hasCode s.mon.conditions 35 = false) :
    Machine.hasCode u.mon.conditions 35 = s.loadFault := by
  rw [h.conditions]
  cases s.loadFault with
  | false => exact new
  | true => exact hasCode_insertMember ..

theorem LoadEnded.conditionsBut (h : LoadEnded s u) : ConditionsBut [35] s u := by
  rw [ConditionsBut, h.conditions]
  cases s.loadFault with
  | false => exact conditionsBut_refl [35] s
  | true =>
    refine ⟨fun m hm _ => mem_insertMember.2 (.inr hm), fun m hm outside => ?_⟩
    obtain rfl | old := mem_insertMember.1 hm
    · exact absurd (List.mem_singleton_self 35) outside
    · exact old

theorem LoadEnded.faultJoins (h : LoadEnded s u) (fault : s.loadFault = true) :
    ⟨35, .shutdown, true, true, 0⟩ ∈ u.mon.conditions ∧ u.out = { s.out with alarm := true } := by
  have out : u.out = { s.out with alarm := s.loadFault || s.out.alarm } := (congrArg State.out h.eq :)
  rw [out, h.conditions, fault]
  exact ⟨mem_insertMember.2 (.inl rfl), rfl⟩

end

/-- Settles O33: the station at the end of the load, field by field; without a speed value INIT stands. -/
theorem loadCompletionHandsTheConfigurationOn : Obligations.LoadCompletionHandsTheConfigurationOn := by
  intro s reading state early phase disabled new image good stored hours
  have ended := loadEnded state phase new
  have eq : s.after .configLoadCompletion = s.loadEnd := by
    rw [after_load reading]
    refine examineInit_early ?_
    exact (congrArg (fun u => u.mon.speedYet) ended.eq :).trans early
  refine ⟨_, exec_eq_after _ _, ?_⟩
  rw [eq]
  have fault := loadFault_iff s
  generalize s.loadEnd = u at ended
  have shown := ended.eq
  have routing : u.mon.routing = s.routingAfter := (congrArg (fun u => u.mon.routing) shown :)
  have enables : s.loadEnables = true ↔ s.load.station ≠ 0 ∧ hasCode s.mon.conditions 34 = false := by
    simp [State.loadEnables]
  have link := ended.link
  rw [ended.marked disabled] at link
  have writes : s.writesHours = true ↔ s.load.resetKind = .core ∧ good = true ∧ stored < hours := by
    rw [State.writesHours, Bool.and_eq_true, Bool.and_eq_true, beq_iff_eq, decide_eq_true_eq, and_assoc]
    exact Iff.rfl
  refine ⟨(congrArg State.params shown :), (congrArg (fun u => u.alloc.powerSteps) shown :), routing, (congrArg State.load shown :),
    (congrArg State.ret shown :), ?_, ended.conditionsBut, fun h => ended.faultJoins (fault.2 h), fun sound numbered => ?_,
    ended.derate, ended.capacity, fun k => ?_, ?_, fun numbered clear => ?_, fun off => ?_, (congrArg State.claim shown :), ?_,
    (congrArg State.cab shown :), fun core sound late => ended.asked (writes.2 ⟨core, sound, late⟩), fun idle => ?_,
    (congrArg State.seq shown :), (congrArg State.stepper shown :), (congrArg State.view shown :), (congrArg State.mailbox shown :),
    (congrArg State.pending shown :)⟩
  · rw [ended.hasCode new]
    exact fault
  · have none : s.loadFault = false := by
      rw [Bool.eq_false_iff]
      exact fun h => (fault.1 h).elim (fun bad => by rw [show s.goodImage = true from sound] at bad; cases bad) numbered
    have out : u.out = { s.out with alarm := s.loadFault || s.out.alarm } := (congrArg State.out shown :)
    rw [out, none]
    rfl
  · rw [routing]
    exact ended.inputs k
  · have mon : u.mon = _ := congrArg State.mon shown
    rw [routing]
    exact mon
  · rw [link, if_pos (enables.2 ⟨numbered, clear⟩)]
  · rw [link, if_neg fun h => ?_]
    obtain ⟨numbered, clear⟩ := enables.1 h
    obtain zero | conflict := off
    · exact numbered zero
    · rw [clear] at conflict
      cases conflict
  · have alloc : u.alloc = { s.alloc with
        powerSteps := powerStepsOf (paramsOf s.load.image), phase := .listening, listen := .running 1200 } :=
      (congrArg State.alloc shown :)
    rw [alloc]
  · refine ended.unasked ?_
    rw [Bool.eq_false_iff]
    intro h
    obtain ⟨core, sound, late⟩ := writes.1 h
    obtain powerOn | bad | enough := idle
    · rw [core] at powerOn
      cases powerOn
    · rw [sound] at bad
      cases bad
    · exact absurd late (Nat.not_lt.2 enough)

end Sys2Proof.Machine
end


section
/-! INIT ends by the first case that holds, at a speed value or at the load (R5, R179): O34. -/

namespace Sys2Proof.Machine

section
variable {s t u : State} {pulses : Nat}

/-! ### At a speed value -/

theorem sequencerSpeed_init (state : s.seq.state = .init) : sequencerSpeed s = examineInit s := by
  unfold sequencerSpeed
  rw [state]

theorem examineInit_due (state : s.seq.state = .init) (loaded : s.loaded = true) (come : s.mon.speedYet = true) :
    examineInit s = initExit s := if_pos (by rw [state, loaded, come]; rfl)

theorem examineInit_unloaded (unloaded : s.loaded = false) : examineInit s = s :=
  if_neg (by rw [unloaded, Bool.and_false, Bool.false_and]; nofun)

/-- What the end of INIT finds at a calm speed value. -/
theorem finds_of_calmly (state : s.seq.state = .init) (law : ConditionLaw s) (calmly : s.Calmly pulses) :
    InitFinds (hasCode s.mon.conditions 35) s.stopLatched (speedOf s.params.teeth pulses) s.params s
      (runningTime (s.tested pulses)) := by
  have shown := presented_of_calmly calmly
  generalize runningTime (s.tested pulses) = y at shown ⊢
  exact {
    state := by rw [shown.seq]; exact state
    latch := shown.latch
    speed := shown.speed
    isolate := by rw [shown.cab]; rfl
    estop := by rw [shown.cab]; rfl
    notch := by rw [shown.stepper]; rfl
    target := by rw [shown.alloc]; rfl
    params := shown.params
    judged := by rw [shown.conditions]; rfl
    decided := stopDecided_congr (stopDecided_of_law law) shown.conditions
    conditions := fun _ => shown.conditions }

/-- The load and the first speed value have both come at a speed value after the load. -/
theorem speedValue_come (s : State) (pulses : Nat) : (runningTime (s.tested pulses)).loaded = s.loaded
    ∧ (runningTime (s.tested pulses)).mon.speedYet = true := by
  have tested := deeds_tested s pulses
  have timed := (Deeds.refl (r := ⟨[], true, [.windows, .hours]⟩) (s.tested pulses) (.inl rfl)).runningTime (by simp)
  refine ⟨(timed.loaded (by simp)).trans (tested.loaded (by simp)), ?_⟩
  have speed := (timed.read (p := .speed) (by simp) (by simp [deedParts]) nofun).trans
    (tested.read (p := .speed) (by simp) (by simp [deedParts]) nofun)
  exact (congrArg Prod.snd speed :)

/-- Before the load a speed value moves nothing of the Sequencer (R5). -/
theorem speedValue_unloaded (state : s.seq.state = .init) (unloaded : s.loaded = false) :
    (s.after (.speedValue pulses)).seq = s.seq := by
  have untested : overspeedTest (s.measured pulses) = s.measured pulses := if_neg (by
    rw [show (s.measured pulses).loaded = false from unloaded]
    nofun)
  have seq : (runningTime (s.tested pulses)).seq = s.seq := by
    rw [(timed_runningTime _).presented.seq, State.tested, untested, failToStopCause_seq, stallTest_eq]
    rfl
  rw [after_speedValue, sequencerSpeed_init (by rw [seq]; exact state), examineInit_unloaded ((speedValue_come s pulses).1.trans unloaded), seq]

/-! ### At the load -/

theorem Granted.statusTimer {p q : Port} (h : Granted s p q) : q.statusTimer = p.statusTimer := by
  unfold Granted at h
  repeat' split at h
  all_goals rw [h]

theorem LoadEnded.statusTimer (h : LoadEnded s u) : u.port.statusTimer = .running 200 := by
  cases writes : s.writesHours with
  | true => exact (h.asked writes).statusTimer
  | false => rw [h.unasked writes]

theorem LoadEnded.derived (h : LoadEnded s u) (law : ConditionLaw u) : Derived u := by
  have params : u.params = paramsOf s.load.image := (congrArg State.params h.eq :)
  refine ⟨law, fun _ => ⟨h.derate, ?_⟩⟩
  rw [h.capacity, params, h.derate]

/-- What the end of INIT finds at the load. -/
theorem finds_of_loadEnded (state : s.seq.state = .init) (law : ConditionLaw s) (new : hasCode s.mon.conditions 35 = false)
    (ended : LoadEnded s u) :
    InitFinds s.loadFault (s.stopLatched || s.loadFault) s.mon.speed (paramsOf s.load.image) s u := by
  have shown := ended.eq
  have cab : u.cab = _ := congrArg State.cab shown
  exact {
    state := (congrArg (fun u => u.seq.state) shown :).trans state
    latch := (congrArg (fun u => u.ret.fuelLatch) shown :)
    speed := (congrArg (fun u => u.mon.speed) shown :)
    isolate := by
      rw [cab]
      dsimp only
      split <;> rfl
    estop := by
      rw [cab]
      dsimp only
      split <;> rfl
    notch := (congrArg (fun u => u.stepper.notch) shown :)
    target := (congrArg (fun u => u.alloc.results.target) shown :)
    params := (congrArg State.params shown :)
    judged := ended.hasCode new
    decided := by
      cases fault : s.loadFault with
      | true =>
        rw [Bool.or_true]
        refine stopDecided_of_member (ended.faultJoins fault).1 rfl fun y hy same => ?_
        rw [ended.conditions, fault] at hy
        obtain rfl | old := mem_insertMember.1 hy
        · rfl
        · exact absurd same ((hasCode_eq_false_iff _ _).1 new y old)
      | false =>
        rw [Bool.or_false]
        refine stopDecided_congr (stopDecided_of_law law) ?_
        rw [ended.conditions, fault]
        rfl
    conditions := fun sound => by
      rw [ended.conditions, sound]
      rfl }

theorem conditionLaw_loadEnded (law : ConditionLaw s) (new : hasCode s.mon.conditions 35 = false) (ended : LoadEnded s u) :
    ConditionLaw u := by
  rw [conditionLaw_iff, ended.conditions]
  split
  · exact ListLaw.insertMember (m := configFaultMember) law rfl new
  · exact law

/-- What a load hands on stands at the end of INIT (R179). -/
structure InitKept (s t : State) : Prop where
  frame : TransitionFrame [] s t
  derived : Derived s → Derived t
  alarm : AlarmLaw s → AlarmLaw t
  recovery : t.claim.recovery = s.claim.recovery

/-- Outside the states with a claim a stop leaves the own claim alone (R22). -/
theorem goStopping_claimless (claimless : s.seq.state ≠ .claimWait ∧ s.seq.state ≠ .claimSettle ∧ s.seq.state ≠ .cranking) :
    (goStopping s).claim = s.claim := by
  unfold goStopping
  rw [dropClaim_of_claimless claimless]
  exact (calm_enterStopping s).claim

theorem replaceAllocationReason_claim (s : State) : (replaceAllocationReason s).claim = s.claim := by
  unfold replaceAllocationReason
  split
  · split
    · rfl
    · split <;> rfl
  · rfl

theorem enterCooldown_claim (s : State) : (enterCooldown s).claim = s.claim := by
  have calm := (Calm.refl s).entryBase .cooldown
  have state := congrArg Sequencer.state (entryBase_seq .cooldown s)
  unfold enterCooldown
  dsimp only
  generalize entryBase .cooldown s = v at *
  split
  · exact (goStopping_claimless (by rw [state]; exact ⟨nofun, nofun, nofun⟩)).trans calm.claim
  · split
    · exact (calm_enterStopping _).claim.trans ((replaceAllocationReason_claim v).trans calm.claim)
    · exact (replaceAllocationReason_claim v).trans calm.claim

theorem enterUnloading_claim (s : State) : (enterUnloading s).claim = s.claim := by
  have calm := (Calm.refl s).entryBase .unloading
  have state := congrArg Sequencer.state (entryBase_seq .unloading s)
  unfold enterUnloading
  dsimp only
  generalize entryBase .unloading s = v at *
  split
  · exact (goStopping_claimless (by rw [state]; exact ⟨nofun, nofun, nofun⟩)).trans calm.claim
  · split
    · exact (enterCooldown_claim _).trans ((replaceAllocationReason_claim v).trans calm.claim)
    · exact (replaceAllocationReason_claim v).trans calm.claim

theorem enterOnline_claim (s : State) : (enterOnline s).claim = s.claim := by
  have calm := (Calm.refl s).entryBase .online
  have state := congrArg Sequencer.state (entryBase_seq .online s)
  unfold enterOnline
  dsimp only
  generalize entryBase .online s = v at *
  split
  · exact (goStopping_claimless (by rw [state]; exact ⟨nofun, nofun, nofun⟩)).trans calm.claim
  · split
    · exact (enterUnloading_claim _).trans calm.claim
    · split
      · exact (enterUnloading_claim _).trans calm.claim
      · unfold examineAllocationStop
        split
        · exact (enterUnloading_claim _).trans calm.claim
        · exact calm.claim

theorem initExit_claim (s : State) : (initExit s).claim = s.claim := by
  unfold initExit
  split
  · split
    · exact (calm_enterStopping s).claim
    · exact (calm_enterFaulted _).claim
  · split
    · split
      · exact enterOnline_claim _
      · exact (calm_enterStopping s).claim
    · exact (calm_enterStopped s).claim

theorem initKept (s : State) : InitKept s (initExit s) := by
  have deeds : Deeds ⟨[], true, [.minRun]⟩ s (initExit s) := (Deeds.refl s (.inl rfl)).initExit rfl (by simp)
  exact {
    frame := deeds.frame (by simp) (by
      unfold Scope.clears Scope.codes
      decide)
    derived := fun h => h.deeds deeds (by simp)
    alarm := fun h => h.deeds deeds (by simp)
    recovery := congrArg ClaimUnit.recovery (initExit_claim s) }

end

/-- Settles O34: the speed value and the load that end INIT, and the speed value that does not. -/
theorem initEndsByTheFirstCaseThatHolds : Obligations.InitEndsByTheFirstCaseThatHolds := by
  refine ⟨fun s pulses state loaded law => ?_, fun s state reading come law phase new => ?_,
    fun s pulses state unloaded => ⟨_, exec_eq_after _ _, ?_⟩⟩
  · intro speed slow absent22 absent26
    have finds := finds_of_calmly (pulses := pulses) state law ⟨fun _ => slow, absent22, absent26⟩
    obtain ⟨loaded', come⟩ := speedValue_come s pulses
    refine ⟨_, exec_eq_after _ _, ?_⟩
    rw [after_speedValue, sequencerSpeed_init finds.state, examineInit_due finds.state (loaded'.trans loaded) come]
    exact initEnds_initExit finds
  · intro image p good fault hours
    have ended := loadEnded state phase new
    have finds := finds_of_loadEnded state law new ended
    have lawful := conditionLaw_loadEnded law new ended
    have eq : s.after .configLoadCompletion = initExit s.loadEnd := by
      rw [after_load reading]
      refine examineInit_due finds.state ?_ ((congrArg (fun u => u.mon.speedYet) ended.eq :).trans come)
      rw [State.loaded, (congrArg State.load ended.eq :)]
      rfl
    refine ⟨_, exec_eq_after _ _, ?_⟩
    rw [eq]
    have ends := initEnds_initExit finds
    have kept := initKept s.loadEnd
    generalize initExit s.loadEnd = t at ends kept
    generalize s.loadEnd = u at ended kept lawful
    obtain ⟨⟨cab, ⟨-, load, params, -, -, link, alloc, -, port, mon, -, ret⟩, but⟩, derived, alarm, recovery⟩ := kept
    have shown := ended.eq
    have results : u.alloc = { s.alloc with
        powerSteps := powerStepsOf (paramsOf s.load.image), phase := .listening, listen := .running 1200 } :=
      (congrArg State.alloc shown :)
    have fresh := (derived (ended.derived lawful)).2
    have params' : t.params = paramsOf s.load.image := params.trans (congrArg State.params shown :)
    have load' : t.load = s.loadAfter := load.trans (congrArg State.load shown :)
    obtain ⟨derate, capacity⟩ := fresh (by rw [State.loaded, load']; rfl)
    rw [results] at alloc
    refine ⟨ends, params', by rw [alloc], by rw [alloc], ?_, load', ?_, derate, ?_, fun faulty => ?_, cab.trans (congrArg State.cab shown :),
      by rw [alloc], ?_, recovery.trans (congrArg (fun u => u.claim.recovery) shown :), fun numbered clear => ?_⟩
    · rw [mon]
      exact (congrArg (fun u => u.mon.routing) shown :)
    · rw [ret]
      exact (congrArg (fun u => u.ret.shadow) shown :)
    · rw [capacity, params', derate]
    · obtain ⟨member, out⟩ := ended.faultJoins faulty
      have stays := but.1 _ member (by decide)
      have law : AlarmLaw u := by
        have nonempty : u.mon.conditions.isEmpty = false := List.isEmpty_eq_false_iff.2 (List.ne_nil_of_mem member)
        rw [AlarmLaw, nonempty, out]
        rfl
      exact ⟨stays, alarm_of_member (alarm law) stays⟩
    · rw [port]
      exact ended.statusTimer
    · have enables : s.loadEnables = true := by simp [State.loadEnables, numbered, clear]
      have enabled := ended.link
      rw [if_pos enables] at enabled
      rw [link, enabled]
      exact ⟨rfl, rfl⟩
  · exact ⟨speedValue_unloaded state unloaded, congrArg Prod.snd (after_speedValue_speed s pulses)⟩

end Sys2Proof.Machine
end
